-- ==== Sys2Proof/Word.lean ====
section
/-! DEFINITION. The word types of the Dreac and the table type that sparse register and memory
structures use. The manual's words: 32-bit instruction and register words (spec/02_encoding.md R42,
spec/01_machine.md R18, R21), 64-bit lane masks (R27), bytes of memory (R2: little-endian). -/

namespace Sys2Proof

/-- A 32-bit register or instruction word (R18, R21, R42). -/
abbrev Word := BitVec 32

/-- A byte of memory. -/
abbrev Byte := BitVec 8

/-- A 64-bit value: a register pair (R19, R21), an address, a signal word. -/
abbrev DWord := BitVec 64

/-- A 64-bit lane mask: bit `l` stands for lane `l` (R27). -/
abbrev Mask := BitVec 64

/-- An 18-bit byte address of instruction memory (R42). -/
abbrev Pc := BitVec 18

/-- The elements of one vector register, lane 0 first (R18). -/
abbrev Lanes := List Word

/-- A finite table from numbers to values; a number with no entry reads as the default. -/
abbrev Tbl (α : Type) := List (Nat × α)

/-- The pair `hi:lo` as one 64-bit value (R19, R21). -/
def pairOf (lo hi : Word) : DWord := hi ++ lo

/-- Bits [31:0] of a 64-bit value. -/
def loWord (x : DWord) : Word := x.setWidth 32

/-- Bits [63:32] of a 64-bit value. -/
def hiWord (x : DWord) : Word := (x >>> 32).setWidth 32

end Sys2Proof
end

