-- ==== Sys2Proof/Syntax.lean ====
section
/-! DEFINITION. The instructions: one constructor for each row of spec/opcode_table.json. The first
292 carry an instruction word (spec/02_encoding.md R45, R50); their fields are register numbers,
raw immediates and decoded codes. The other 106 are the events of spec/95_what_each_step_holds.md:
they carry no word, they name the agent they happen to, and what enters from outside the package
(assumption log 1). -/

namespace Sys2Proof

/-- Element width of integer and memory instructions (R46: size). -/
inductive ESize where | b8 | b16 | b32 | b64
  deriving DecidableEq, Repr

/-- Element-wise float format (R50: fmt). -/
inductive EFmt where | f16 | bf16 | f32 | f64
  deriving DecidableEq, Repr

/-- Rounding field of VCVT (R52). -/
inductive CvtRnd where | lane | rne | rtz | rup | rdn | rna
  deriving DecidableEq, Repr

/-- Condition of VCMP (R50). -/
inductive Cond where | eq | ne | lt | le | gt | ge | uo | ord
  deriving DecidableEq, Repr

/-- Operand type of VCMP (R50). -/
inductive CmpType where | i32 | n32 | i64 | n64 | f16 | bf16 | f32 | f64
  deriving DecidableEq, Repr

/-- A scope (R53, R199). -/
inductive Scope where | wave | blk | pkg | job | host
  deriving DecidableEq, Repr

/-- Order field of `ldg` and `stg` (R231): plain, acquire or release at a scope, streaming. -/
inductive MemOrder where | plain | sync (sc : Scope) | streaming
  deriving DecidableEq, Repr

/-- Width of an atomic (R233). -/
inductive AWidth where | w32 | w64
  deriving DecidableEq, Repr

/-- The 24 matrix and storage formats in index order (R80, R83). -/
inductive MFmt where
  | f64 | f32 | e8m10 | bf16 | f16 | e5m2 | e4m3 | e4m3f | e3m4 | e2m5 | e3m2 | e2m3 | e2m1
  | i16 | n16 | i8 | n8 | i4 | n4 | i2 | n2 | t2 | b1 | n1
  deriving DecidableEq, Repr

/-- Group rounding of the matrix engine (R46: rnd). -/
inductive GrpRnd where | rne | rtz | rup | rdn
  deriving DecidableEq, Repr

/-- Type of an accumulator tile, in the order of the type field of R174 and of the mode codes of
R181. -/
inductive TileType where | fp32 | int32wrap | int32sat | fp64
  deriving DecidableEq, Repr

/-- Kinds of remote access (R275) that reach a home on another package; `write`: of a copy (R257). -/
inductive RemoteKind where | rld | rst | ratom | rget | write
  deriving DecidableEq, Repr

/-- What a request asks of the home (R207, R278): the checks of an access; the access; that what has been checked is not
performed; that the tags of the issuer's region, or copy, are retired. -/
inductive ReqStage where | ask | go | drop | ended
  deriving DecidableEq, Repr

/-- One lane of a remote access: its address, its operand pairs and the op of `ratom` (R276). -/
structure RemoteLane where
  lane : Nat
  addr : Nat
  data : Nat
  swap : Nat
  op   : Nat
  wide : Bool
  ret  : Bool
  deriving DecidableEq, Repr

/-- A request that arrives from a peer package (R277): its stage, whether the issuer is tracked (R211), the context that
serves the issuer's job here, the job launch tag, the issuer's identity word (R375), the number by which the issuer
knows the answer, its region, its lanes, and the bytes of a copy's write at the address of its lane. -/
structure RemoteReq where
  stage : ReqStage
  track : Bool := true
  ctx   : Nat
  jtag  : Nat := 0
  kind  : RemoteKind
  ident : Nat
  seq   : Nat := 0
  region : Nat := 0
  lanes : List RemoteLane := []
  bytes : List Nat := []
  deriving DecidableEq, Repr

/-- An answer of a peer: its rank, the identity word and the number of the request; the verdict, a trap code with its
lanes and the information from TINFO2 on (R278), or for a transfer an error code of R264, 0 for none; the lanes whose
words are poisoned (R429). -/
structure Answer where
  rank  : Nat
  ident : Nat
  seq   : Nat
  code  : Nat := 0
  mask  : Nat := 0
  info  : List Nat := []
  bad   : List Nat := []
  deriving DecidableEq, Repr

/-- A store that is performed: its wave, and a peer's answer to a pass of it. -/
structure Performed where
  w     : Nat
  reply : Option Answer := none
  deriving DecidableEq, Repr

/-- The samples of a physical core in one clock (R350): its first logical core, and of waves on it the port of the
instruction and the reason why it waits, 0 for one that does not. -/
structure Sampling where
  core  : Nat
  waves : List (Nat × Nat × Nat) := []
  deriving DecidableEq, Repr

/-- What is written to a register: 4 bytes, or 8 bytes at a pair of registers (R394). -/
structure RegData where
  wide : Bool := false
  v    : Nat
  deriving DecidableEq, Repr

/-- A contribution of `dcpr` (R268, R269). `core` and `entry` name the copy entry of a local issuer
(`entry = 64` for one of another rank), `ident` is the copy's identity word and `seq` the number by which its engine
knows the answer. -/
structure Contribution where
  ctx    : Nat
  region : Nat
  op     : Nat
  mode   : Nat
  word5  : Nat
  total  : Nat
  dst    : Nat
  elems  : List Nat
  rank   : Nat
  index  : Bool
  core   : Nat
  entry  : Nat
  ident  : Nat := 0
  seq    : Nat := 0
  deriving DecidableEq, Repr

/-- What a message to an agreement unit carries (R313, R326, R327, R321): a vote, a proxy vote, a
departure, the loss of a member, or that the time of the votes gathered with it has run out (R323). -/
inductive VoteKind where | cast | proxy | leave | lost | expire
  deriving DecidableEq, Repr

/-- A message to the home agreement unit of a quorum (R313). `member` is the member's identity
word, `site` its site word (R376). -/
structure Vote where
  ctx     : Nat
  entry   : Nat
  ordinal : Nat
  kind    : VoteKind
  member  : Nat
  site    : Nat
  value   : Bool
  code    : Nat
  deriving DecidableEq, Repr

/-- An entry of a context's quorum table (R309). -/
structure EntryId where
  ctx   : Nat
  entry : Nat
  deriving DecidableEq, Repr

/-- What an agreement unit sends to a member (R313, R321 to R323). -/
inductive VoteRes where
  | resolved (ordinal : Nat) (any all : Bool) (site : Option Nat)
  | mismatch (ordinal : Nat) (site : Nat)
  | timeout  (ordinal votes membership : Nat)
  | abort    (entry member code : Nat)
  deriving DecidableEq, Repr

/-- SPDM requests (R409, R416, R417): a key install for the context of a TDI, a measurement, a
certificate chain. -/
inductive SpdmMsg where
  | keyInstall (tdi slot : Nat) (key : List Nat) (rsalt ssalt : Nat)
  | measure (tdi : Nat) (nonce : List Nat)
  | certificate (slot : Nat)
  deriving DecidableEq, Repr

/-- Where an uncorrectable error strikes (R427); `tags` is the record of a granule's race tags, and `cache` a dirty line of
the L1 or L2 of a compute die, by its place in memory. -/
inductive ErrLoc where
  | vreg (w reg lane : Nat)
  | sreg (w reg : Nat)
  | fpc (w lane : Nat)
  | tile (w tile elem : Nat)
  | shelf (blk key elem : Nat)
  | scratch (blk addr : Nat)
  | line (blk line : Nat)
  | imem (core slot word : Nat)
  | granule (tier addr : Nat)
  | tags (tier addr : Nat)
  | cache (die tier addr : Nat)
  deriving DecidableEq, Repr

/-- The operations and events of spec/opcode_table.json, in the table's order. -/
inductive Instr where
  | nop
  | trap (n : Nat)
  | tret
  | tretPark
  | tretKill
  | sys (d : Nat) (a : Nat) (b : Nat)
  | rdsys (d : Nat) (n : Nat)
  | wrsys (a : Nat) (n : Nat)
  | ppoint (m : Nat)
  | brkpt (n : Nat)
  | wbase (n : Nat)
  | ovload (s : Nat) (a : Nat)
  | ovcall (d : Nat) (a : Nat)
  | ovret (a : Nat)
  | rdcyc (d : Nat)
  | br (off : Nat)
  | bz (s : Nat) (off : Nat)
  | bnz (s : Nat) (off : Nat)
  | blt (s : Nat) (off : Nat)
  | bge (s : Nat) (off : Nat)
  | call (s : Nat) (off : Nat)
  | ret (s : Nat)
  | jr (s : Nat) (imm : Nat)
  | bem0 (off : Nat)
  | bemx (s : Nat) (off : Nat)
  | exit
  | maskIf (s : Nat) (off : Nat)
  | maskElse (off : Nat)
  | maskEndif
  | maskLoop (off : Nat)
  | endl (off : Nat)
  | brk (n : Nat) (off : Nat)
  | cont (n : Nat) (off : Nat)
  | mpush (s : Nat)
  | mpop
  | sadd (d : Nat) (a : Nat) (b : Nat)
  | ssub (d : Nat) (a : Nat) (b : Nat)
  | smul (d : Nat) (a : Nat) (b : Nat)
  | smulhI (d : Nat) (a : Nat) (b : Nat)
  | smulhN (d : Nat) (a : Nat) (b : Nat)
  | sand (d : Nat) (a : Nat) (b : Nat)
  | sor (d : Nat) (a : Nat) (b : Nat)
  | sxor (d : Nat) (a : Nat) (b : Nat)
  | sshl (d : Nat) (a : Nat) (b : Nat)
  | sshr (d : Nat) (a : Nat) (b : Nat)
  | ssra (d : Nat) (a : Nat) (b : Nat)
  | sminI (d : Nat) (a : Nat) (b : Nat)
  | sminN (d : Nat) (a : Nat) (b : Nat)
  | smaxI (d : Nat) (a : Nat) (b : Nat)
  | smaxN (d : Nat) (a : Nat) (b : Nat)
  | sseq (d : Nat) (a : Nat) (b : Nat)
  | ssltI (d : Nat) (a : Nat) (b : Nat)
  | ssltN (d : Nat) (a : Nat) (b : Nat)
  | sdivI (d : Nat) (a : Nat) (b : Nat)
  | sdivN (d : Nat) (a : Nat) (b : Nat)
  | sremI (d : Nat) (a : Nat) (b : Nat)
  | sremN (d : Nat) (a : Nat) (b : Nat)
  | spopc (d : Nat) (a : Nat)
  | sclz (d : Nat) (a : Nat)
  | sctz (d : Nat) (a : Nat)
  | sbfx (d : Nat) (a : Nat) (b : Nat)
  | sbfi (d : Nat) (a : Nat) (b : Nat)
  | saddq (d : Nat) (a : Nat) (b : Nat)
  | ssubq (d : Nat) (a : Nat) (b : Nat)
  | sshlq (d : Nat) (a : Nat) (b : Nat)
  | saddi (d : Nat) (a : Nat) (imm : Nat)
  | sandi (d : Nat) (a : Nat) (imm : Nat)
  | sori (d : Nat) (a : Nat) (imm : Nat)
  | sxori (d : Nat) (a : Nat) (imm : Nat)
  | sshli (d : Nat) (a : Nat) (imm : Nat)
  | sshri (d : Nat) (a : Nat) (imm : Nat)
  | ssrai (d : Nat) (a : Nat) (imm : Nat)
  | sseqi (d : Nat) (a : Nat) (imm : Nat)
  | sslti (d : Nat) (a : Nat) (imm : Nat)
  | saddqi (d : Nat) (a : Nat) (imm : Nat)
  | sli (d : Nat) (imm : Nat)
  | slih (d : Nat) (imm : Nat)
  | vadd (sz : ESize) (d : Nat) (a : Nat) (b : Nat)
  | vsub (sz : ESize) (d : Nat) (a : Nat) (b : Nat)
  | vmul (sz : ESize) (d : Nat) (a : Nat) (b : Nat)
  | vmulhI (sz : ESize) (d : Nat) (a : Nat) (b : Nat)
  | vmulhN (sz : ESize) (d : Nat) (a : Nat) (b : Nat)
  | vand (sz : ESize) (d : Nat) (a : Nat) (b : Nat)
  | vor (sz : ESize) (d : Nat) (a : Nat) (b : Nat)
  | vxor (sz : ESize) (d : Nat) (a : Nat) (b : Nat)
  | vshl (sz : ESize) (d : Nat) (a : Nat) (b : Nat)
  | vshr (sz : ESize) (d : Nat) (a : Nat) (b : Nat)
  | vsra (sz : ESize) (d : Nat) (a : Nat) (b : Nat)
  | vminI (sz : ESize) (d : Nat) (a : Nat) (b : Nat)
  | vminN (sz : ESize) (d : Nat) (a : Nat) (b : Nat)
  | vmaxI (sz : ESize) (d : Nat) (a : Nat) (b : Nat)
  | vmaxN (sz : ESize) (d : Nat) (a : Nat) (b : Nat)
  | vmad (sz : ESize) (d : Nat) (a : Nat) (b : Nat)
  | vaddScalar (sz : ESize) (d : Nat) (a : Nat) (b : Nat)
  | vsubScalar (sz : ESize) (d : Nat) (a : Nat) (b : Nat)
  | vmulScalar (sz : ESize) (d : Nat) (a : Nat) (b : Nat)
  | vmulhIScalar (sz : ESize) (d : Nat) (a : Nat) (b : Nat)
  | vmulhNScalar (sz : ESize) (d : Nat) (a : Nat) (b : Nat)
  | vandScalar (sz : ESize) (d : Nat) (a : Nat) (b : Nat)
  | vorScalar (sz : ESize) (d : Nat) (a : Nat) (b : Nat)
  | vxorScalar (sz : ESize) (d : Nat) (a : Nat) (b : Nat)
  | vshlScalar (sz : ESize) (d : Nat) (a : Nat) (b : Nat)
  | vshrScalar (sz : ESize) (d : Nat) (a : Nat) (b : Nat)
  | vsraScalar (sz : ESize) (d : Nat) (a : Nat) (b : Nat)
  | vminIScalar (sz : ESize) (d : Nat) (a : Nat) (b : Nat)
  | vminNScalar (sz : ESize) (d : Nat) (a : Nat) (b : Nat)
  | vmaxIScalar (sz : ESize) (d : Nat) (a : Nat) (b : Nat)
  | vmaxNScalar (sz : ESize) (d : Nat) (a : Nat) (b : Nat)
  | vmadScalar (sz : ESize) (d : Nat) (a : Nat) (b : Nat)
  | vaddi (sz : ESize) (d : Nat) (a : Nat) (imm : Nat)
  | vandi (sz : ESize) (d : Nat) (a : Nat) (imm : Nat)
  | vori (sz : ESize) (d : Nat) (a : Nat) (imm : Nat)
  | vxori (sz : ESize) (d : Nat) (a : Nat) (imm : Nat)
  | vshli (sz : ESize) (d : Nat) (a : Nat) (imm : Nat)
  | vshri (sz : ESize) (d : Nat) (a : Nat) (imm : Nat)
  | vsrai (sz : ESize) (d : Nat) (a : Nat) (imm : Nat)
  | vmuli (sz : ESize) (d : Nat) (a : Nat) (imm : Nat)
  | vpopc (sz : ESize) (d : Nat) (a : Nat)
  | vclz (sz : ESize) (d : Nat) (a : Nat)
  | vctz (sz : ESize) (d : Nat) (a : Nat)
  | vabs (sz : ESize) (d : Nat) (a : Nat)
  | vneg (sz : ESize) (d : Nat) (a : Nat)
  | vbrev (sz : ESize) (d : Nat) (a : Nat)
  | fadd (fm : EFmt) (d : Nat) (a : Nat) (b : Nat)
  | fsub (fm : EFmt) (d : Nat) (a : Nat) (b : Nat)
  | fmul (fm : EFmt) (d : Nat) (a : Nat) (b : Nat)
  | fdiv (fm : EFmt) (d : Nat) (a : Nat) (b : Nat)
  | fmin (fm : EFmt) (d : Nat) (a : Nat) (b : Nat)
  | fmax (fm : EFmt) (d : Nat) (a : Nat) (b : Nat)
  | fminn (fm : EFmt) (d : Nat) (a : Nat) (b : Nat)
  | fmaxn (fm : EFmt) (d : Nat) (a : Nat) (b : Nat)
  | fcpys (fm : EFmt) (d : Nat) (a : Nat) (b : Nat)
  | fscale (fm : EFmt) (d : Nat) (a : Nat) (b : Nat)
  | frem (fm : EFmt) (d : Nat) (a : Nat) (b : Nat)
  | fsqrt (fm : EFmt) (d : Nat) (a : Nat)
  | fabs (fm : EFmt) (d : Nat) (a : Nat)
  | fneg (fm : EFmt) (d : Nat) (a : Nat)
  | frint (fm : EFmt) (d : Nat) (a : Nat)
  | fclass (fm : EFmt) (d : Nat) (a : Nat)
  | faddScalar (fm : EFmt) (d : Nat) (a : Nat) (b : Nat)
  | fsubScalar (fm : EFmt) (d : Nat) (a : Nat) (b : Nat)
  | fmulScalar (fm : EFmt) (d : Nat) (a : Nat) (b : Nat)
  | fdivScalar (fm : EFmt) (d : Nat) (a : Nat) (b : Nat)
  | fminScalar (fm : EFmt) (d : Nat) (a : Nat) (b : Nat)
  | fmaxScalar (fm : EFmt) (d : Nat) (a : Nat) (b : Nat)
  | fminnScalar (fm : EFmt) (d : Nat) (a : Nat) (b : Nat)
  | fmaxnScalar (fm : EFmt) (d : Nat) (a : Nat) (b : Nat)
  | fcpysScalar (fm : EFmt) (d : Nat) (a : Nat) (b : Nat)
  | fscaleScalar (fm : EFmt) (d : Nat) (a : Nat) (b : Nat)
  | fremScalar (fm : EFmt) (d : Nat) (a : Nat) (b : Nat)
  | ffma (fm : EFmt) (d : Nat) (a : Nat) (b : Nat)
  | ffms (fm : EFmt) (d : Nat) (a : Nat) (b : Nat)
  | ffnma (fm : EFmt) (d : Nat) (a : Nat) (b : Nat)
  | ffnms (fm : EFmt) (d : Nat) (a : Nat) (b : Nat)
  | vcvt (pair : Nat) (d : Nat) (a : Nat) (rnd : CvtRnd) (sat : Bool) (pos : Nat)
  | frcp (fm : EFmt) (d : Nat) (a : Nat)
  | frsq (fm : EFmt) (d : Nat) (a : Nat)
  | fexp2 (fm : EFmt) (d : Nat) (a : Nat)
  | flog2 (fm : EFmt) (d : Nat) (a : Nat)
  | fsin (fm : EFmt) (d : Nat) (a : Nat)
  | fcos (fm : EFmt) (d : Nat) (a : Nat)
  | vcmp (cond : Cond) (ty : CmpType) (d : Nat) (a : Nat) (b : Nat)
  | vbcast (d : Nat) (a : Nat) (b : Nat)
  | vperm (d : Nat) (a : Nat) (b : Nat)
  | vshfup (d : Nat) (a : Nat) (b : Nat)
  | vshfdn (d : Nat) (a : Nat) (b : Nat)
  | vshfx (d : Nat) (a : Nat) (b : Nat)
  | vvoteAny (d : Nat) (a : Nat)
  | vvoteAll (d : Nat) (a : Nat)
  | vballot (d : Nat) (a : Nat)
  | vmatchB32 (d : Nat) (a : Nat)
  | vmatchF32 (d : Nat) (a : Nat)
  | vcompact (d : Nat) (a : Nat) (b : Nat)
  | vscanAddI32 (d : Nat) (a : Nat) (b : Nat)
  | vscanAddF32 (d : Nat) (a : Nat) (b : Nat)
  | vscanMinI (d : Nat) (a : Nat) (b : Nat)
  | vscanMinN (d : Nat) (a : Nat) (b : Nat)
  | vscanMaxI (d : Nat) (a : Nat) (b : Nat)
  | vscanMaxN (d : Nat) (a : Nat) (b : Nat)
  | vscanAnd (d : Nat) (a : Nat) (b : Nat)
  | vscanOr (d : Nat) (a : Nat) (b : Nat)
  | vscanxAddI32 (d : Nat) (a : Nat) (b : Nat)
  | vscanxAddF32 (d : Nat) (a : Nat) (b : Nat)
  | vscanxMinI (d : Nat) (a : Nat) (b : Nat)
  | vscanxMinN (d : Nat) (a : Nat) (b : Nat)
  | vscanxMaxI (d : Nat) (a : Nat) (b : Nat)
  | vscanxMaxN (d : Nat) (a : Nat) (b : Nat)
  | vscanxAnd (d : Nat) (a : Nat) (b : Nat)
  | vscanxOr (d : Nat) (a : Nat) (b : Nat)
  | vredAddI32 (d : Nat) (a : Nat) (b : Nat)
  | vredAddF32 (d : Nat) (a : Nat) (b : Nat)
  | vredMinI (d : Nat) (a : Nat) (b : Nat)
  | vredMinN (d : Nat) (a : Nat) (b : Nat)
  | vredMaxI (d : Nat) (a : Nat) (b : Nat)
  | vredMaxN (d : Nat) (a : Nat) (b : Nat)
  | vredAnd (d : Nat) (a : Nat) (b : Nat)
  | vredOr (d : Nat) (a : Nat) (b : Nat)
  | vmov (d : Nat) (a : Nat)
  | vsel (d : Nat) (a : Nat) (b : Nat)
  | vmovs (d : Nat) (a : Nat)
  | vread (d : Nat) (a : Nat) (b : Nat)
  | vwrite (d : Nat) (a : Nat) (b : Nat)
  | emget (d : Nat)
  | emset (a : Nat)
  | fpcget (d : Nat)
  | fpcset (a : Nat)
  | fpcclr
  | vlaneid (d : Nat)
  | smov (d : Nat) (a : Nat)
  | smovx (d : Nat) (n : Nat)
  | lcset (a : Nat)
  | lcget (d : Nat)
  | ldg (sz : ESize) (sign : Bool) (ord : MemOrder) (d : Nat) (a : Nat) (b : Nat)
  | stg (sz : ESize) (ord : MemOrder) (d : Nat) (a : Nat) (b : Nat)
  | atomAdd (wd : AWidth) (ret : Bool) (d : Nat) (a : Nat) (b : Nat)
  | atomSub (wd : AWidth) (ret : Bool) (d : Nat) (a : Nat) (b : Nat)
  | atomMinI (wd : AWidth) (ret : Bool) (d : Nat) (a : Nat) (b : Nat)
  | atomMinN (wd : AWidth) (ret : Bool) (d : Nat) (a : Nat) (b : Nat)
  | atomMaxI (wd : AWidth) (ret : Bool) (d : Nat) (a : Nat) (b : Nat)
  | atomMaxN (wd : AWidth) (ret : Bool) (d : Nat) (a : Nat) (b : Nat)
  | atomAnd (wd : AWidth) (ret : Bool) (d : Nat) (a : Nat) (b : Nat)
  | atomOr (wd : AWidth) (ret : Bool) (d : Nat) (a : Nat) (b : Nat)
  | atomXor (wd : AWidth) (ret : Bool) (d : Nat) (a : Nat) (b : Nat)
  | atomXchg (wd : AWidth) (ret : Bool) (d : Nat) (a : Nat) (b : Nat)
  | atomCas (wd : AWidth) (ret : Bool) (d : Nat) (a : Nat) (b : Nat)
  | atomInc (wd : AWidth) (ret : Bool) (d : Nat) (a : Nat) (b : Nat)
  | atomDec (wd : AWidth) (ret : Bool) (d : Nat) (a : Nat) (b : Nat)
  | atomFaddF32 (ret : Bool) (d : Nat) (a : Nat) (b : Nat)
  | atomFaddF64 (ret : Bool) (d : Nat) (a : Nat) (b : Nat)
  | lds (sz : ESize) (d : Nat) (a : Nat) (b : Nat)
  | ldsTake (sz : ESize) (d : Nat) (a : Nat) (b : Nat)
  | ldsTry (sz : ESize) (d : Nat) (a : Nat) (b : Nat)
  | ldsLine (d : Nat) (a : Nat) (b : Nat)
  | sts (sz : ESize) (d : Nat) (a : Nat) (b : Nat)
  | satomAdd (wd : AWidth) (d : Nat) (a : Nat) (b : Nat)
  | satomMinI (wd : AWidth) (d : Nat) (a : Nat) (b : Nat)
  | satomMinN (wd : AWidth) (d : Nat) (a : Nat) (b : Nat)
  | satomMaxI (wd : AWidth) (d : Nat) (a : Nat) (b : Nat)
  | satomMaxN (wd : AWidth) (d : Nat) (a : Nat) (b : Nat)
  | satomAnd (wd : AWidth) (d : Nat) (a : Nat) (b : Nat)
  | satomOr (wd : AWidth) (d : Nat) (a : Nat) (b : Nat)
  | satomXchg (wd : AWidth) (d : Nat) (a : Nat) (b : Nat)
  | satomCas (wd : AWidth) (d : Nat) (a : Nat) (b : Nat)
  | sfin (a : Nat) (b : Nat)
  | sclr (a : Nat) (b : Nat)
  | sopen (a : Nat) (b : Nat)
  | pld (d : Nat) (a : Nat) (b : Nat)
  | pst (d : Nat) (a : Nat) (b : Nat)
  | pldq (d : Nat) (a : Nat) (b : Nat)
  | pstq (d : Nat) (a : Nat) (b : Nat)
  | fenceRel (sc : Scope)
  | fenceAcq (sc : Scope)
  | fenceSc (sc : Scope)
  | wait (ld : Nat) (st : Nat) (cp : Nat) (tl : Nat)
  | bar (k : Nat) (b : Nat)
  | barArr (k : Nat) (b : Nat)
  | barWt (k : Nat)
  | sig (sc : Scope) (a : Nat) (b : Nat)
  | sigwait (sc : Scope) (a : Nat) (b : Nat)
  | flushw (sc : Scope) (a : Nat) (b : Nat)
  | invl (sc : Scope) (a : Nat) (b : Nat)
  | dcp (a : Nat)
  | dcp2 (a : Nat)
  | dcpg (d : Nat) (a : Nat) (b : Nat)
  | dcpx (a : Nat)
  | dcpr (a : Nat)
  | dstat (d : Nat) (a : Nat)
  | rld (d : Nat) (a : Nat) (b : Nat)
  | rst (d : Nat) (a : Nat) (b : Nat)
  | ratom (d : Nat) (a : Nat) (b : Nat)
  | rput (d : Nat) (a : Nat) (b : Nat)
  | rget (d : Nat) (a : Nat) (b : Nat)
  | rflush (a : Nat) (b : Nat)
  | mma (fm : MFmt) (a : Nat) (slot : Nat) (tile : Nat) (rnd : GrpRnd) (scl : Bool) (nega : Bool)
  | bload (scl : Bool) (slot : Nat) (a : Nat) (fm : MFmt)
  | bfree (slot : Nat)
  | mzero (tile : Nat) (mode : TileType)
  | mst (d : Nat) (sat : Bool) (tile : Nat) (rnd : GrpRnd) (fm : MFmt)
  | mld (tile : Nat) (a : Nat) (mode : TileType)
  | mstat (d : Nat) (tile : Nat)
  | mstatClr (d : Nat) (tile : Nat)
  | mstatSet (d : Nat) (tile : Nat)
  | mtov (d : Nat) (tile : Nat) (b : Nat)
  | vtom (tile : Nat) (a : Nat) (b : Nat)
  | cbrAny (hint : Bool) (q : Nat) (p : Nat) (off : Nat)
  | cbrAll (hint : Bool) (q : Nat) (p : Nat) (off : Nat)
  | qbar (q : Nat)
  | cvote (a : Nat) (q : Nat)
  | qleave (q : Nat)
  | qstat (d : Nat) (q : Nat)
  | tkwait
  | tkpass
  | illegalInstruction (word : Nat)
  | trapEntry (w : Nat)
  | exitDrain (w : Nat)
  | loadComplete (w : Nat) (reply : Option Answer) (vals : List (Nat × Nat))
  | storePerformed (x : Performed)
  | mmaComplete (w : Nat)
  | bloadComplete (w : Nat)
  | mldComplete (w : Nat)
  | mstLineWrite (w : Nat) (resumed : Bool)
  | overlayLoadComplete (core : Nat) (slot : Nat)
  | sysReply (w : Nat) (data : List Nat)
  | storageCompletion (w : Nat) (lane : Nat) (status : Nat) (blocks : Nat) (data : List Nat)
  | copyService (core : Nat)
  | arrival (ctx : Nat) (jtag : Nat) (ident : Nat) (seq : Nat) (places : List (Nat × Nat)) (data : List (List Nat))
  | remoteRequest (r : RemoteReq)
  | reduceContribution (c : Contribution)
  | elemResend (core : Nat) (entry : Nat)
  | voteArrival (v : Vote)
  | voteResult (w : Nat) (q : EntryId) (res : VoteRes)
  | collectiveTimeout (ctx : Nat) (entry : Nat)
  | watchdog (w : Nat)
  | preemptDeadline (l : Nat)
  | parkComplete (w : Nat)
  | blockRestore (blk : Nat)
  | quantumEnd (core : Nat)
  | blockPlace (l : Nat)
  | blockRetire (blk : Nat)
  | launchComplete (l : Nat)
  | launch (ctx : Nat) (q : Nat)
  | copy (ctx : Nat) (q : Nat)
  | signal (ctx : Nat) (q : Nat)
  | waitsig (ctx : Nat) (q : Nat)
  | waitsigSatisfied (ctx : Nat) (q : Nat)
  | flush (ctx : Nat) (q : Nat)
  | inval (ctx : Nat) (q : Nat)
  | checkpointSave (ctx : Nat) (q : Nat)
  | checkpointRestore (ctx : Nat) (q : Nat)
  | ownership (ctx : Nat) (q : Nat)
  | tail (ctx : Nat) (q : Nat) (master : Nat) (v : Nat)
  | crhead (ctx : Nat) (q : Nat) (master : Nat) (v : Nat)
  | preq (ctx : Nat) (master : Nat) (v : Nat)
  | prelease (ctx : Nat) (master : Nat) (v : Nat)
  | ownclaim (rid : Nat)
  | ownbeat (rid : Nat)
  | electionWindowEnd
  | ownershipLapse
  | handoverLapsed
  | create
  | destroy
  | qwrite
  | keyset
  | keyclr
  | tlbinv
  | lease
  | revoke
  | revokeAbort (i : Nat)
  | revokeControllerReset (i : Nat)
  | attest
  | spdmMessage (m : SpdmMsg)
  | tdiError (tdi : Nat)
  | halt (ctx : Nat) (master : Nat) (ident : Nat)
  | resume (ctx : Nat) (master : Nat) (ident : Nat)
  | step (ctx : Nat) (master : Nat) (ident : Nat) (count : Nat)
  | readRegister (ctx : Nat) (master : Nat) (ident : Nat) (operand : Nat)
  | writeRegister (ctx : Nat) (master : Nat) (ident : Nat) (operand : Nat)
  | readAtticSections (ctx : Nat) (master : Nat) (operand : Nat)
  | scan
  | digestOnlyScan
  | atticResume
  | restart
  | stopctl (master : Nat) (v : Nat)
  | freeze
  | loggedArrivalDelivery
  | uncorrectableError (e : ErrLoc)
  | refreshRateChange (sensor : Nat) (rate : Nat)
  | faultReply (ctx : Nat) (va : Nat) (ok : Bool) (code : Nat)
  | migClear (ctx : Nat) (va : Nat)
  | priResponse (ctx : Nat) (va : Nat) (w : Bool) (code : Nat)
  | priTimeout (ctx : Nat) (va : Nat)
  | atsInvalidation (pasid : Nat) (base : Nat) (len : Nat)
  | shootdown (ctx : Nat) (va : Nat) (phase : Nat)
  | matrixSelfTest (core : Nat) (part : Nat) (badBank : Option Nat)
  | matrixHang (core : Nat) (part : Nat)
  | matrixResetDone (core : Nat) (part : Nat) (badBanks : List Nat)
  | sample (x : Sampling)
  | waitForReading
  | heartbeat (rank : Option Nat)
  | rankLost (rank : Nat)
  | departureFlit (rank : Nat)
  | linkDown (rank : Nat)
  | detourResend (rank : Nat)
  | linkReplay (port : Nat)
  | alignmentExchange
  | alignmentReply (rank : Nat) (t1 : Nat)
  | alignmentResult (t1 : Nat) (t2 : Nat) (t3 : Nat)
  | rcvgo (master : Nat)
  | recoveryFetchEnd (result : Nat) (bad : List Nat) (banks : List (Nat × Nat × Nat))
  | coldReset (flashOk : Bool) (bad : List Nat) (banks : List (Nat × Nat × Nat))
  | packageReset (bad : List Nat) (banks : List (Nat × Nat × Nat))
  | thrctl (v : Nat)
  | powerMeasurement (watts : Nat) (temps : List Nat)
  | thermalPowerRemoval
  | firmwareUpdate (data : List Nat)
  | registerWrite (master : Nat) (page : Nat) (off : Nat) (x : RegData)
  | portDown (port : Nat)
  | ethernetFrame (port : Nat) (data : List Nat)
  deriving DecidableEq, Repr

end Sys2Proof
end

