-- ==== Sys2Proof/WellFormed.lean ====
section
/-! DEFINITION. Which instructions are well formed: every field lies in its bit field (spec/02_encoding.md
R45, R46) and no word of R54 is named. A word whose fields fail a check is not an instruction and
raises ILLEGAL_INSTRUCTION (R56). Register alignment and ownership are checked when an instruction
executes (R49), not here. Events carry no word and pass. -/

namespace Sys2Proof

/-- Element width in bits (R46). -/
def ESize.bits : ESize → Nat
  | .b8 => 8 | .b16 => 16 | .b32 => 32 | .b64 => 64

/-- The registers of R387 have these numbers: all but 25 to 31, 80 to 95 and 104 to 127 (R54). -/
def sysRegExists (n : Nat) : Bool :=
  decide (n < 25) || decide (32 ≤ n ∧ n < 80) || decide (96 ≤ n ∧ n < 104)

/-- Pairs of R156 whose saturate bit has a meaning. -/
def cvtHasSat (pair : Nat) : Bool := [0, 2, 4, 6, 8, 11, 12, 14, 16].contains pair

/-- Number of packed positions of a pair of R156; 1 for a pair without positions. -/
def cvtPositions (pair : Nat) : Nat :=
  if 14 ≤ pair ∧ pair ≤ 27 then 4
  else if pair = 28 ∨ pair = 29 then 8
  else if 50 ≤ pair ∧ pair ≤ 53 then 4
  else if 54 ≤ pair ∧ pair ≤ 57 then 8
  else if pair = 60 ∨ pair = 61 ∨ pair = 63 then 4
  else 1

/-- The control bits of VCVT that R157 admits. -/
def cvtLegal (pair : Nat) (sat : Bool) (pos : Nat) : Bool :=
  (cvtHasSat pair || !sat) && decide (pos < cvtPositions pair)

/-- Ordered and unordered tests exist for float types only (R54). -/
def cmpLegal (c : Cond) (t : CmpType) : Bool :=
  match c, t with
  | .uo, .i32 | .uo, .n32 | .uo, .i64 | .uo, .n64 => false
  | .ord, .i32 | .ord, .n32 | .ord, .i64 | .ord, .n64 => false
  | _, _ => true

/-- The sign bit of `ldg` exists for sizes 0 and 1 only (R54). -/
def loadSignLegal (sz : ESize) (sign : Bool) : Bool :=
  match sz with
  | .b8 | .b16 => true
  | .b32 | .b64 => !sign

/-- The formats that take a rounding and scale factors in `mma` (R175): indices 0 to 12. -/
def MFmt.hasRounding : MFmt → Bool
  | .f64 | .f32 | .e8m10 | .bf16 | .f16 | .e5m2 | .e4m3 | .e4m3f | .e3m4 | .e2m5 | .e3m2 | .e2m3
  | .e2m1 => true
  | .i16 | .n16 | .i8 | .n8 | .i4 | .n4 | .i2 | .n2 | .t2 | .b1 | .n1 => false

/-- The output formats of `mst` (R181): indices 0 to 7 and 13 to 16. -/
def MFmt.isOutput : MFmt → Bool
  | .f64 | .f32 | .e8m10 | .bf16 | .f16 | .e5m2 | .e4m3 | .e4m3f | .i16 | .n16 | .i8 | .n8 => true
  | .e3m4 | .e2m5 | .e3m2 | .e2m3 | .e2m1 | .i4 | .n4 | .i2 | .n2 | .t2 | .b1 | .n1 => false

/-- Scopes 1 to 4, which fences and signals take (R246). -/
def Scope.isBlkOrWider : Scope → Bool
  | .wave => false
  | .blk | .pkg | .job | .host => true

/-- Scopes 2 and 4, which `flushw` and `invl` take (R246). -/
def Scope.isPkgOrHost : Scope → Bool
  | .pkg | .host => true
  | .wave | .blk | .job => false

/-- An instruction whose fields the encoding admits (R46, R54). -/
def Instr.wf : Instr → Bool
  | .nop => true
  | .trap n => decide (n < 128)
  | .tret => true
  | .tretPark => true
  | .tretKill => true
  | .sys d a b => decide (d < 128) && decide (a < 128) && decide (b < 128)
  | .rdsys d n => decide (d < 128) && decide (n < 128) && sysRegExists n
  | .wrsys a n => decide (a < 128) && decide (n < 128) && sysRegExists n
  | .ppoint m => decide (m < 256)
  | .brkpt n => decide (n < 128)
  | .wbase n => decide (n < 64)
  | .ovload s a => decide (s < 128) && decide (a < 128) && decide (1 ≤ s) && decide (s ≤ 3)
  | .ovcall d a => decide (d < 128) && decide (a < 128)
  | .ovret a => decide (a < 128)
  | .rdcyc d => decide (d < 128)
  | .br off => decide (off < 65536)
  | .bz s off => decide (s < 128) && decide (off < 65536)
  | .bnz s off => decide (s < 128) && decide (off < 65536)
  | .blt s off => decide (s < 128) && decide (off < 65536)
  | .bge s off => decide (s < 128) && decide (off < 65536)
  | .call s off => decide (s < 128) && decide (off < 65536)
  | .ret s => decide (s < 128)
  | .jr s imm => decide (s < 128) && decide (imm < 65536)
  | .bem0 off => decide (off < 65536)
  | .bemx s off => decide (s < 128) && decide (off < 65536)
  | .exit => true
  | .maskIf s off => decide (s < 128) && decide (off < 65536)
  | .maskElse off => decide (off < 65536)
  | .maskEndif => true
  | .maskLoop off => decide (off < 65536)
  | .endl off => decide (off < 65536)
  | .brk n off => decide (n < 128) && decide (off < 65536) && decide (n ≤ 14)
  | .cont n off => decide (n < 128) && decide (off < 65536) && decide (n ≤ 14)
  | .mpush s => decide (s < 128)
  | .mpop => true
  | .sadd d a b => decide (d < 128) && decide (a < 128) && decide (b < 128)
  | .ssub d a b => decide (d < 128) && decide (a < 128) && decide (b < 128)
  | .smul d a b => decide (d < 128) && decide (a < 128) && decide (b < 128)
  | .smulhI d a b => decide (d < 128) && decide (a < 128) && decide (b < 128)
  | .smulhN d a b => decide (d < 128) && decide (a < 128) && decide (b < 128)
  | .sand d a b => decide (d < 128) && decide (a < 128) && decide (b < 128)
  | .sor d a b => decide (d < 128) && decide (a < 128) && decide (b < 128)
  | .sxor d a b => decide (d < 128) && decide (a < 128) && decide (b < 128)
  | .sshl d a b => decide (d < 128) && decide (a < 128) && decide (b < 128)
  | .sshr d a b => decide (d < 128) && decide (a < 128) && decide (b < 128)
  | .ssra d a b => decide (d < 128) && decide (a < 128) && decide (b < 128)
  | .sminI d a b => decide (d < 128) && decide (a < 128) && decide (b < 128)
  | .sminN d a b => decide (d < 128) && decide (a < 128) && decide (b < 128)
  | .smaxI d a b => decide (d < 128) && decide (a < 128) && decide (b < 128)
  | .smaxN d a b => decide (d < 128) && decide (a < 128) && decide (b < 128)
  | .sseq d a b => decide (d < 128) && decide (a < 128) && decide (b < 128)
  | .ssltI d a b => decide (d < 128) && decide (a < 128) && decide (b < 128)
  | .ssltN d a b => decide (d < 128) && decide (a < 128) && decide (b < 128)
  | .sdivI d a b => decide (d < 128) && decide (a < 128) && decide (b < 128)
  | .sdivN d a b => decide (d < 128) && decide (a < 128) && decide (b < 128)
  | .sremI d a b => decide (d < 128) && decide (a < 128) && decide (b < 128)
  | .sremN d a b => decide (d < 128) && decide (a < 128) && decide (b < 128)
  | .spopc d a => decide (d < 128) && decide (a < 128)
  | .sclz d a => decide (d < 128) && decide (a < 128)
  | .sctz d a => decide (d < 128) && decide (a < 128)
  | .sbfx d a b => decide (d < 128) && decide (a < 128) && decide (b < 128)
  | .sbfi d a b => decide (d < 128) && decide (a < 128) && decide (b < 128)
  | .saddq d a b => decide (d < 128) && decide (a < 128) && decide (b < 128)
  | .ssubq d a b => decide (d < 128) && decide (a < 128) && decide (b < 128)
  | .sshlq d a b => decide (d < 128) && decide (a < 128) && decide (b < 128)
  | .saddi d a imm => decide (d < 128) && decide (a < 128) && decide (imm < 512)
  | .sandi d a imm => decide (d < 128) && decide (a < 128) && decide (imm < 512)
  | .sori d a imm => decide (d < 128) && decide (a < 128) && decide (imm < 512)
  | .sxori d a imm => decide (d < 128) && decide (a < 128) && decide (imm < 512)
  | .sshli d a imm => decide (d < 128) && decide (a < 128) && decide (imm < 32)
  | .sshri d a imm => decide (d < 128) && decide (a < 128) && decide (imm < 32)
  | .ssrai d a imm => decide (d < 128) && decide (a < 128) && decide (imm < 32)
  | .sseqi d a imm => decide (d < 128) && decide (a < 128) && decide (imm < 512)
  | .sslti d a imm => decide (d < 128) && decide (a < 128) && decide (imm < 512)
  | .saddqi d a imm => decide (d < 128) && decide (a < 128) && decide (imm < 512)
  | .sli d imm => decide (d < 128) && decide (imm < 65536)
  | .slih d imm => decide (d < 128) && decide (imm < 65536)
  | .vadd _ d a b => decide (d < 128) && decide (a < 128) && decide (b < 128)
  | .vsub _ d a b => decide (d < 128) && decide (a < 128) && decide (b < 128)
  | .vmul _ d a b => decide (d < 128) && decide (a < 128) && decide (b < 128)
  | .vmulhI _ d a b => decide (d < 128) && decide (a < 128) && decide (b < 128)
  | .vmulhN _ d a b => decide (d < 128) && decide (a < 128) && decide (b < 128)
  | .vand _ d a b => decide (d < 128) && decide (a < 128) && decide (b < 128)
  | .vor _ d a b => decide (d < 128) && decide (a < 128) && decide (b < 128)
  | .vxor _ d a b => decide (d < 128) && decide (a < 128) && decide (b < 128)
  | .vshl _ d a b => decide (d < 128) && decide (a < 128) && decide (b < 128)
  | .vshr _ d a b => decide (d < 128) && decide (a < 128) && decide (b < 128)
  | .vsra _ d a b => decide (d < 128) && decide (a < 128) && decide (b < 128)
  | .vminI _ d a b => decide (d < 128) && decide (a < 128) && decide (b < 128)
  | .vminN _ d a b => decide (d < 128) && decide (a < 128) && decide (b < 128)
  | .vmaxI _ d a b => decide (d < 128) && decide (a < 128) && decide (b < 128)
  | .vmaxN _ d a b => decide (d < 128) && decide (a < 128) && decide (b < 128)
  | .vmad _ d a b => decide (d < 128) && decide (a < 128) && decide (b < 128)
  | .vaddScalar _ d a b => decide (d < 128) && decide (a < 128) && decide (b < 128)
  | .vsubScalar _ d a b => decide (d < 128) && decide (a < 128) && decide (b < 128)
  | .vmulScalar _ d a b => decide (d < 128) && decide (a < 128) && decide (b < 128)
  | .vmulhIScalar _ d a b => decide (d < 128) && decide (a < 128) && decide (b < 128)
  | .vmulhNScalar _ d a b => decide (d < 128) && decide (a < 128) && decide (b < 128)
  | .vandScalar _ d a b => decide (d < 128) && decide (a < 128) && decide (b < 128)
  | .vorScalar _ d a b => decide (d < 128) && decide (a < 128) && decide (b < 128)
  | .vxorScalar _ d a b => decide (d < 128) && decide (a < 128) && decide (b < 128)
  | .vshlScalar _ d a b => decide (d < 128) && decide (a < 128) && decide (b < 128)
  | .vshrScalar _ d a b => decide (d < 128) && decide (a < 128) && decide (b < 128)
  | .vsraScalar _ d a b => decide (d < 128) && decide (a < 128) && decide (b < 128)
  | .vminIScalar _ d a b => decide (d < 128) && decide (a < 128) && decide (b < 128)
  | .vminNScalar _ d a b => decide (d < 128) && decide (a < 128) && decide (b < 128)
  | .vmaxIScalar _ d a b => decide (d < 128) && decide (a < 128) && decide (b < 128)
  | .vmaxNScalar _ d a b => decide (d < 128) && decide (a < 128) && decide (b < 128)
  | .vmadScalar _ d a b => decide (d < 128) && decide (a < 128) && decide (b < 128)
  | .vaddi _ d a imm => decide (d < 128) && decide (a < 128) && decide (imm < 128)
  | .vandi _ d a imm => decide (d < 128) && decide (a < 128) && decide (imm < 128)
  | .vori _ d a imm => decide (d < 128) && decide (a < 128) && decide (imm < 128)
  | .vxori _ d a imm => decide (d < 128) && decide (a < 128) && decide (imm < 128)
  | .vshli sz d a imm => decide (d < 128) && decide (a < 128) && decide (imm < 128) && decide (imm < sz.bits)
  | .vshri sz d a imm => decide (d < 128) && decide (a < 128) && decide (imm < 128) && decide (imm < sz.bits)
  | .vsrai sz d a imm => decide (d < 128) && decide (a < 128) && decide (imm < 128) && decide (imm < sz.bits)
  | .vmuli _ d a imm => decide (d < 128) && decide (a < 128) && decide (imm < 128)
  | .vpopc _ d a => decide (d < 128) && decide (a < 128)
  | .vclz _ d a => decide (d < 128) && decide (a < 128)
  | .vctz _ d a => decide (d < 128) && decide (a < 128)
  | .vabs _ d a => decide (d < 128) && decide (a < 128)
  | .vneg _ d a => decide (d < 128) && decide (a < 128)
  | .vbrev _ d a => decide (d < 128) && decide (a < 128)
  | .fadd _ d a b => decide (d < 128) && decide (a < 128) && decide (b < 128)
  | .fsub _ d a b => decide (d < 128) && decide (a < 128) && decide (b < 128)
  | .fmul _ d a b => decide (d < 128) && decide (a < 128) && decide (b < 128)
  | .fdiv _ d a b => decide (d < 128) && decide (a < 128) && decide (b < 128)
  | .fmin _ d a b => decide (d < 128) && decide (a < 128) && decide (b < 128)
  | .fmax _ d a b => decide (d < 128) && decide (a < 128) && decide (b < 128)
  | .fminn _ d a b => decide (d < 128) && decide (a < 128) && decide (b < 128)
  | .fmaxn _ d a b => decide (d < 128) && decide (a < 128) && decide (b < 128)
  | .fcpys _ d a b => decide (d < 128) && decide (a < 128) && decide (b < 128)
  | .fscale _ d a b => decide (d < 128) && decide (a < 128) && decide (b < 128)
  | .frem _ d a b => decide (d < 128) && decide (a < 128) && decide (b < 128)
  | .fsqrt _ d a => decide (d < 128) && decide (a < 128)
  | .fabs _ d a => decide (d < 128) && decide (a < 128)
  | .fneg _ d a => decide (d < 128) && decide (a < 128)
  | .frint _ d a => decide (d < 128) && decide (a < 128)
  | .fclass _ d a => decide (d < 128) && decide (a < 128)
  | .faddScalar _ d a b => decide (d < 128) && decide (a < 128) && decide (b < 128)
  | .fsubScalar _ d a b => decide (d < 128) && decide (a < 128) && decide (b < 128)
  | .fmulScalar _ d a b => decide (d < 128) && decide (a < 128) && decide (b < 128)
  | .fdivScalar _ d a b => decide (d < 128) && decide (a < 128) && decide (b < 128)
  | .fminScalar _ d a b => decide (d < 128) && decide (a < 128) && decide (b < 128)
  | .fmaxScalar _ d a b => decide (d < 128) && decide (a < 128) && decide (b < 128)
  | .fminnScalar _ d a b => decide (d < 128) && decide (a < 128) && decide (b < 128)
  | .fmaxnScalar _ d a b => decide (d < 128) && decide (a < 128) && decide (b < 128)
  | .fcpysScalar _ d a b => decide (d < 128) && decide (a < 128) && decide (b < 128)
  | .fscaleScalar _ d a b => decide (d < 128) && decide (a < 128) && decide (b < 128)
  | .fremScalar _ d a b => decide (d < 128) && decide (a < 128) && decide (b < 128)
  | .ffma _ d a b => decide (d < 128) && decide (a < 128) && decide (b < 128)
  | .ffms _ d a b => decide (d < 128) && decide (a < 128) && decide (b < 128)
  | .ffnma _ d a b => decide (d < 128) && decide (a < 128) && decide (b < 128)
  | .ffnms _ d a b => decide (d < 128) && decide (a < 128) && decide (b < 128)
  | .vcvt pair d a _ sat pos => decide (pair < 64) && decide (d < 128) && decide (a < 128) && decide (pos < 8) && cvtLegal pair sat pos
  | .frcp _ d a => decide (d < 128) && decide (a < 128)
  | .frsq _ d a => decide (d < 128) && decide (a < 128)
  | .fexp2 _ d a => decide (d < 128) && decide (a < 128)
  | .flog2 _ d a => decide (d < 128) && decide (a < 128)
  | .fsin _ d a => decide (d < 128) && decide (a < 128)
  | .fcos _ d a => decide (d < 128) && decide (a < 128)
  | .vcmp cond ty d a b => decide (d < 128) && decide (a < 128) && decide (b < 128) && cmpLegal cond ty
  | .vbcast d a b => decide (d < 128) && decide (a < 128) && decide (b < 128)
  | .vperm d a b => decide (d < 128) && decide (a < 128) && decide (b < 128)
  | .vshfup d a b => decide (d < 128) && decide (a < 128) && decide (b < 128)
  | .vshfdn d a b => decide (d < 128) && decide (a < 128) && decide (b < 128)
  | .vshfx d a b => decide (d < 128) && decide (a < 128) && decide (b < 128)
  | .vvoteAny d a => decide (d < 128) && decide (a < 128)
  | .vvoteAll d a => decide (d < 128) && decide (a < 128)
  | .vballot d a => decide (d < 128) && decide (a < 128)
  | .vmatchB32 d a => decide (d < 128) && decide (a < 128)
  | .vmatchF32 d a => decide (d < 128) && decide (a < 128)
  | .vcompact d a b => decide (d < 128) && decide (a < 128) && decide (b < 128)
  | .vscanAddI32 d a b => decide (d < 128) && decide (a < 128) && decide (b < 128)
  | .vscanAddF32 d a b => decide (d < 128) && decide (a < 128) && decide (b < 128)
  | .vscanMinI d a b => decide (d < 128) && decide (a < 128) && decide (b < 128)
  | .vscanMinN d a b => decide (d < 128) && decide (a < 128) && decide (b < 128)
  | .vscanMaxI d a b => decide (d < 128) && decide (a < 128) && decide (b < 128)
  | .vscanMaxN d a b => decide (d < 128) && decide (a < 128) && decide (b < 128)
  | .vscanAnd d a b => decide (d < 128) && decide (a < 128) && decide (b < 128)
  | .vscanOr d a b => decide (d < 128) && decide (a < 128) && decide (b < 128)
  | .vscanxAddI32 d a b => decide (d < 128) && decide (a < 128) && decide (b < 128)
  | .vscanxAddF32 d a b => decide (d < 128) && decide (a < 128) && decide (b < 128)
  | .vscanxMinI d a b => decide (d < 128) && decide (a < 128) && decide (b < 128)
  | .vscanxMinN d a b => decide (d < 128) && decide (a < 128) && decide (b < 128)
  | .vscanxMaxI d a b => decide (d < 128) && decide (a < 128) && decide (b < 128)
  | .vscanxMaxN d a b => decide (d < 128) && decide (a < 128) && decide (b < 128)
  | .vscanxAnd d a b => decide (d < 128) && decide (a < 128) && decide (b < 128)
  | .vscanxOr d a b => decide (d < 128) && decide (a < 128) && decide (b < 128)
  | .vredAddI32 d a b => decide (d < 128) && decide (a < 128) && decide (b < 128)
  | .vredAddF32 d a b => decide (d < 128) && decide (a < 128) && decide (b < 128)
  | .vredMinI d a b => decide (d < 128) && decide (a < 128) && decide (b < 128)
  | .vredMinN d a b => decide (d < 128) && decide (a < 128) && decide (b < 128)
  | .vredMaxI d a b => decide (d < 128) && decide (a < 128) && decide (b < 128)
  | .vredMaxN d a b => decide (d < 128) && decide (a < 128) && decide (b < 128)
  | .vredAnd d a b => decide (d < 128) && decide (a < 128) && decide (b < 128)
  | .vredOr d a b => decide (d < 128) && decide (a < 128) && decide (b < 128)
  | .vmov d a => decide (d < 128) && decide (a < 128)
  | .vsel d a b => decide (d < 128) && decide (a < 128) && decide (b < 128)
  | .vmovs d a => decide (d < 128) && decide (a < 128)
  | .vread d a b => decide (d < 128) && decide (a < 128) && decide (b < 128)
  | .vwrite d a b => decide (d < 128) && decide (a < 128) && decide (b < 128)
  | .emget d => decide (d < 128)
  | .emset a => decide (a < 128)
  | .fpcget d => decide (d < 128)
  | .fpcset a => decide (a < 128)
  | .fpcclr => true
  | .vlaneid d => decide (d < 128)
  | .smov d a => decide (d < 128) && decide (a < 128)
  | .smovx d n => decide (d < 128) && decide (n < 32)
  | .lcset a => decide (a < 128)
  | .lcget d => decide (d < 128)
  | .ldg sz sign _ d a b => decide (d < 128) && decide (a < 128) && decide (b < 128) && loadSignLegal sz sign
  | .stg _ _ d a b => decide (d < 128) && decide (a < 128) && decide (b < 128)
  | .atomAdd _ _ d a b => decide (d < 128) && decide (a < 128) && decide (b < 128)
  | .atomSub _ _ d a b => decide (d < 128) && decide (a < 128) && decide (b < 128)
  | .atomMinI _ _ d a b => decide (d < 128) && decide (a < 128) && decide (b < 128)
  | .atomMinN _ _ d a b => decide (d < 128) && decide (a < 128) && decide (b < 128)
  | .atomMaxI _ _ d a b => decide (d < 128) && decide (a < 128) && decide (b < 128)
  | .atomMaxN _ _ d a b => decide (d < 128) && decide (a < 128) && decide (b < 128)
  | .atomAnd _ _ d a b => decide (d < 128) && decide (a < 128) && decide (b < 128)
  | .atomOr _ _ d a b => decide (d < 128) && decide (a < 128) && decide (b < 128)
  | .atomXor _ _ d a b => decide (d < 128) && decide (a < 128) && decide (b < 128)
  | .atomXchg _ _ d a b => decide (d < 128) && decide (a < 128) && decide (b < 128)
  | .atomCas _ _ d a b => decide (d < 128) && decide (a < 128) && decide (b < 128)
  | .atomInc _ _ d a b => decide (d < 128) && decide (a < 128) && decide (b < 128)
  | .atomDec _ _ d a b => decide (d < 128) && decide (a < 128) && decide (b < 128)
  | .atomFaddF32 _ d a b => decide (d < 128) && decide (a < 128) && decide (b < 128)
  | .atomFaddF64 _ d a b => decide (d < 128) && decide (a < 128) && decide (b < 128)
  | .lds _ d a b => decide (d < 128) && decide (a < 128) && decide (b < 128)
  | .ldsTake _ d a b => decide (d < 128) && decide (a < 128) && decide (b < 128)
  | .ldsTry _ d a b => decide (d < 128) && decide (a < 128) && decide (b < 128)
  | .ldsLine d a b => decide (d < 128) && decide (a < 128) && decide (b < 128)
  | .sts _ d a b => decide (d < 128) && decide (a < 128) && decide (b < 128)
  | .satomAdd _ d a b => decide (d < 128) && decide (a < 128) && decide (b < 128)
  | .satomMinI _ d a b => decide (d < 128) && decide (a < 128) && decide (b < 128)
  | .satomMinN _ d a b => decide (d < 128) && decide (a < 128) && decide (b < 128)
  | .satomMaxI _ d a b => decide (d < 128) && decide (a < 128) && decide (b < 128)
  | .satomMaxN _ d a b => decide (d < 128) && decide (a < 128) && decide (b < 128)
  | .satomAnd _ d a b => decide (d < 128) && decide (a < 128) && decide (b < 128)
  | .satomOr _ d a b => decide (d < 128) && decide (a < 128) && decide (b < 128)
  | .satomXchg _ d a b => decide (d < 128) && decide (a < 128) && decide (b < 128)
  | .satomCas _ d a b => decide (d < 128) && decide (a < 128) && decide (b < 128)
  | .sfin a b => decide (a < 128) && decide (b < 128)
  | .sclr a b => decide (a < 128) && decide (b < 128)
  | .sopen a b => decide (a < 128) && decide (b < 128)
  | .pld d a b => decide (d < 128) && decide (a < 128) && decide (b < 128)
  | .pst d a b => decide (d < 128) && decide (a < 128) && decide (b < 128)
  | .pldq d a b => decide (d < 128) && decide (a < 128) && decide (b < 128)
  | .pstq d a b => decide (d < 128) && decide (a < 128) && decide (b < 128)
  | .fenceRel sc => sc.isBlkOrWider
  | .fenceAcq sc => sc.isBlkOrWider
  | .fenceSc sc => sc.isBlkOrWider
  | .wait ld st cp tl => decide (ld < 64) && decide (st < 32) && decide (cp < 32) && decide (tl < 32)
  | .bar k b => decide (k < 16) && decide (b < 128)
  | .barArr k b => decide (k < 16) && decide (b < 128)
  | .barWt k => decide (k < 16)
  | .sig sc a b => decide (a < 128) && decide (b < 128) && sc.isBlkOrWider
  | .sigwait sc a b => decide (a < 128) && decide (b < 128) && sc.isBlkOrWider
  | .flushw sc a b => decide (a < 128) && decide (b < 128) && sc.isPkgOrHost
  | .invl sc a b => decide (a < 128) && decide (b < 128) && sc.isPkgOrHost
  | .dcp a => decide (a < 128)
  | .dcp2 a => decide (a < 128)
  | .dcpg d a b => decide (d < 128) && decide (a < 128) && decide (b < 128)
  | .dcpx a => decide (a < 128)
  | .dcpr a => decide (a < 128)
  | .dstat d a => decide (d < 128) && decide (a < 128)
  | .rld d a b => decide (d < 128) && decide (a < 128) && decide (b < 128)
  | .rst d a b => decide (d < 128) && decide (a < 128) && decide (b < 128)
  | .ratom d a b => decide (d < 128) && decide (a < 128) && decide (b < 128)
  | .rput d a b => decide (d < 128) && decide (a < 128) && decide (b < 128)
  | .rget d a b => decide (d < 128) && decide (a < 128) && decide (b < 128)
  | .rflush a b => decide (a < 128) && decide (b < 128)
  | .mma fm a slot tile rnd scl _ => decide (a < 128) && decide (slot < 32) && decide (tile < 8) && (fm.hasRounding || decide (rnd = GrpRnd.rne) && !scl)
  | .bload scl slot a fm => decide (slot < 32) && decide (a < 128) && (fm.hasRounding || !scl)
  | .bfree slot => decide (slot < 32)
  | .mzero tile _ => decide (tile < 8)
  | .mst d _ tile _ fm => decide (d < 128) && decide (tile < 8) && fm.isOutput
  | .mld tile a _ => decide (tile < 8) && decide (a < 128)
  | .mstat d tile => decide (d < 128) && decide (tile < 8)
  | .mstatClr d tile => decide (d < 128) && decide (tile < 8)
  | .mstatSet d tile => decide (d < 128) && decide (tile < 8)
  | .mtov d tile b => decide (d < 128) && decide (tile < 8) && decide (b < 128)
  | .vtom tile a b => decide (tile < 8) && decide (a < 128) && decide (b < 128)
  | .cbrAny _ q p off => decide (q < 4) && decide (p < 64) && decide (off < 65536)
  | .cbrAll _ q p off => decide (q < 4) && decide (p < 64) && decide (off < 65536)
  | .qbar q => decide (q < 4)
  | .cvote a q => decide (a < 128) && decide (q < 4)
  | .qleave q => decide (q < 4)
  | .qstat d q => decide (d < 128) && decide (q < 4)
  | .tkwait => true
  | .tkpass => true
  | .illegalInstruction _ => true
  | .trapEntry _ => true
  | .exitDrain _ => true
  | .loadComplete _ _ _ => true
  | .storePerformed _ => true
  | .mmaComplete _ => true
  | .bloadComplete _ => true
  | .mldComplete _ => true
  | .mstLineWrite _ _ => true
  | .overlayLoadComplete _ _ => true
  | .sysReply _ _ => true
  | .storageCompletion _ _ _ _ _ => true
  | .copyService _ => true
  | .arrival _ _ _ _ _ _ => true
  | .remoteRequest _ => true
  | .reduceContribution _ => true
  | .elemResend _ _ => true
  | .voteArrival _ => true
  | .voteResult _ _ _ => true
  | .collectiveTimeout _ _ => true
  | .watchdog _ => true
  | .preemptDeadline _ => true
  | .parkComplete _ => true
  | .blockRestore _ => true
  | .quantumEnd _ => true
  | .blockPlace _ => true
  | .blockRetire _ => true
  | .launchComplete _ => true
  | .launch _ _ => true
  | .copy _ _ => true
  | .signal _ _ => true
  | .waitsig _ _ => true
  | .waitsigSatisfied _ _ => true
  | .flush _ _ => true
  | .inval _ _ => true
  | .checkpointSave _ _ => true
  | .checkpointRestore _ _ => true
  | .ownership _ _ => true
  | .tail _ _ _ _ => true
  | .crhead _ _ _ _ => true
  | .preq _ _ _ => true
  | .prelease _ _ _ => true
  | .ownclaim _ => true
  | .ownbeat _ => true
  | .electionWindowEnd => true
  | .ownershipLapse => true
  | .handoverLapsed => true
  | .create => true
  | .destroy => true
  | .qwrite => true
  | .keyset => true
  | .keyclr => true
  | .tlbinv => true
  | .lease => true
  | .revoke => true
  | .revokeAbort _ => true
  | .revokeControllerReset _ => true
  | .attest => true
  | .spdmMessage _ => true
  | .tdiError _ => true
  | .halt _ _ _ => true
  | .resume _ _ _ => true
  | .step _ _ _ _ => true
  | .readRegister _ _ _ _ => true
  | .writeRegister _ _ _ _ => true
  | .readAtticSections _ _ _ => true
  | .scan => true
  | .digestOnlyScan => true
  | .atticResume => true
  | .restart => true
  | .stopctl _ _ => true
  | .freeze => true
  | .loggedArrivalDelivery => true
  | .uncorrectableError _ => true
  | .refreshRateChange _ _ => true
  | .faultReply _ _ _ _ => true
  | .migClear _ _ => true
  | .priResponse _ _ _ _ => true
  | .priTimeout _ _ => true
  | .atsInvalidation _ _ _ => true
  | .shootdown _ _ _ => true
  | .matrixSelfTest _ _ _ => true
  | .matrixHang _ _ => true
  | .matrixResetDone _ _ _ => true
  | .sample _ => true
  | .waitForReading => true
  | .heartbeat _ => true
  | .rankLost _ => true
  | .departureFlit _ => true
  | .linkDown _ => true
  | .detourResend _ => true
  | .linkReplay _ => true
  | .alignmentExchange => true
  | .alignmentReply _ _ => true
  | .alignmentResult _ _ _ => true
  | .rcvgo _ => true
  | .recoveryFetchEnd _ _ _ => true
  | .coldReset _ _ _ => true
  | .packageReset _ _ => true
  | .thrctl _ => true
  | .powerMeasurement _ _ => true
  | .thermalPowerRemoval => true
  | .firmwareUpdate _ => true
  | .registerWrite _ _ _ _ => true
  | .portDown _ => true
  | .ethernetFrame _ _ => true

end Sys2Proof
end

