-- ==== Sys2Proof/Decode.lean ====
section
/-! DEFINITION. The decoder and the encoder, from the formats and the opcode map of spec/02_encoding.md
(R45, R50 to R55). `decode` is total on every 32-bit word; it answers no instruction exactly for the
words of R54 and R55, which raise ILLEGAL_INSTRUCTION (R56). Lean cannot compile the building of a value of
a type with more than 244 constructors that hold fields, so what builds an `Instr` is marked
`noncomputable`; the kernel evaluates it. -/

namespace Sys2Proof

/-- The `n` bits of `w` from bit `lo` up. -/
def bits (w lo n : Nat) : Nat := w / 2 ^ lo % 2 ^ n

/-- Bit `k` of `w`. -/
def flag (w k : Nat) : Bool := decide (bits w k 1 = 1)

/-- Size codes (R46). -/
def ESize.ofCode : Nat → ESize
  | 0 => .b8 | 1 => .b16 | 2 => .b32 | _ => .b64
/-- Size codes (R46). -/
def ESize.code : ESize → Nat
  | .b8 => 0 | .b16 => 1 | .b32 => 2 | .b64 => 3
/-- Float format codes (R50). -/
def EFmt.ofCode : Nat → EFmt
  | 0 => .f16 | 1 => .bf16 | 2 => .f32 | _ => .f64
/-- Float format codes (R50). -/
def EFmt.code : EFmt → Nat
  | .f16 => 0 | .bf16 => 1 | .f32 => 2 | .f64 => 3
/-- Atomic width codes (R50). -/
def AWidth.ofCode : Nat → AWidth
  | 0 => .w32 | _ => .w64
/-- Atomic width codes (R50). -/
def AWidth.code : AWidth → Nat
  | .w32 => 0 | .w64 => 1
/-- Rounding codes of the matrix engine (R46). -/
def GrpRnd.ofCode : Nat → GrpRnd
  | 0 => .rne | 1 => .rtz | 2 => .rup | _ => .rdn
/-- Rounding codes of the matrix engine (R46). -/
def GrpRnd.code : GrpRnd → Nat
  | .rne => 0 | .rtz => 1 | .rup => 2 | .rdn => 3
/-- Mode codes of `mzero` and `mld` (R181). -/
def TileType.ofCode : Nat → TileType
  | 0 => .fp32 | 1 => .int32wrap | 2 => .int32sat | _ => .fp64
/-- Mode codes of `mzero` and `mld` (R181). -/
def TileType.code : TileType → Nat
  | .fp32 => 0 | .int32wrap => 1 | .int32sat => 2 | .fp64 => 3
/-- Condition codes of VCMP (R50). -/
def Cond.ofCode : Nat → Cond
  | 0 => .eq | 1 => .ne | 2 => .lt | 3 => .le | 4 => .gt | 5 => .ge | 6 => .uo | _ => .ord
/-- Condition codes of VCMP (R50). -/
def Cond.code : Cond → Nat
  | .eq => 0 | .ne => 1 | .lt => 2 | .le => 3 | .gt => 4 | .ge => 5 | .uo => 6 | .ord => 7
/-- Type codes of VCMP (R50). -/
def CmpType.ofCode : Nat → CmpType
  | 0 => .i32 | 1 => .n32 | 2 => .i64 | 3 => .n64 | 4 => .f16 | 5 => .bf16 | 6 => .f32 | _ => .f64
/-- Type codes of VCMP (R50). -/
def CmpType.code : CmpType → Nat
  | .i32 => 0 | .n32 => 1 | .i64 => 2 | .n64 => 3 | .f16 => 4 | .bf16 => 5 | .f32 => 6 | .f64 => 7
/-- Rounding codes of VCVT (R52); 6 and 7 are not instructions (R157). -/
def CvtRnd.ofCode : Nat → Option CvtRnd
  | 0 => some .lane | 1 => some .rne | 2 => some .rtz | 3 => some .rup | 4 => some .rdn
  | 5 => some .rna | _ => none
/-- Rounding codes of VCVT (R52). -/
def CvtRnd.code : CvtRnd → Nat
  | .lane => 0 | .rne => 1 | .rtz => 2 | .rup => 3 | .rdn => 4 | .rna => 5
/-- Scope codes (R53). -/
def Scope.ofCode : Nat → Option Scope
  | 0 => some .wave | 1 => some .blk | 2 => some .pkg | 3 => some .job | 4 => some .host | _ => none
/-- Scope codes (R53). -/
def Scope.code : Scope → Nat
  | .wave => 0 | .blk => 1 | .pkg => 2 | .job => 3 | .host => 4
/-- Order codes of `ldg` and `stg` (R50); 6 and 7 are not instructions (R54). -/
def MemOrder.ofCode : Nat → Option MemOrder
  | 0 => some .plain | 1 => some (.sync .blk) | 2 => some (.sync .pkg) | 3 => some (.sync .job)
  | 4 => some (.sync .host) | 5 => some .streaming | _ => none
/-- Order codes of `ldg` and `stg` (R50). There is no order at wave scope. -/
def MemOrder.code : MemOrder → Nat
  | .plain => 0 | .sync .wave => 6 | .sync .blk => 1 | .sync .pkg => 2 | .sync .job => 3
  | .sync .host => 4 | .streaming => 5
/-- Format indices (R80, R83); 24 to 31 are not instructions (R54). -/
def MFmt.ofCode : Nat → Option MFmt
  | 0 => some .f64 | 1 => some .f32 | 2 => some .e8m10 | 3 => some .bf16 | 4 => some .f16
  | 5 => some .e5m2 | 6 => some .e4m3 | 7 => some .e4m3f | 8 => some .e3m4 | 9 => some .e2m5
  | 10 => some .e3m2 | 11 => some .e2m3 | 12 => some .e2m1 | 13 => some .i16 | 14 => some .n16
  | 15 => some .i8 | 16 => some .n8 | 17 => some .i4 | 18 => some .n4 | 19 => some .i2
  | 20 => some .n2 | 21 => some .t2 | 22 => some .b1 | 23 => some .n1 | _ => none
/-- Format indices (R80, R83). -/
def MFmt.code : MFmt → Nat
  | .f64 => 0 | .f32 => 1 | .e8m10 => 2 | .bf16 => 3 | .f16 => 4 | .e5m2 => 5 | .e4m3 => 6
  | .e4m3f => 7 | .e3m4 => 8 | .e2m5 => 9 | .e3m2 => 10 | .e2m3 => 11 | .e2m1 => 12 | .i16 => 13
  | .n16 => 14 | .i8 => 15 | .n8 => 16 | .i4 => 17 | .n4 => 18 | .i2 => 19 | .n2 => 20 | .t2 => 21
  | .b1 => 22 | .n1 => 23

/-- Major 0x00, SYS (R50). -/
noncomputable def decSys (w : Nat) : Option Instr :=
  match bits w 21 6 with
  | 0 => if bits w 0 21 = 0 then some .nop else none
  | 1 => if bits w 7 14 = 0 then some (.trap (bits w 0 7)) else none
  | 2 => if bits w 0 21 = 0 then some .tret else if bits w 0 21 = 1 then some .tretPark else if bits w 0 21 = 2 then some .tretKill else none
  | 3 => some (.sys (bits w 14 7) (bits w 7 7) (bits w 0 7))
  | 4 => if bits w 7 7 = 0 then some (.rdsys (bits w 14 7) (bits w 0 7)) else none
  | 5 => if bits w 14 7 = 0 then some (.wrsys (bits w 7 7) (bits w 0 7)) else none
  | 6 => if bits w 8 13 = 0 then some (.ppoint (bits w 0 8)) else none
  | 7 => if bits w 7 14 = 0 then some (.brkpt (bits w 0 7)) else none
  | 8 => if bits w 6 15 = 0 then some (.wbase (bits w 0 6)) else none
  | 9 => if bits w 0 7 = 0 then some (.ovload (bits w 14 7) (bits w 7 7)) else none
  | 10 => if bits w 0 7 = 0 then some (.ovcall (bits w 14 7) (bits w 7 7)) else none
  | 11 => if bits w 14 7 = 0 ∧ bits w 0 7 = 0 then some (.ovret (bits w 7 7)) else none
  | 12 => if bits w 0 14 = 0 then some (.rdcyc (bits w 14 7)) else none
  | _ => none

/-- Major 0x01, SCTL (R50). -/
noncomputable def decSctl (w : Nat) : Option Instr :=
  match bits w 23 4 with
  | 0 => if bits w 16 7 = 0 then some (.br (bits w 0 16)) else none
  | 1 => some (.bz (bits w 16 7) (bits w 0 16))
  | 2 => some (.bnz (bits w 16 7) (bits w 0 16))
  | 3 => some (.blt (bits w 16 7) (bits w 0 16))
  | 4 => some (.bge (bits w 16 7) (bits w 0 16))
  | 5 => some (.call (bits w 16 7) (bits w 0 16))
  | 6 => if bits w 0 16 = 0 then some (.ret (bits w 16 7)) else none
  | 7 => some (.jr (bits w 16 7) (bits w 0 16))
  | 8 => if bits w 16 7 = 0 then some (.bem0 (bits w 0 16)) else none
  | 9 => some (.bemx (bits w 16 7) (bits w 0 16))
  | 10 => if bits w 0 23 = 0 then some .exit else none
  | _ => none

/-- Major 0x02, MASK (R50). -/
noncomputable def decMask (w : Nat) : Option Instr :=
  match bits w 23 4 with
  | 0 => some (.maskIf (bits w 16 7) (bits w 0 16))
  | 1 => if bits w 16 7 = 0 then some (.maskElse (bits w 0 16)) else none
  | 2 => if bits w 0 23 = 0 then some .maskEndif else none
  | 3 => if bits w 16 7 = 0 then some (.maskLoop (bits w 0 16)) else none
  | 4 => if bits w 16 7 = 0 then some (.endl (bits w 0 16)) else none
  | 5 => some (.brk (bits w 16 7) (bits w 0 16))
  | 6 => some (.cont (bits w 16 7) (bits w 0 16))
  | 7 => if bits w 0 16 = 0 then some (.mpush (bits w 16 7)) else none
  | 8 => if bits w 0 23 = 0 then some .mpop else none
  | _ => none

/-- Major 0x03, SALU3 (R50). -/
noncomputable def decSalu3 (w : Nat) : Option Instr :=
  match bits w 21 6 with
  | 0 => some (.sadd (bits w 14 7) (bits w 7 7) (bits w 0 7))
  | 1 => some (.ssub (bits w 14 7) (bits w 7 7) (bits w 0 7))
  | 2 => some (.smul (bits w 14 7) (bits w 7 7) (bits w 0 7))
  | 3 => some (.smulhI (bits w 14 7) (bits w 7 7) (bits w 0 7))
  | 4 => some (.smulhN (bits w 14 7) (bits w 7 7) (bits w 0 7))
  | 5 => some (.sand (bits w 14 7) (bits w 7 7) (bits w 0 7))
  | 6 => some (.sor (bits w 14 7) (bits w 7 7) (bits w 0 7))
  | 7 => some (.sxor (bits w 14 7) (bits w 7 7) (bits w 0 7))
  | 8 => some (.sshl (bits w 14 7) (bits w 7 7) (bits w 0 7))
  | 9 => some (.sshr (bits w 14 7) (bits w 7 7) (bits w 0 7))
  | 10 => some (.ssra (bits w 14 7) (bits w 7 7) (bits w 0 7))
  | 11 => some (.sminI (bits w 14 7) (bits w 7 7) (bits w 0 7))
  | 12 => some (.sminN (bits w 14 7) (bits w 7 7) (bits w 0 7))
  | 13 => some (.smaxI (bits w 14 7) (bits w 7 7) (bits w 0 7))
  | 14 => some (.smaxN (bits w 14 7) (bits w 7 7) (bits w 0 7))
  | 15 => some (.sseq (bits w 14 7) (bits w 7 7) (bits w 0 7))
  | 16 => some (.ssltI (bits w 14 7) (bits w 7 7) (bits w 0 7))
  | 17 => some (.ssltN (bits w 14 7) (bits w 7 7) (bits w 0 7))
  | 18 => some (.sdivI (bits w 14 7) (bits w 7 7) (bits w 0 7))
  | 19 => some (.sdivN (bits w 14 7) (bits w 7 7) (bits w 0 7))
  | 20 => some (.sremI (bits w 14 7) (bits w 7 7) (bits w 0 7))
  | 21 => some (.sremN (bits w 14 7) (bits w 7 7) (bits w 0 7))
  | 22 => if bits w 0 7 = 0 then some (.spopc (bits w 14 7) (bits w 7 7)) else none
  | 23 => if bits w 0 7 = 0 then some (.sclz (bits w 14 7) (bits w 7 7)) else none
  | 24 => if bits w 0 7 = 0 then some (.sctz (bits w 14 7) (bits w 7 7)) else none
  | 25 => some (.sbfx (bits w 14 7) (bits w 7 7) (bits w 0 7))
  | 26 => some (.sbfi (bits w 14 7) (bits w 7 7) (bits w 0 7))
  | 27 => some (.saddq (bits w 14 7) (bits w 7 7) (bits w 0 7))
  | 28 => some (.ssubq (bits w 14 7) (bits w 7 7) (bits w 0 7))
  | 29 => some (.sshlq (bits w 14 7) (bits w 7 7) (bits w 0 7))
  | _ => none

/-- Major 0x04, SALUI (R50). -/
noncomputable def decSalui (w : Nat) : Option Instr :=
  match bits w 23 4 with
  | 0 => some (.saddi (bits w 16 7) (bits w 9 7) (bits w 0 9))
  | 1 => some (.sandi (bits w 16 7) (bits w 9 7) (bits w 0 9))
  | 2 => some (.sori (bits w 16 7) (bits w 9 7) (bits w 0 9))
  | 3 => some (.sxori (bits w 16 7) (bits w 9 7) (bits w 0 9))
  | 4 => if bits w 5 4 = 0 then some (.sshli (bits w 16 7) (bits w 9 7) (bits w 0 5)) else none
  | 5 => if bits w 5 4 = 0 then some (.sshri (bits w 16 7) (bits w 9 7) (bits w 0 5)) else none
  | 6 => if bits w 5 4 = 0 then some (.ssrai (bits w 16 7) (bits w 9 7) (bits w 0 5)) else none
  | 7 => some (.sseqi (bits w 16 7) (bits w 9 7) (bits w 0 9))
  | 8 => some (.sslti (bits w 16 7) (bits w 9 7) (bits w 0 9))
  | 9 => some (.saddqi (bits w 16 7) (bits w 9 7) (bits w 0 9))
  | _ => none

/-- Major 0x05, SLI (R50). -/
noncomputable def decSli (w : Nat) : Option Instr :=
  match bits w 23 4 with
  | 0 => some (.sli (bits w 16 7) (bits w 0 16))
  | 1 => some (.slih (bits w 16 7) (bits w 0 16))
  | _ => none

/-- Major 0x06, VINT3 (R50). -/
noncomputable def decVint3 (w : Nat) : Option Instr :=
  match bits w 23 4 with
  | 0 => some (.vadd (ESize.ofCode (bits w 21 2)) (bits w 14 7) (bits w 7 7) (bits w 0 7))
  | 1 => some (.vsub (ESize.ofCode (bits w 21 2)) (bits w 14 7) (bits w 7 7) (bits w 0 7))
  | 2 => some (.vmul (ESize.ofCode (bits w 21 2)) (bits w 14 7) (bits w 7 7) (bits w 0 7))
  | 3 => some (.vmulhI (ESize.ofCode (bits w 21 2)) (bits w 14 7) (bits w 7 7) (bits w 0 7))
  | 4 => some (.vmulhN (ESize.ofCode (bits w 21 2)) (bits w 14 7) (bits w 7 7) (bits w 0 7))
  | 5 => some (.vand (ESize.ofCode (bits w 21 2)) (bits w 14 7) (bits w 7 7) (bits w 0 7))
  | 6 => some (.vor (ESize.ofCode (bits w 21 2)) (bits w 14 7) (bits w 7 7) (bits w 0 7))
  | 7 => some (.vxor (ESize.ofCode (bits w 21 2)) (bits w 14 7) (bits w 7 7) (bits w 0 7))
  | 8 => some (.vshl (ESize.ofCode (bits w 21 2)) (bits w 14 7) (bits w 7 7) (bits w 0 7))
  | 9 => some (.vshr (ESize.ofCode (bits w 21 2)) (bits w 14 7) (bits w 7 7) (bits w 0 7))
  | 10 => some (.vsra (ESize.ofCode (bits w 21 2)) (bits w 14 7) (bits w 7 7) (bits w 0 7))
  | 11 => some (.vminI (ESize.ofCode (bits w 21 2)) (bits w 14 7) (bits w 7 7) (bits w 0 7))
  | 12 => some (.vminN (ESize.ofCode (bits w 21 2)) (bits w 14 7) (bits w 7 7) (bits w 0 7))
  | 13 => some (.vmaxI (ESize.ofCode (bits w 21 2)) (bits w 14 7) (bits w 7 7) (bits w 0 7))
  | 14 => some (.vmaxN (ESize.ofCode (bits w 21 2)) (bits w 14 7) (bits w 7 7) (bits w 0 7))
  | 15 => some (.vmad (ESize.ofCode (bits w 21 2)) (bits w 14 7) (bits w 7 7) (bits w 0 7))
  | _ => none

/-- Major 0x07, VINTS (R50). -/
noncomputable def decVints (w : Nat) : Option Instr :=
  match bits w 23 4 with
  | 0 => some (.vaddScalar (ESize.ofCode (bits w 21 2)) (bits w 14 7) (bits w 7 7) (bits w 0 7))
  | 1 => some (.vsubScalar (ESize.ofCode (bits w 21 2)) (bits w 14 7) (bits w 7 7) (bits w 0 7))
  | 2 => some (.vmulScalar (ESize.ofCode (bits w 21 2)) (bits w 14 7) (bits w 7 7) (bits w 0 7))
  | 3 => some (.vmulhIScalar (ESize.ofCode (bits w 21 2)) (bits w 14 7) (bits w 7 7) (bits w 0 7))
  | 4 => some (.vmulhNScalar (ESize.ofCode (bits w 21 2)) (bits w 14 7) (bits w 7 7) (bits w 0 7))
  | 5 => some (.vandScalar (ESize.ofCode (bits w 21 2)) (bits w 14 7) (bits w 7 7) (bits w 0 7))
  | 6 => some (.vorScalar (ESize.ofCode (bits w 21 2)) (bits w 14 7) (bits w 7 7) (bits w 0 7))
  | 7 => some (.vxorScalar (ESize.ofCode (bits w 21 2)) (bits w 14 7) (bits w 7 7) (bits w 0 7))
  | 8 => some (.vshlScalar (ESize.ofCode (bits w 21 2)) (bits w 14 7) (bits w 7 7) (bits w 0 7))
  | 9 => some (.vshrScalar (ESize.ofCode (bits w 21 2)) (bits w 14 7) (bits w 7 7) (bits w 0 7))
  | 10 => some (.vsraScalar (ESize.ofCode (bits w 21 2)) (bits w 14 7) (bits w 7 7) (bits w 0 7))
  | 11 => some (.vminIScalar (ESize.ofCode (bits w 21 2)) (bits w 14 7) (bits w 7 7) (bits w 0 7))
  | 12 => some (.vminNScalar (ESize.ofCode (bits w 21 2)) (bits w 14 7) (bits w 7 7) (bits w 0 7))
  | 13 => some (.vmaxIScalar (ESize.ofCode (bits w 21 2)) (bits w 14 7) (bits w 7 7) (bits w 0 7))
  | 14 => some (.vmaxNScalar (ESize.ofCode (bits w 21 2)) (bits w 14 7) (bits w 7 7) (bits w 0 7))
  | 15 => some (.vmadScalar (ESize.ofCode (bits w 21 2)) (bits w 14 7) (bits w 7 7) (bits w 0 7))
  | _ => none

/-- Major 0x08, VINTI (R50). -/
noncomputable def decVinti (w : Nat) : Option Instr :=
  match bits w 23 4 with
  | 0 => some (.vaddi (ESize.ofCode (bits w 21 2)) (bits w 14 7) (bits w 7 7) (bits w 0 7))
  | 1 => some (.vandi (ESize.ofCode (bits w 21 2)) (bits w 14 7) (bits w 7 7) (bits w 0 7))
  | 2 => some (.vori (ESize.ofCode (bits w 21 2)) (bits w 14 7) (bits w 7 7) (bits w 0 7))
  | 3 => some (.vxori (ESize.ofCode (bits w 21 2)) (bits w 14 7) (bits w 7 7) (bits w 0 7))
  | 4 => some (.vshli (ESize.ofCode (bits w 21 2)) (bits w 14 7) (bits w 7 7) (bits w 0 7))
  | 5 => some (.vshri (ESize.ofCode (bits w 21 2)) (bits w 14 7) (bits w 7 7) (bits w 0 7))
  | 6 => some (.vsrai (ESize.ofCode (bits w 21 2)) (bits w 14 7) (bits w 7 7) (bits w 0 7))
  | 7 => some (.vmuli (ESize.ofCode (bits w 21 2)) (bits w 14 7) (bits w 7 7) (bits w 0 7))
  | 8 => if bits w 0 7 = 0 then some (.vpopc (ESize.ofCode (bits w 21 2)) (bits w 14 7) (bits w 7 7)) else none
  | 9 => if bits w 0 7 = 0 then some (.vclz (ESize.ofCode (bits w 21 2)) (bits w 14 7) (bits w 7 7)) else none
  | 10 => if bits w 0 7 = 0 then some (.vctz (ESize.ofCode (bits w 21 2)) (bits w 14 7) (bits w 7 7)) else none
  | 11 => if bits w 0 7 = 0 then some (.vabs (ESize.ofCode (bits w 21 2)) (bits w 14 7) (bits w 7 7)) else none
  | 12 => if bits w 0 7 = 0 then some (.vneg (ESize.ofCode (bits w 21 2)) (bits w 14 7) (bits w 7 7)) else none
  | 13 => if bits w 0 7 = 0 then some (.vbrev (ESize.ofCode (bits w 21 2)) (bits w 14 7) (bits w 7 7)) else none
  | _ => none

/-- Major 0x09, VFP3 (R50). -/
noncomputable def decVfp3 (w : Nat) : Option Instr :=
  match bits w 23 4 with
  | 0 => some (.fadd (EFmt.ofCode (bits w 21 2)) (bits w 14 7) (bits w 7 7) (bits w 0 7))
  | 1 => some (.fsub (EFmt.ofCode (bits w 21 2)) (bits w 14 7) (bits w 7 7) (bits w 0 7))
  | 2 => some (.fmul (EFmt.ofCode (bits w 21 2)) (bits w 14 7) (bits w 7 7) (bits w 0 7))
  | 3 => some (.fdiv (EFmt.ofCode (bits w 21 2)) (bits w 14 7) (bits w 7 7) (bits w 0 7))
  | 4 => some (.fmin (EFmt.ofCode (bits w 21 2)) (bits w 14 7) (bits w 7 7) (bits w 0 7))
  | 5 => some (.fmax (EFmt.ofCode (bits w 21 2)) (bits w 14 7) (bits w 7 7) (bits w 0 7))
  | 6 => some (.fminn (EFmt.ofCode (bits w 21 2)) (bits w 14 7) (bits w 7 7) (bits w 0 7))
  | 7 => some (.fmaxn (EFmt.ofCode (bits w 21 2)) (bits w 14 7) (bits w 7 7) (bits w 0 7))
  | 8 => some (.fcpys (EFmt.ofCode (bits w 21 2)) (bits w 14 7) (bits w 7 7) (bits w 0 7))
  | 9 => some (.fscale (EFmt.ofCode (bits w 21 2)) (bits w 14 7) (bits w 7 7) (bits w 0 7))
  | 10 => some (.frem (EFmt.ofCode (bits w 21 2)) (bits w 14 7) (bits w 7 7) (bits w 0 7))
  | 11 => if bits w 0 7 = 0 then some (.fsqrt (EFmt.ofCode (bits w 21 2)) (bits w 14 7) (bits w 7 7)) else none
  | 12 => if bits w 0 7 = 0 then some (.fabs (EFmt.ofCode (bits w 21 2)) (bits w 14 7) (bits w 7 7)) else none
  | 13 => if bits w 0 7 = 0 then some (.fneg (EFmt.ofCode (bits w 21 2)) (bits w 14 7) (bits w 7 7)) else none
  | 14 => if bits w 0 7 = 0 then some (.frint (EFmt.ofCode (bits w 21 2)) (bits w 14 7) (bits w 7 7)) else none
  | 15 => if bits w 0 7 = 0 then some (.fclass (EFmt.ofCode (bits w 21 2)) (bits w 14 7) (bits w 7 7)) else none
  | _ => none

/-- Major 0x0A, VFPS (R50). -/
noncomputable def decVfps (w : Nat) : Option Instr :=
  match bits w 23 4 with
  | 0 => some (.faddScalar (EFmt.ofCode (bits w 21 2)) (bits w 14 7) (bits w 7 7) (bits w 0 7))
  | 1 => some (.fsubScalar (EFmt.ofCode (bits w 21 2)) (bits w 14 7) (bits w 7 7) (bits w 0 7))
  | 2 => some (.fmulScalar (EFmt.ofCode (bits w 21 2)) (bits w 14 7) (bits w 7 7) (bits w 0 7))
  | 3 => some (.fdivScalar (EFmt.ofCode (bits w 21 2)) (bits w 14 7) (bits w 7 7) (bits w 0 7))
  | 4 => some (.fminScalar (EFmt.ofCode (bits w 21 2)) (bits w 14 7) (bits w 7 7) (bits w 0 7))
  | 5 => some (.fmaxScalar (EFmt.ofCode (bits w 21 2)) (bits w 14 7) (bits w 7 7) (bits w 0 7))
  | 6 => some (.fminnScalar (EFmt.ofCode (bits w 21 2)) (bits w 14 7) (bits w 7 7) (bits w 0 7))
  | 7 => some (.fmaxnScalar (EFmt.ofCode (bits w 21 2)) (bits w 14 7) (bits w 7 7) (bits w 0 7))
  | 8 => some (.fcpysScalar (EFmt.ofCode (bits w 21 2)) (bits w 14 7) (bits w 7 7) (bits w 0 7))
  | 9 => some (.fscaleScalar (EFmt.ofCode (bits w 21 2)) (bits w 14 7) (bits w 7 7) (bits w 0 7))
  | 10 => some (.fremScalar (EFmt.ofCode (bits w 21 2)) (bits w 14 7) (bits w 7 7) (bits w 0 7))
  | _ => none

/-- Major 0x0B, VFMA (R50). -/
noncomputable def decVfma (w : Nat) : Option Instr :=
  match bits w 23 4 with
  | 0 => some (.ffma (EFmt.ofCode (bits w 21 2)) (bits w 14 7) (bits w 7 7) (bits w 0 7))
  | 1 => some (.ffms (EFmt.ofCode (bits w 21 2)) (bits w 14 7) (bits w 7 7) (bits w 0 7))
  | 2 => some (.ffnma (EFmt.ofCode (bits w 21 2)) (bits w 14 7) (bits w 7 7) (bits w 0 7))
  | 3 => some (.ffnms (EFmt.ofCode (bits w 21 2)) (bits w 14 7) (bits w 7 7) (bits w 0 7))
  | _ => none

/-- Major 0x0C, VCVT (R50). -/
noncomputable def decVcvt (w : Nat) : Option Instr :=
  (CvtRnd.ofCode (bits w 4 3)).map fun rnd => .vcvt (bits w 21 6) (bits w 14 7) (bits w 7 7) rnd (flag w 3) (bits w 0 3)

/-- Major 0x0D, VSFU (R50). -/
noncomputable def decVsfu (w : Nat) : Option Instr :=
  match bits w 23 4 with
  | 0 => if bits w 0 7 = 0 then some (.frcp (EFmt.ofCode (bits w 21 2)) (bits w 14 7) (bits w 7 7)) else none
  | 1 => if bits w 0 7 = 0 then some (.frsq (EFmt.ofCode (bits w 21 2)) (bits w 14 7) (bits w 7 7)) else none
  | 2 => if bits w 0 7 = 0 then some (.fexp2 (EFmt.ofCode (bits w 21 2)) (bits w 14 7) (bits w 7 7)) else none
  | 3 => if bits w 0 7 = 0 then some (.flog2 (EFmt.ofCode (bits w 21 2)) (bits w 14 7) (bits w 7 7)) else none
  | 4 => if bits w 0 7 = 0 then some (.fsin (EFmt.ofCode (bits w 21 2)) (bits w 14 7) (bits w 7 7)) else none
  | 5 => if bits w 0 7 = 0 then some (.fcos (EFmt.ofCode (bits w 21 2)) (bits w 14 7) (bits w 7 7)) else none
  | _ => none

/-- Major 0x0E, VCMP (R50). -/
noncomputable def decVcmp (w : Nat) : Option Instr :=
  some (.vcmp (Cond.ofCode (bits w 24 3)) (CmpType.ofCode (bits w 21 3)) (bits w 14 7) (bits w 7 7) (bits w 0 7))

/-- Major 0x0F, XLANE (R50). -/
noncomputable def decXlane (w : Nat) : Option Instr :=
  match bits w 21 6 with
  | 0 => some (.vbcast (bits w 14 7) (bits w 7 7) (bits w 0 7))
  | 1 => some (.vperm (bits w 14 7) (bits w 7 7) (bits w 0 7))
  | 2 => some (.vshfup (bits w 14 7) (bits w 7 7) (bits w 0 7))
  | 3 => some (.vshfdn (bits w 14 7) (bits w 7 7) (bits w 0 7))
  | 4 => some (.vshfx (bits w 14 7) (bits w 7 7) (bits w 0 7))
  | 5 => if bits w 0 7 = 0 then some (.vvoteAny (bits w 14 7) (bits w 7 7)) else none
  | 6 => if bits w 0 7 = 0 then some (.vvoteAll (bits w 14 7) (bits w 7 7)) else none
  | 7 => if bits w 0 7 = 0 then some (.vballot (bits w 14 7) (bits w 7 7)) else none
  | 8 => if bits w 0 7 = 0 then some (.vmatchB32 (bits w 14 7) (bits w 7 7)) else if bits w 0 7 = 1 then some (.vmatchF32 (bits w 14 7) (bits w 7 7)) else none
  | 9 => some (.vcompact (bits w 14 7) (bits w 7 7) (bits w 0 7))
  | 32 => some (.vscanAddI32 (bits w 14 7) (bits w 7 7) (bits w 0 7))
  | 33 => some (.vscanxAddI32 (bits w 14 7) (bits w 7 7) (bits w 0 7))
  | 34 => some (.vscanAddF32 (bits w 14 7) (bits w 7 7) (bits w 0 7))
  | 35 => some (.vscanxAddF32 (bits w 14 7) (bits w 7 7) (bits w 0 7))
  | 36 => some (.vscanMinI (bits w 14 7) (bits w 7 7) (bits w 0 7))
  | 37 => some (.vscanxMinI (bits w 14 7) (bits w 7 7) (bits w 0 7))
  | 38 => some (.vscanMinN (bits w 14 7) (bits w 7 7) (bits w 0 7))
  | 39 => some (.vscanxMinN (bits w 14 7) (bits w 7 7) (bits w 0 7))
  | 40 => some (.vscanMaxI (bits w 14 7) (bits w 7 7) (bits w 0 7))
  | 41 => some (.vscanxMaxI (bits w 14 7) (bits w 7 7) (bits w 0 7))
  | 42 => some (.vscanMaxN (bits w 14 7) (bits w 7 7) (bits w 0 7))
  | 43 => some (.vscanxMaxN (bits w 14 7) (bits w 7 7) (bits w 0 7))
  | 44 => some (.vscanAnd (bits w 14 7) (bits w 7 7) (bits w 0 7))
  | 45 => some (.vscanxAnd (bits w 14 7) (bits w 7 7) (bits w 0 7))
  | 46 => some (.vscanOr (bits w 14 7) (bits w 7 7) (bits w 0 7))
  | 47 => some (.vscanxOr (bits w 14 7) (bits w 7 7) (bits w 0 7))
  | 48 => some (.vredAddI32 (bits w 14 7) (bits w 7 7) (bits w 0 7))
  | 50 => some (.vredAddF32 (bits w 14 7) (bits w 7 7) (bits w 0 7))
  | 52 => some (.vredMinI (bits w 14 7) (bits w 7 7) (bits w 0 7))
  | 54 => some (.vredMinN (bits w 14 7) (bits w 7 7) (bits w 0 7))
  | 56 => some (.vredMaxI (bits w 14 7) (bits w 7 7) (bits w 0 7))
  | 58 => some (.vredMaxN (bits w 14 7) (bits w 7 7) (bits w 0 7))
  | 60 => some (.vredAnd (bits w 14 7) (bits w 7 7) (bits w 0 7))
  | 62 => some (.vredOr (bits w 14 7) (bits w 7 7) (bits w 0 7))
  | _ => none

/-- Major 0x10, VMOV (R50). -/
noncomputable def decVmov (w : Nat) : Option Instr :=
  match bits w 21 6 with
  | 0 => if bits w 0 7 = 0 then some (.vmov (bits w 14 7) (bits w 7 7)) else none
  | 1 => some (.vsel (bits w 14 7) (bits w 7 7) (bits w 0 7))
  | 2 => if bits w 0 7 = 0 then some (.vmovs (bits w 14 7) (bits w 7 7)) else none
  | 3 => some (.vread (bits w 14 7) (bits w 7 7) (bits w 0 7))
  | 4 => some (.vwrite (bits w 14 7) (bits w 7 7) (bits w 0 7))
  | 5 => if bits w 0 14 = 0 then some (.emget (bits w 14 7)) else none
  | 6 => if bits w 14 7 = 0 ∧ bits w 0 7 = 0 then some (.emset (bits w 7 7)) else none
  | 7 => if bits w 0 14 = 0 then some (.fpcget (bits w 14 7)) else none
  | 8 => if bits w 14 7 = 0 ∧ bits w 0 7 = 0 then some (.fpcset (bits w 7 7)) else none
  | 9 => if bits w 0 21 = 0 then some .fpcclr else none
  | 10 => if bits w 0 14 = 0 then some (.vlaneid (bits w 14 7)) else none
  | 11 => if bits w 0 7 = 0 then some (.smov (bits w 14 7) (bits w 7 7)) else none
  | 12 => if bits w 12 2 = 0 ∧ bits w 0 7 = 0 then some (.smovx (bits w 14 7) (bits w 7 5)) else none
  | 13 => if bits w 14 7 = 0 ∧ bits w 0 7 = 0 then some (.lcset (bits w 7 7)) else none
  | 14 => if bits w 0 14 = 0 then some (.lcget (bits w 14 7)) else none
  | _ => none

/-- Major 0x11, LDG (R50). -/
noncomputable def decLdg (w : Nat) : Option Instr :=
  (MemOrder.ofCode (bits w 21 3)).map fun ord => .ldg (ESize.ofCode (bits w 25 2)) (flag w 24) ord (bits w 14 7) (bits w 7 7) (bits w 0 7)

/-- Major 0x12, STG (R50). -/
noncomputable def decStg (w : Nat) : Option Instr :=
  if bits w 24 1 = 0 then (MemOrder.ofCode (bits w 21 3)).map fun ord => .stg (ESize.ofCode (bits w 25 2)) ord (bits w 14 7) (bits w 7 7) (bits w 0 7) else none

/-- Major 0x13, ATOM (R50). -/
noncomputable def decAtom (w : Nat) : Option Instr :=
  match bits w 23 4 with
  | 0 => some (.atomAdd (AWidth.ofCode (bits w 22 1)) (flag w 21) (bits w 14 7) (bits w 7 7) (bits w 0 7))
  | 1 => some (.atomSub (AWidth.ofCode (bits w 22 1)) (flag w 21) (bits w 14 7) (bits w 7 7) (bits w 0 7))
  | 2 => some (.atomMinI (AWidth.ofCode (bits w 22 1)) (flag w 21) (bits w 14 7) (bits w 7 7) (bits w 0 7))
  | 3 => some (.atomMinN (AWidth.ofCode (bits w 22 1)) (flag w 21) (bits w 14 7) (bits w 7 7) (bits w 0 7))
  | 4 => some (.atomMaxI (AWidth.ofCode (bits w 22 1)) (flag w 21) (bits w 14 7) (bits w 7 7) (bits w 0 7))
  | 5 => some (.atomMaxN (AWidth.ofCode (bits w 22 1)) (flag w 21) (bits w 14 7) (bits w 7 7) (bits w 0 7))
  | 6 => some (.atomAnd (AWidth.ofCode (bits w 22 1)) (flag w 21) (bits w 14 7) (bits w 7 7) (bits w 0 7))
  | 7 => some (.atomOr (AWidth.ofCode (bits w 22 1)) (flag w 21) (bits w 14 7) (bits w 7 7) (bits w 0 7))
  | 8 => some (.atomXor (AWidth.ofCode (bits w 22 1)) (flag w 21) (bits w 14 7) (bits w 7 7) (bits w 0 7))
  | 9 => some (.atomXchg (AWidth.ofCode (bits w 22 1)) (flag w 21) (bits w 14 7) (bits w 7 7) (bits w 0 7))
  | 10 => some (.atomCas (AWidth.ofCode (bits w 22 1)) (flag w 21) (bits w 14 7) (bits w 7 7) (bits w 0 7))
  | 11 => some (.atomInc (AWidth.ofCode (bits w 22 1)) (flag w 21) (bits w 14 7) (bits w 7 7) (bits w 0 7))
  | 12 => some (.atomDec (AWidth.ofCode (bits w 22 1)) (flag w 21) (bits w 14 7) (bits w 7 7) (bits w 0 7))
  | 13 => if bits w 22 1 = 0 then some (.atomFaddF32 (flag w 21) (bits w 14 7) (bits w 7 7) (bits w 0 7)) else none
  | 14 => if bits w 22 1 = 1 then some (.atomFaddF64 (flag w 21) (bits w 14 7) (bits w 7 7) (bits w 0 7)) else none
  | _ => none

/-- Major 0x14, LDS (R50). -/
noncomputable def decLds (w : Nat) : Option Instr :=
  match bits w 21 2 with
  | 0 => if bits w 25 2 = 0 then some (.lds (ESize.ofCode (bits w 23 2)) (bits w 14 7) (bits w 7 7) (bits w 0 7)) else none
  | 1 => if bits w 25 2 = 0 then some (.ldsTake (ESize.ofCode (bits w 23 2)) (bits w 14 7) (bits w 7 7) (bits w 0 7)) else none
  | 2 => if bits w 25 2 = 0 then some (.ldsTry (ESize.ofCode (bits w 23 2)) (bits w 14 7) (bits w 7 7) (bits w 0 7)) else none
  | 3 => if bits w 23 4 = 2 then some (.ldsLine (bits w 14 7) (bits w 7 7) (bits w 0 7)) else none
  | _ => none

/-- Major 0x15, STS (R50). -/
noncomputable def decSts (w : Nat) : Option Instr :=
  match bits w 23 4 with
  | 0 => some (.sts (ESize.ofCode (bits w 21 2)) (bits w 14 7) (bits w 7 7) (bits w 0 7))
  | 1 => if bits w 22 1 = 1 then some (.satomAdd (AWidth.ofCode (bits w 21 1)) (bits w 14 7) (bits w 7 7) (bits w 0 7)) else none
  | 2 => if bits w 22 1 = 1 then some (.satomMinI (AWidth.ofCode (bits w 21 1)) (bits w 14 7) (bits w 7 7) (bits w 0 7)) else none
  | 3 => if bits w 22 1 = 1 then some (.satomMinN (AWidth.ofCode (bits w 21 1)) (bits w 14 7) (bits w 7 7) (bits w 0 7)) else none
  | 4 => if bits w 22 1 = 1 then some (.satomMaxI (AWidth.ofCode (bits w 21 1)) (bits w 14 7) (bits w 7 7) (bits w 0 7)) else none
  | 5 => if bits w 22 1 = 1 then some (.satomMaxN (AWidth.ofCode (bits w 21 1)) (bits w 14 7) (bits w 7 7) (bits w 0 7)) else none
  | 6 => if bits w 22 1 = 1 then some (.satomAnd (AWidth.ofCode (bits w 21 1)) (bits w 14 7) (bits w 7 7) (bits w 0 7)) else none
  | 7 => if bits w 22 1 = 1 then some (.satomOr (AWidth.ofCode (bits w 21 1)) (bits w 14 7) (bits w 7 7) (bits w 0 7)) else none
  | 8 => if bits w 22 1 = 1 then some (.satomXchg (AWidth.ofCode (bits w 21 1)) (bits w 14 7) (bits w 7 7) (bits w 0 7)) else none
  | 9 => if bits w 22 1 = 1 then some (.satomCas (AWidth.ofCode (bits w 21 1)) (bits w 14 7) (bits w 7 7) (bits w 0 7)) else none
  | 10 => if bits w 14 9 = 0 then some (.sfin (bits w 7 7) (bits w 0 7)) else none
  | 11 => if bits w 14 9 = 0 then some (.sclr (bits w 7 7) (bits w 0 7)) else none
  | 12 => if bits w 14 9 = 0 then some (.sopen (bits w 7 7) (bits w 0 7)) else none
  | _ => none

/-- Major 0x16, PRIV (R50). -/
noncomputable def decPriv (w : Nat) : Option Instr :=
  match bits w 21 6 with
  | 0 => some (.pld (bits w 14 7) (bits w 7 7) (bits w 0 7))
  | 1 => some (.pst (bits w 14 7) (bits w 7 7) (bits w 0 7))
  | 2 => some (.pldq (bits w 14 7) (bits w 7 7) (bits w 0 7))
  | 3 => some (.pstq (bits w 14 7) (bits w 7 7) (bits w 0 7))
  | _ => none

/-- Major 0x17, SYNC (R50). -/
noncomputable def decSync (w : Nat) : Option Instr :=
  match bits w 21 6 with
  | 0 => if bits w 0 14 = 0 then (Scope.ofCode (bits w 14 7)).map fun sc => .fenceRel sc else none
  | 1 => if bits w 0 14 = 0 then (Scope.ofCode (bits w 14 7)).map fun sc => .fenceAcq sc else none
  | 2 => if bits w 0 14 = 0 then (Scope.ofCode (bits w 14 7)).map fun sc => .fenceSc sc else none
  | 3 => some (.wait (bits w 15 6) (bits w 10 5) (bits w 5 5) (bits w 0 5))
  | 4 => if bits w 11 10 = 8 then some (.bar (bits w 7 4) (bits w 0 7)) else none
  | 5 => if bits w 11 10 = 8 then some (.barArr (bits w 7 4) (bits w 0 7)) else none
  | 6 => if bits w 11 10 = 8 ∧ bits w 0 7 = 0 then some (.barWt (bits w 7 4)) else none
  | 7 => (Scope.ofCode (bits w 14 7)).map fun sc => .sig sc (bits w 7 7) (bits w 0 7)
  | 8 => (Scope.ofCode (bits w 14 7)).map fun sc => .sigwait sc (bits w 7 7) (bits w 0 7)
  | 9 => (Scope.ofCode (bits w 14 7)).map fun sc => .flushw sc (bits w 7 7) (bits w 0 7)
  | 10 => (Scope.ofCode (bits w 14 7)).map fun sc => .invl sc (bits w 7 7) (bits w 0 7)
  | _ => none

/-- Major 0x18, COPY (R50). -/
noncomputable def decCopy (w : Nat) : Option Instr :=
  match bits w 21 6 with
  | 0 => if bits w 14 7 = 0 ∧ bits w 0 7 = 0 then some (.dcp (bits w 7 7)) else none
  | 1 => if bits w 14 7 = 0 ∧ bits w 0 7 = 0 then some (.dcp2 (bits w 7 7)) else none
  | 2 => some (.dcpg (bits w 14 7) (bits w 7 7) (bits w 0 7))
  | 3 => if bits w 14 7 = 0 ∧ bits w 0 7 = 0 then some (.dcpx (bits w 7 7)) else none
  | 4 => if bits w 14 7 = 0 ∧ bits w 0 7 = 0 then some (.dcpr (bits w 7 7)) else none
  | 5 => if bits w 0 7 = 0 then some (.dstat (bits w 14 7) (bits w 7 7)) else none
  | _ => none

/-- Major 0x19, REMOTE (R50). -/
noncomputable def decRemote (w : Nat) : Option Instr :=
  match bits w 21 6 with
  | 0 => some (.rld (bits w 14 7) (bits w 7 7) (bits w 0 7))
  | 1 => some (.rst (bits w 14 7) (bits w 7 7) (bits w 0 7))
  | 2 => some (.ratom (bits w 14 7) (bits w 7 7) (bits w 0 7))
  | 3 => some (.rput (bits w 14 7) (bits w 7 7) (bits w 0 7))
  | 4 => some (.rget (bits w 14 7) (bits w 7 7) (bits w 0 7))
  | 5 => if bits w 14 7 = 0 then some (.rflush (bits w 7 7) (bits w 0 7)) else none
  | _ => none

/-- Major 0x1A, MATRIX (R50). -/
noncomputable def decMatrix (w : Nat) : Option Instr :=
  if bits w 0 3 = 0 then (MFmt.ofCode (bits w 22 5)).map fun fm => .mma fm (bits w 15 7) (bits w 10 5) (bits w 7 3) (GrpRnd.ofCode (bits w 5 2)) (flag w 4) (flag w 3) else none

/-- Major 0x1B, MATX (R50). -/
noncomputable def decMatx (w : Nat) : Option Instr :=
  match bits w 21 6 with
  | 0 => if bits w 20 1 = 0 ∧ bits w 5 2 = 0 then (MFmt.ofCode (bits w 0 5)).map fun fm => .bload (flag w 19) (bits w 14 5) (bits w 7 7) fm else none
  | 1 => if bits w 19 2 = 0 ∧ bits w 0 14 = 0 then some (.bfree (bits w 14 5)) else none
  | 2 => if bits w 17 4 = 0 ∧ bits w 2 12 = 0 then some (.mzero (bits w 14 3) (TileType.ofCode (bits w 0 2))) else none
  | 3 => if bits w 11 3 = 0 then (MFmt.ofCode (bits w 0 5)).map fun fm => .mst (bits w 14 7) (flag w 10) (bits w 7 3) (GrpRnd.ofCode (bits w 5 2)) fm else none
  | 4 => if bits w 17 4 = 0 ∧ bits w 2 5 = 0 then some (.mld (bits w 14 3) (bits w 7 7) (TileType.ofCode (bits w 0 2))) else none
  | 5 => if bits w 10 4 = 0 ∧ bits w 0 7 = 0 then some (.mstat (bits w 14 7) (bits w 7 3)) else if bits w 10 4 = 0 ∧ bits w 0 7 = 1 then some (.mstatClr (bits w 14 7) (bits w 7 3)) else if bits w 10 4 = 0 ∧ bits w 0 7 = 2 then some (.mstatSet (bits w 14 7) (bits w 7 3)) else none
  | 6 => if bits w 10 4 = 0 then some (.mtov (bits w 14 7) (bits w 7 3) (bits w 0 7)) else none
  | 7 => if bits w 17 4 = 0 then some (.vtom (bits w 14 3) (bits w 7 7) (bits w 0 7)) else none
  | _ => none

/-- Major 0x1C, QUORUM (R50). -/
noncomputable def decQuorum (w : Nat) : Option Instr :=
  match bits w 25 2 with
  | 0 => some (.cbrAny (flag w 24) (bits w 22 2) (bits w 16 6) (bits w 0 16))
  | 1 => some (.cbrAll (flag w 24) (bits w 22 2) (bits w 16 6) (bits w 0 16))
  | _ => none

/-- Major 0x1D, QSYNC (R50). -/
noncomputable def decQsync (w : Nat) : Option Instr :=
  match bits w 21 6 with
  | 0 => if bits w 2 19 = 0 then some (.qbar (bits w 0 2)) else none
  | 1 => if bits w 14 7 = 0 ∧ bits w 2 5 = 0 then some (.cvote (bits w 7 7) (bits w 0 2)) else none
  | 2 => if bits w 2 19 = 0 then some (.qleave (bits w 0 2)) else none
  | 3 => if bits w 2 12 = 0 then some (.qstat (bits w 14 7) (bits w 0 2)) else none
  | 4 => if bits w 0 21 = 0 then some .tkwait else none
  | 5 => if bits w 0 21 = 0 then some .tkpass else none
  | _ => none

/-- The instruction a word holds before the field checks of R54. -/
noncomputable def decRaw (w : Nat) : Option Instr :=
  match bits w 27 5 with
  | 0 => decSys w
  | 1 => decSctl w
  | 2 => decMask w
  | 3 => decSalu3 w
  | 4 => decSalui w
  | 5 => decSli w
  | 6 => decVint3 w
  | 7 => decVints w
  | 8 => decVinti w
  | 9 => decVfp3 w
  | 10 => decVfps w
  | 11 => decVfma w
  | 12 => decVcvt w
  | 13 => decVsfu w
  | 14 => decVcmp w
  | 15 => decXlane w
  | 16 => decVmov w
  | 17 => decLdg w
  | 18 => decStg w
  | 19 => decAtom w
  | 20 => decLds w
  | 21 => decSts w
  | 22 => decPriv w
  | 23 => decSync w
  | 24 => decCopy w
  | 25 => decRemote w
  | 26 => decMatrix w
  | 27 => decMatx w
  | 28 => decQuorum w
  | 29 => decQsync w
  | _ => none

/-- The instruction of a 32-bit word; none for the words of R54 and R55. -/
noncomputable def decode (w : Nat) : Option Instr :=
  if w < 2 ^ 32 then (decRaw w).filter Instr.wf else none

/-- The instruction at the head of a list of bytes, lowest address first (R42: little-endian), with the
bytes after it; none for a short list or a word that is no instruction. -/
noncomputable def decodeBytes : List Byte → Option (Instr × List Byte)
  | b0 :: b1 :: b2 :: b3 :: rest =>
    (decode (b0.toNat + b1.toNat * 2 ^ 8 + b2.toNat * 2 ^ 16 + b3.toNat * 2 ^ 24)).map
      fun i => (i, rest)
  | _ => none

/-- A word with 1 field: `base` plus each field at its lowest bit. -/
def word1 (base x ix : Nat) : Nat :=
  base + x * 2 ^ ix
/-- A word with 2 fields: `base` plus each field at its lowest bit. -/
def word2 (base x ix y iy : Nat) : Nat :=
  base + x * 2 ^ ix + y * 2 ^ iy
/-- A word with 3 fields: `base` plus each field at its lowest bit. -/
def word3 (base x ix y iy z iz : Nat) : Nat :=
  base + x * 2 ^ ix + y * 2 ^ iy + z * 2 ^ iz
/-- A word with 4 fields: `base` plus each field at its lowest bit. -/
def word4 (base x ix y iy z iz u iu : Nat) : Nat :=
  base + x * 2 ^ ix + y * 2 ^ iy + z * 2 ^ iz + u * 2 ^ iu
/-- A word with 5 fields: `base` plus each field at its lowest bit. -/
def word5 (base x ix y iy z iz u iu v iv : Nat) : Nat :=
  base + x * 2 ^ ix + y * 2 ^ iy + z * 2 ^ iz + u * 2 ^ iu + v * 2 ^ iv
/-- A word with 6 fields: `base` plus each field at its lowest bit. -/
def word6 (base x ix y iy z iz u iu v iv s is : Nat) : Nat :=
  base + x * 2 ^ ix + y * 2 ^ iy + z * 2 ^ iz + u * 2 ^ iu + v * 2 ^ iv + s * 2 ^ is
/-- A word with 7 fields: `base` plus each field at its lowest bit. -/
def word7 (base x ix y iy z iz u iu v iv s is t it : Nat) : Nat :=
  base + x * 2 ^ ix + y * 2 ^ iy + z * 2 ^ iz + u * 2 ^ iu + v * 2 ^ iv + s * 2 ^ is + t * 2 ^ it

/-- The word of an instruction, from the match and the fields of its row of spec/opcode_table.json; an
event has none. -/
def encode : Instr → Option Nat
  | .nop => some 0x0
  | .trap n => some (word1 0x200000 n 0)
  | .tret => some 0x400000
  | .tretPark => some 0x400001
  | .tretKill => some 0x400002
  | .sys d a b => some (word3 0x600000 d 14 a 7 b 0)
  | .rdsys d n => some (word2 0x800000 d 14 n 0)
  | .wrsys a n => some (word2 0xa00000 a 7 n 0)
  | .ppoint m => some (word1 0xc00000 m 0)
  | .brkpt n => some (word1 0xe00000 n 0)
  | .wbase n => some (word1 0x1000000 n 0)
  | .ovload s a => some (word2 0x1200000 s 14 a 7)
  | .ovcall d a => some (word2 0x1400000 d 14 a 7)
  | .ovret a => some (word1 0x1600000 a 7)
  | .rdcyc d => some (word1 0x1800000 d 14)
  | .br off => some (word1 0x8000000 off 0)
  | .bz s off => some (word2 0x8800000 s 16 off 0)
  | .bnz s off => some (word2 0x9000000 s 16 off 0)
  | .blt s off => some (word2 0x9800000 s 16 off 0)
  | .bge s off => some (word2 0xa000000 s 16 off 0)
  | .call s off => some (word2 0xa800000 s 16 off 0)
  | .ret s => some (word1 0xb000000 s 16)
  | .jr s imm => some (word2 0xb800000 s 16 imm 0)
  | .bem0 off => some (word1 0xc000000 off 0)
  | .bemx s off => some (word2 0xc800000 s 16 off 0)
  | .exit => some 0xd000000
  | .maskIf s off => some (word2 0x10000000 s 16 off 0)
  | .maskElse off => some (word1 0x10800000 off 0)
  | .maskEndif => some 0x11000000
  | .maskLoop off => some (word1 0x11800000 off 0)
  | .endl off => some (word1 0x12000000 off 0)
  | .brk n off => some (word2 0x12800000 n 16 off 0)
  | .cont n off => some (word2 0x13000000 n 16 off 0)
  | .mpush s => some (word1 0x13800000 s 16)
  | .mpop => some 0x14000000
  | .sadd d a b => some (word3 0x18000000 d 14 a 7 b 0)
  | .ssub d a b => some (word3 0x18200000 d 14 a 7 b 0)
  | .smul d a b => some (word3 0x18400000 d 14 a 7 b 0)
  | .smulhI d a b => some (word3 0x18600000 d 14 a 7 b 0)
  | .smulhN d a b => some (word3 0x18800000 d 14 a 7 b 0)
  | .sand d a b => some (word3 0x18a00000 d 14 a 7 b 0)
  | .sor d a b => some (word3 0x18c00000 d 14 a 7 b 0)
  | .sxor d a b => some (word3 0x18e00000 d 14 a 7 b 0)
  | .sshl d a b => some (word3 0x19000000 d 14 a 7 b 0)
  | .sshr d a b => some (word3 0x19200000 d 14 a 7 b 0)
  | .ssra d a b => some (word3 0x19400000 d 14 a 7 b 0)
  | .sminI d a b => some (word3 0x19600000 d 14 a 7 b 0)
  | .sminN d a b => some (word3 0x19800000 d 14 a 7 b 0)
  | .smaxI d a b => some (word3 0x19a00000 d 14 a 7 b 0)
  | .smaxN d a b => some (word3 0x19c00000 d 14 a 7 b 0)
  | .sseq d a b => some (word3 0x19e00000 d 14 a 7 b 0)
  | .ssltI d a b => some (word3 0x1a000000 d 14 a 7 b 0)
  | .ssltN d a b => some (word3 0x1a200000 d 14 a 7 b 0)
  | .sdivI d a b => some (word3 0x1a400000 d 14 a 7 b 0)
  | .sdivN d a b => some (word3 0x1a600000 d 14 a 7 b 0)
  | .sremI d a b => some (word3 0x1a800000 d 14 a 7 b 0)
  | .sremN d a b => some (word3 0x1aa00000 d 14 a 7 b 0)
  | .spopc d a => some (word2 0x1ac00000 d 14 a 7)
  | .sclz d a => some (word2 0x1ae00000 d 14 a 7)
  | .sctz d a => some (word2 0x1b000000 d 14 a 7)
  | .sbfx d a b => some (word3 0x1b200000 d 14 a 7 b 0)
  | .sbfi d a b => some (word3 0x1b400000 d 14 a 7 b 0)
  | .saddq d a b => some (word3 0x1b600000 d 14 a 7 b 0)
  | .ssubq d a b => some (word3 0x1b800000 d 14 a 7 b 0)
  | .sshlq d a b => some (word3 0x1ba00000 d 14 a 7 b 0)
  | .saddi d a imm => some (word3 0x20000000 d 16 a 9 imm 0)
  | .sandi d a imm => some (word3 0x20800000 d 16 a 9 imm 0)
  | .sori d a imm => some (word3 0x21000000 d 16 a 9 imm 0)
  | .sxori d a imm => some (word3 0x21800000 d 16 a 9 imm 0)
  | .sshli d a imm => some (word3 0x22000000 d 16 a 9 imm 0)
  | .sshri d a imm => some (word3 0x22800000 d 16 a 9 imm 0)
  | .ssrai d a imm => some (word3 0x23000000 d 16 a 9 imm 0)
  | .sseqi d a imm => some (word3 0x23800000 d 16 a 9 imm 0)
  | .sslti d a imm => some (word3 0x24000000 d 16 a 9 imm 0)
  | .saddqi d a imm => some (word3 0x24800000 d 16 a 9 imm 0)
  | .sli d imm => some (word2 0x28000000 d 16 imm 0)
  | .slih d imm => some (word2 0x28800000 d 16 imm 0)
  | .vadd sz d a b => some (word4 0x30000000 sz.code 21 d 14 a 7 b 0)
  | .vsub sz d a b => some (word4 0x30800000 sz.code 21 d 14 a 7 b 0)
  | .vmul sz d a b => some (word4 0x31000000 sz.code 21 d 14 a 7 b 0)
  | .vmulhI sz d a b => some (word4 0x31800000 sz.code 21 d 14 a 7 b 0)
  | .vmulhN sz d a b => some (word4 0x32000000 sz.code 21 d 14 a 7 b 0)
  | .vand sz d a b => some (word4 0x32800000 sz.code 21 d 14 a 7 b 0)
  | .vor sz d a b => some (word4 0x33000000 sz.code 21 d 14 a 7 b 0)
  | .vxor sz d a b => some (word4 0x33800000 sz.code 21 d 14 a 7 b 0)
  | .vshl sz d a b => some (word4 0x34000000 sz.code 21 d 14 a 7 b 0)
  | .vshr sz d a b => some (word4 0x34800000 sz.code 21 d 14 a 7 b 0)
  | .vsra sz d a b => some (word4 0x35000000 sz.code 21 d 14 a 7 b 0)
  | .vminI sz d a b => some (word4 0x35800000 sz.code 21 d 14 a 7 b 0)
  | .vminN sz d a b => some (word4 0x36000000 sz.code 21 d 14 a 7 b 0)
  | .vmaxI sz d a b => some (word4 0x36800000 sz.code 21 d 14 a 7 b 0)
  | .vmaxN sz d a b => some (word4 0x37000000 sz.code 21 d 14 a 7 b 0)
  | .vmad sz d a b => some (word4 0x37800000 sz.code 21 d 14 a 7 b 0)
  | .vaddScalar sz d a b => some (word4 0x38000000 sz.code 21 d 14 a 7 b 0)
  | .vsubScalar sz d a b => some (word4 0x38800000 sz.code 21 d 14 a 7 b 0)
  | .vmulScalar sz d a b => some (word4 0x39000000 sz.code 21 d 14 a 7 b 0)
  | .vmulhIScalar sz d a b => some (word4 0x39800000 sz.code 21 d 14 a 7 b 0)
  | .vmulhNScalar sz d a b => some (word4 0x3a000000 sz.code 21 d 14 a 7 b 0)
  | .vandScalar sz d a b => some (word4 0x3a800000 sz.code 21 d 14 a 7 b 0)
  | .vorScalar sz d a b => some (word4 0x3b000000 sz.code 21 d 14 a 7 b 0)
  | .vxorScalar sz d a b => some (word4 0x3b800000 sz.code 21 d 14 a 7 b 0)
  | .vshlScalar sz d a b => some (word4 0x3c000000 sz.code 21 d 14 a 7 b 0)
  | .vshrScalar sz d a b => some (word4 0x3c800000 sz.code 21 d 14 a 7 b 0)
  | .vsraScalar sz d a b => some (word4 0x3d000000 sz.code 21 d 14 a 7 b 0)
  | .vminIScalar sz d a b => some (word4 0x3d800000 sz.code 21 d 14 a 7 b 0)
  | .vminNScalar sz d a b => some (word4 0x3e000000 sz.code 21 d 14 a 7 b 0)
  | .vmaxIScalar sz d a b => some (word4 0x3e800000 sz.code 21 d 14 a 7 b 0)
  | .vmaxNScalar sz d a b => some (word4 0x3f000000 sz.code 21 d 14 a 7 b 0)
  | .vmadScalar sz d a b => some (word4 0x3f800000 sz.code 21 d 14 a 7 b 0)
  | .vaddi sz d a imm => some (word4 0x40000000 sz.code 21 d 14 a 7 imm 0)
  | .vandi sz d a imm => some (word4 0x40800000 sz.code 21 d 14 a 7 imm 0)
  | .vori sz d a imm => some (word4 0x41000000 sz.code 21 d 14 a 7 imm 0)
  | .vxori sz d a imm => some (word4 0x41800000 sz.code 21 d 14 a 7 imm 0)
  | .vshli sz d a imm => some (word4 0x42000000 sz.code 21 d 14 a 7 imm 0)
  | .vshri sz d a imm => some (word4 0x42800000 sz.code 21 d 14 a 7 imm 0)
  | .vsrai sz d a imm => some (word4 0x43000000 sz.code 21 d 14 a 7 imm 0)
  | .vmuli sz d a imm => some (word4 0x43800000 sz.code 21 d 14 a 7 imm 0)
  | .vpopc sz d a => some (word3 0x44000000 sz.code 21 d 14 a 7)
  | .vclz sz d a => some (word3 0x44800000 sz.code 21 d 14 a 7)
  | .vctz sz d a => some (word3 0x45000000 sz.code 21 d 14 a 7)
  | .vabs sz d a => some (word3 0x45800000 sz.code 21 d 14 a 7)
  | .vneg sz d a => some (word3 0x46000000 sz.code 21 d 14 a 7)
  | .vbrev sz d a => some (word3 0x46800000 sz.code 21 d 14 a 7)
  | .fadd fm d a b => some (word4 0x48000000 fm.code 21 d 14 a 7 b 0)
  | .fsub fm d a b => some (word4 0x48800000 fm.code 21 d 14 a 7 b 0)
  | .fmul fm d a b => some (word4 0x49000000 fm.code 21 d 14 a 7 b 0)
  | .fdiv fm d a b => some (word4 0x49800000 fm.code 21 d 14 a 7 b 0)
  | .fmin fm d a b => some (word4 0x4a000000 fm.code 21 d 14 a 7 b 0)
  | .fmax fm d a b => some (word4 0x4a800000 fm.code 21 d 14 a 7 b 0)
  | .fminn fm d a b => some (word4 0x4b000000 fm.code 21 d 14 a 7 b 0)
  | .fmaxn fm d a b => some (word4 0x4b800000 fm.code 21 d 14 a 7 b 0)
  | .fcpys fm d a b => some (word4 0x4c000000 fm.code 21 d 14 a 7 b 0)
  | .fscale fm d a b => some (word4 0x4c800000 fm.code 21 d 14 a 7 b 0)
  | .frem fm d a b => some (word4 0x4d000000 fm.code 21 d 14 a 7 b 0)
  | .fsqrt fm d a => some (word3 0x4d800000 fm.code 21 d 14 a 7)
  | .fabs fm d a => some (word3 0x4e000000 fm.code 21 d 14 a 7)
  | .fneg fm d a => some (word3 0x4e800000 fm.code 21 d 14 a 7)
  | .frint fm d a => some (word3 0x4f000000 fm.code 21 d 14 a 7)
  | .fclass fm d a => some (word3 0x4f800000 fm.code 21 d 14 a 7)
  | .faddScalar fm d a b => some (word4 0x50000000 fm.code 21 d 14 a 7 b 0)
  | .fsubScalar fm d a b => some (word4 0x50800000 fm.code 21 d 14 a 7 b 0)
  | .fmulScalar fm d a b => some (word4 0x51000000 fm.code 21 d 14 a 7 b 0)
  | .fdivScalar fm d a b => some (word4 0x51800000 fm.code 21 d 14 a 7 b 0)
  | .fminScalar fm d a b => some (word4 0x52000000 fm.code 21 d 14 a 7 b 0)
  | .fmaxScalar fm d a b => some (word4 0x52800000 fm.code 21 d 14 a 7 b 0)
  | .fminnScalar fm d a b => some (word4 0x53000000 fm.code 21 d 14 a 7 b 0)
  | .fmaxnScalar fm d a b => some (word4 0x53800000 fm.code 21 d 14 a 7 b 0)
  | .fcpysScalar fm d a b => some (word4 0x54000000 fm.code 21 d 14 a 7 b 0)
  | .fscaleScalar fm d a b => some (word4 0x54800000 fm.code 21 d 14 a 7 b 0)
  | .fremScalar fm d a b => some (word4 0x55000000 fm.code 21 d 14 a 7 b 0)
  | .ffma fm d a b => some (word4 0x58000000 fm.code 21 d 14 a 7 b 0)
  | .ffms fm d a b => some (word4 0x58800000 fm.code 21 d 14 a 7 b 0)
  | .ffnma fm d a b => some (word4 0x59000000 fm.code 21 d 14 a 7 b 0)
  | .ffnms fm d a b => some (word4 0x59800000 fm.code 21 d 14 a 7 b 0)
  | .vcvt pair d a rnd sat pos => some (word6 0x60000000 pair 21 d 14 a 7 rnd.code 4 sat.toNat 3 pos 0)
  | .frcp fm d a => some (word3 0x68000000 fm.code 21 d 14 a 7)
  | .frsq fm d a => some (word3 0x68800000 fm.code 21 d 14 a 7)
  | .fexp2 fm d a => some (word3 0x69000000 fm.code 21 d 14 a 7)
  | .flog2 fm d a => some (word3 0x69800000 fm.code 21 d 14 a 7)
  | .fsin fm d a => some (word3 0x6a000000 fm.code 21 d 14 a 7)
  | .fcos fm d a => some (word3 0x6a800000 fm.code 21 d 14 a 7)
  | .vcmp cond ty d a b => some (word5 0x70000000 cond.code 24 ty.code 21 d 14 a 7 b 0)
  | .vbcast d a b => some (word3 0x78000000 d 14 a 7 b 0)
  | .vperm d a b => some (word3 0x78200000 d 14 a 7 b 0)
  | .vshfup d a b => some (word3 0x78400000 d 14 a 7 b 0)
  | .vshfdn d a b => some (word3 0x78600000 d 14 a 7 b 0)
  | .vshfx d a b => some (word3 0x78800000 d 14 a 7 b 0)
  | .vvoteAny d a => some (word2 0x78a00000 d 14 a 7)
  | .vvoteAll d a => some (word2 0x78c00000 d 14 a 7)
  | .vballot d a => some (word2 0x78e00000 d 14 a 7)
  | .vmatchB32 d a => some (word2 0x79000000 d 14 a 7)
  | .vmatchF32 d a => some (word2 0x79000001 d 14 a 7)
  | .vcompact d a b => some (word3 0x79200000 d 14 a 7 b 0)
  | .vscanAddI32 d a b => some (word3 0x7c000000 d 14 a 7 b 0)
  | .vscanAddF32 d a b => some (word3 0x7c400000 d 14 a 7 b 0)
  | .vscanMinI d a b => some (word3 0x7c800000 d 14 a 7 b 0)
  | .vscanMinN d a b => some (word3 0x7cc00000 d 14 a 7 b 0)
  | .vscanMaxI d a b => some (word3 0x7d000000 d 14 a 7 b 0)
  | .vscanMaxN d a b => some (word3 0x7d400000 d 14 a 7 b 0)
  | .vscanAnd d a b => some (word3 0x7d800000 d 14 a 7 b 0)
  | .vscanOr d a b => some (word3 0x7dc00000 d 14 a 7 b 0)
  | .vscanxAddI32 d a b => some (word3 0x7c200000 d 14 a 7 b 0)
  | .vscanxAddF32 d a b => some (word3 0x7c600000 d 14 a 7 b 0)
  | .vscanxMinI d a b => some (word3 0x7ca00000 d 14 a 7 b 0)
  | .vscanxMinN d a b => some (word3 0x7ce00000 d 14 a 7 b 0)
  | .vscanxMaxI d a b => some (word3 0x7d200000 d 14 a 7 b 0)
  | .vscanxMaxN d a b => some (word3 0x7d600000 d 14 a 7 b 0)
  | .vscanxAnd d a b => some (word3 0x7da00000 d 14 a 7 b 0)
  | .vscanxOr d a b => some (word3 0x7de00000 d 14 a 7 b 0)
  | .vredAddI32 d a b => some (word3 0x7e000000 d 14 a 7 b 0)
  | .vredAddF32 d a b => some (word3 0x7e400000 d 14 a 7 b 0)
  | .vredMinI d a b => some (word3 0x7e800000 d 14 a 7 b 0)
  | .vredMinN d a b => some (word3 0x7ec00000 d 14 a 7 b 0)
  | .vredMaxI d a b => some (word3 0x7f000000 d 14 a 7 b 0)
  | .vredMaxN d a b => some (word3 0x7f400000 d 14 a 7 b 0)
  | .vredAnd d a b => some (word3 0x7f800000 d 14 a 7 b 0)
  | .vredOr d a b => some (word3 0x7fc00000 d 14 a 7 b 0)
  | .vmov d a => some (word2 0x80000000 d 14 a 7)
  | .vsel d a b => some (word3 0x80200000 d 14 a 7 b 0)
  | .vmovs d a => some (word2 0x80400000 d 14 a 7)
  | .vread d a b => some (word3 0x80600000 d 14 a 7 b 0)
  | .vwrite d a b => some (word3 0x80800000 d 14 a 7 b 0)
  | .emget d => some (word1 0x80a00000 d 14)
  | .emset a => some (word1 0x80c00000 a 7)
  | .fpcget d => some (word1 0x80e00000 d 14)
  | .fpcset a => some (word1 0x81000000 a 7)
  | .fpcclr => some 0x81200000
  | .vlaneid d => some (word1 0x81400000 d 14)
  | .smov d a => some (word2 0x81600000 d 14 a 7)
  | .smovx d n => some (word2 0x81800000 d 14 n 7)
  | .lcset a => some (word1 0x81a00000 a 7)
  | .lcget d => some (word1 0x81c00000 d 14)
  | .ldg sz sign ord d a b => some (word6 0x88000000 sz.code 25 sign.toNat 24 ord.code 21 d 14 a 7 b 0)
  | .stg sz ord d a b => some (word5 0x90000000 sz.code 25 ord.code 21 d 14 a 7 b 0)
  | .atomAdd wd ret d a b => some (word5 0x98000000 wd.code 22 ret.toNat 21 d 14 a 7 b 0)
  | .atomSub wd ret d a b => some (word5 0x98800000 wd.code 22 ret.toNat 21 d 14 a 7 b 0)
  | .atomMinI wd ret d a b => some (word5 0x99000000 wd.code 22 ret.toNat 21 d 14 a 7 b 0)
  | .atomMinN wd ret d a b => some (word5 0x99800000 wd.code 22 ret.toNat 21 d 14 a 7 b 0)
  | .atomMaxI wd ret d a b => some (word5 0x9a000000 wd.code 22 ret.toNat 21 d 14 a 7 b 0)
  | .atomMaxN wd ret d a b => some (word5 0x9a800000 wd.code 22 ret.toNat 21 d 14 a 7 b 0)
  | .atomAnd wd ret d a b => some (word5 0x9b000000 wd.code 22 ret.toNat 21 d 14 a 7 b 0)
  | .atomOr wd ret d a b => some (word5 0x9b800000 wd.code 22 ret.toNat 21 d 14 a 7 b 0)
  | .atomXor wd ret d a b => some (word5 0x9c000000 wd.code 22 ret.toNat 21 d 14 a 7 b 0)
  | .atomXchg wd ret d a b => some (word5 0x9c800000 wd.code 22 ret.toNat 21 d 14 a 7 b 0)
  | .atomCas wd ret d a b => some (word5 0x9d000000 wd.code 22 ret.toNat 21 d 14 a 7 b 0)
  | .atomInc wd ret d a b => some (word5 0x9d800000 wd.code 22 ret.toNat 21 d 14 a 7 b 0)
  | .atomDec wd ret d a b => some (word5 0x9e000000 wd.code 22 ret.toNat 21 d 14 a 7 b 0)
  | .atomFaddF32 ret d a b => some (word4 0x9e800000 ret.toNat 21 d 14 a 7 b 0)
  | .atomFaddF64 ret d a b => some (word4 0x9f400000 ret.toNat 21 d 14 a 7 b 0)
  | .lds sz d a b => some (word4 0xa0000000 sz.code 23 d 14 a 7 b 0)
  | .ldsTake sz d a b => some (word4 0xa0200000 sz.code 23 d 14 a 7 b 0)
  | .ldsTry sz d a b => some (word4 0xa0400000 sz.code 23 d 14 a 7 b 0)
  | .ldsLine d a b => some (word3 0xa1600000 d 14 a 7 b 0)
  | .sts sz d a b => some (word4 0xa8000000 sz.code 21 d 14 a 7 b 0)
  | .satomAdd wd d a b => some (word4 0xa8c00000 wd.code 21 d 14 a 7 b 0)
  | .satomMinI wd d a b => some (word4 0xa9400000 wd.code 21 d 14 a 7 b 0)
  | .satomMinN wd d a b => some (word4 0xa9c00000 wd.code 21 d 14 a 7 b 0)
  | .satomMaxI wd d a b => some (word4 0xaa400000 wd.code 21 d 14 a 7 b 0)
  | .satomMaxN wd d a b => some (word4 0xaac00000 wd.code 21 d 14 a 7 b 0)
  | .satomAnd wd d a b => some (word4 0xab400000 wd.code 21 d 14 a 7 b 0)
  | .satomOr wd d a b => some (word4 0xabc00000 wd.code 21 d 14 a 7 b 0)
  | .satomXchg wd d a b => some (word4 0xac400000 wd.code 21 d 14 a 7 b 0)
  | .satomCas wd d a b => some (word4 0xacc00000 wd.code 21 d 14 a 7 b 0)
  | .sfin a b => some (word2 0xad000000 a 7 b 0)
  | .sclr a b => some (word2 0xad800000 a 7 b 0)
  | .sopen a b => some (word2 0xae000000 a 7 b 0)
  | .pld d a b => some (word3 0xb0000000 d 14 a 7 b 0)
  | .pst d a b => some (word3 0xb0200000 d 14 a 7 b 0)
  | .pldq d a b => some (word3 0xb0400000 d 14 a 7 b 0)
  | .pstq d a b => some (word3 0xb0600000 d 14 a 7 b 0)
  | .fenceRel sc => some (word1 0xb8000000 sc.code 14)
  | .fenceAcq sc => some (word1 0xb8200000 sc.code 14)
  | .fenceSc sc => some (word1 0xb8400000 sc.code 14)
  | .wait ld st cp tl => some (word4 0xb8600000 ld 15 st 10 cp 5 tl 0)
  | .bar k b => some (word2 0xb8804000 k 7 b 0)
  | .barArr k b => some (word2 0xb8a04000 k 7 b 0)
  | .barWt k => some (word1 0xb8c04000 k 7)
  | .sig sc a b => some (word3 0xb8e00000 sc.code 14 a 7 b 0)
  | .sigwait sc a b => some (word3 0xb9000000 sc.code 14 a 7 b 0)
  | .flushw sc a b => some (word3 0xb9200000 sc.code 14 a 7 b 0)
  | .invl sc a b => some (word3 0xb9400000 sc.code 14 a 7 b 0)
  | .dcp a => some (word1 0xc0000000 a 7)
  | .dcp2 a => some (word1 0xc0200000 a 7)
  | .dcpg d a b => some (word3 0xc0400000 d 14 a 7 b 0)
  | .dcpx a => some (word1 0xc0600000 a 7)
  | .dcpr a => some (word1 0xc0800000 a 7)
  | .dstat d a => some (word2 0xc0a00000 d 14 a 7)
  | .rld d a b => some (word3 0xc8000000 d 14 a 7 b 0)
  | .rst d a b => some (word3 0xc8200000 d 14 a 7 b 0)
  | .ratom d a b => some (word3 0xc8400000 d 14 a 7 b 0)
  | .rput d a b => some (word3 0xc8600000 d 14 a 7 b 0)
  | .rget d a b => some (word3 0xc8800000 d 14 a 7 b 0)
  | .rflush a b => some (word2 0xc8a00000 a 7 b 0)
  | .mma fm a slot tile rnd scl nega => some (word7 0xd0000000 fm.code 22 a 15 slot 10 tile 7 rnd.code 5 scl.toNat 4 nega.toNat 3)
  | .bload scl slot a fm => some (word4 0xd8000000 scl.toNat 19 slot 14 a 7 fm.code 0)
  | .bfree slot => some (word1 0xd8200000 slot 14)
  | .mzero tile mode => some (word2 0xd8400000 tile 14 mode.code 0)
  | .mst d sat tile rnd fm => some (word5 0xd8600000 d 14 sat.toNat 10 tile 7 rnd.code 5 fm.code 0)
  | .mld tile a mode => some (word3 0xd8800000 tile 14 a 7 mode.code 0)
  | .mstat d tile => some (word2 0xd8a00000 d 14 tile 7)
  | .mstatClr d tile => some (word2 0xd8a00001 d 14 tile 7)
  | .mstatSet d tile => some (word2 0xd8a00002 d 14 tile 7)
  | .mtov d tile b => some (word3 0xd8c00000 d 14 tile 7 b 0)
  | .vtom tile a b => some (word3 0xd8e00000 tile 14 a 7 b 0)
  | .cbrAny hint q p off => some (word4 0xe0000000 hint.toNat 24 q 22 p 16 off 0)
  | .cbrAll hint q p off => some (word4 0xe2000000 hint.toNat 24 q 22 p 16 off 0)
  | .qbar q => some (word1 0xe8000000 q 0)
  | .cvote a q => some (word2 0xe8200000 a 7 q 0)
  | .qleave q => some (word1 0xe8400000 q 0)
  | .qstat d q => some (word2 0xe8600000 d 14 q 0)
  | .tkwait => some 0xe8800000
  | .tkpass => some 0xe8a00000
  | .illegalInstruction _ => none
  | .trapEntry _ => none
  | .exitDrain _ => none
  | .loadComplete _ _ _ => none
  | .storePerformed _ => none
  | .mmaComplete _ => none
  | .bloadComplete _ => none
  | .mldComplete _ => none
  | .mstLineWrite _ _ => none
  | .overlayLoadComplete _ _ => none
  | .sysReply _ _ => none
  | .storageCompletion _ _ _ _ _ => none
  | .copyService _ => none
  | .arrival _ _ _ _ _ _ => none
  | .remoteRequest _ => none
  | .reduceContribution _ => none
  | .elemResend _ _ => none
  | .voteArrival _ => none
  | .voteResult _ _ _ => none
  | .collectiveTimeout _ _ => none
  | .watchdog _ => none
  | .preemptDeadline _ => none
  | .parkComplete _ => none
  | .blockRestore _ => none
  | .quantumEnd _ => none
  | .blockPlace _ => none
  | .blockRetire _ => none
  | .launchComplete _ => none
  | .launch _ _ => none
  | .copy _ _ => none
  | .signal _ _ => none
  | .waitsig _ _ => none
  | .waitsigSatisfied _ _ => none
  | .flush _ _ => none
  | .inval _ _ => none
  | .checkpointSave _ _ => none
  | .checkpointRestore _ _ => none
  | .ownership _ _ => none
  | .tail _ _ _ _ => none
  | .crhead _ _ _ _ => none
  | .preq _ _ _ => none
  | .prelease _ _ _ => none
  | .ownclaim _ => none
  | .ownbeat _ => none
  | .electionWindowEnd => none
  | .ownershipLapse => none
  | .handoverLapsed => none
  | .create => none
  | .destroy => none
  | .qwrite => none
  | .keyset => none
  | .keyclr => none
  | .tlbinv => none
  | .lease => none
  | .revoke => none
  | .revokeAbort _ => none
  | .revokeControllerReset _ => none
  | .attest => none
  | .spdmMessage _ => none
  | .tdiError _ => none
  | .halt _ _ _ => none
  | .resume _ _ _ => none
  | .step _ _ _ _ => none
  | .readRegister _ _ _ _ => none
  | .writeRegister _ _ _ _ => none
  | .readAtticSections _ _ _ => none
  | .scan => none
  | .digestOnlyScan => none
  | .atticResume => none
  | .restart => none
  | .stopctl _ _ => none
  | .freeze => none
  | .loggedArrivalDelivery => none
  | .uncorrectableError _ => none
  | .refreshRateChange _ _ => none
  | .faultReply _ _ _ _ => none
  | .migClear _ _ => none
  | .priResponse _ _ _ _ => none
  | .priTimeout _ _ => none
  | .atsInvalidation _ _ _ => none
  | .shootdown _ _ _ => none
  | .matrixSelfTest _ _ _ => none
  | .matrixHang _ _ => none
  | .matrixResetDone _ _ _ => none
  | .sample _ => none
  | .waitForReading => none
  | .heartbeat _ => none
  | .rankLost _ => none
  | .departureFlit _ => none
  | .linkDown _ => none
  | .detourResend _ => none
  | .linkReplay _ => none
  | .alignmentExchange => none
  | .alignmentReply _ _ => none
  | .alignmentResult _ _ _ => none
  | .rcvgo _ => none
  | .recoveryFetchEnd _ _ _ => none
  | .coldReset _ _ _ => none
  | .packageReset _ _ => none
  | .thrctl _ => none
  | .powerMeasurement _ _ => none
  | .thermalPowerRemoval => none
  | .firmwareUpdate _ => none
  | .registerWrite _ _ _ _ => none
  | .portDown _ => none
  | .ethernetFrame _ _ => none

/-- The instruction the decoder reads from a row of the table: every instruction is one word of 32
bits (R42), so a row of another length holds none. -/
noncomputable def decodeTableWord (nbits w : Nat) : Option Instr :=
  if nbits = 32 then decode w else none

end Sys2Proof
end

