-- ==== Sys2Proof/Config.lean ====
section
/-! DEFINITION. What the spec leaves open and the machine goes on with: free values, opaque constants
applied to a plain counter of State (assumption log 9), and the fixed sizes of the package. -/

namespace Sys2Proof.Config

/-- A free 64-bit value for each draw (log 9). -/
opaque freeValue : Nat → BitVec 64

/-- A free byte for each draw (log 9): contents of pages, images and replies that the spec leaves to
firmware or system software. -/
opaque freeByte : Nat → BitVec 8

/-- A number for each line of memory that fixes its home, an L2 slice of the package and a set in it: the physical address
decides, in a way that the spec does not give (spec/08_memory_model.md R205, spec/21_prog_histogram.md R470; log 9). -/
opaque homeHash : Nat → Nat

/-- Whether a transcendental result that the interval arithmetic of Machine/Special.lean does not resolve lies at
the upper end of its last interval; no such argument is known (spec/05_float.md R161 to R162; log 9). -/
opaque unresolved : Nat → Nat → Bool

/-- The entry that a full TLB replaces: a function of the state since reset that the spec does not give, here of the
cycle (spec/16_contexts.md R368; log 9). -/
opaque tlbVictim : Nat → Nat

/-- The memory controller that holds a destination of a context, by its address: the interleaving that the spec does
not give (spec/10_copy_fabric.md R268; log 9). -/
opaque controller : Nat → Nat → Nat

/-- The overlay number that link words and site words show for the handler's slot, which holds no overlay
(spec/16_contexts.md R376, R389; log 9). -/
opaque handlerOverlay : BitVec 8

/-- The bytes of the firmware image in the flash (spec/22_package.md R482; log 9). -/
opaque firmware : List Nat

/-- The device serial number (spec/17_host.md R417; log 9). -/
opaque serial : List Nat

/-- The bytes of the boot stage in ROM (R417; log 9). -/
opaque bootRom : List Nat

/-- The two signatures of an attestation report over its first 256 bytes (R416, R417): the keys are fixed at
manufacture (log 9). -/
opaque signatures : List Nat → List Nat

/-- The services of `sys` that system software installs for a context, for each draw (spec/16_contexts.md R386;
log 9). -/
opaque services : Nat → List Nat

/-- The certificate chain of an SPDM slot (R416; log 9). -/
opaque certificate : Nat → List Nat

/-- The addresses of DDR-5 in the region that firmware reserves for logs and images (spec/20_replay.md R450; log 9). -/
opaque reserved : Nat → Bool

/-- Bytes of HBM4 of the package (spec/22_package.md R475). -/
def hbmBytes : Nat := 576 * 2 ^ 30

/-- Whether a namespace of an NVMe attach point has blocks of 4 KiB rather than 512 bytes
(spec/17_host.md R411; log 9). -/
opaque bigBlocks : Nat → Nat → Bool

/-- Bytes of a block of a namespace of an attach point (R411). -/
def blockBytes (drive nsid : Nat) : Nat := if bigBlocks drive nsid then 4096 else 512

/-- The tier and the frame to which the service cores move a migrating page, for each draw: their policy is not in the
spec (spec/16_contexts.md R369; log 59). -/
opaque migTarget : Nat → Nat × Nat

/-- The clocks that a request for a line takes to the port of its slice, by its cycle and line: what the network costs is
not in the spec (spec/21_prog_histogram.md R470; log 9). -/
opaque l2Delay : Nat → Nat → Nat

/-- The clocks after which the memory of the package has answered the fill of a line (R470; log 9). -/
opaque fillTime : Nat → Nat → Nat

/-- Whether an L1 serves a request for a line of an untracked page, which then does not reach the L2, by cycle, core and
line: the organisation of the L1 is not in the spec (spec/08_memory_model.md R205; log 9). -/
opaque l1Serves : Nat → Nat → Nat → Bool

/-- Whether the image in the flash verifies; none is the one of the factory (spec/22_package.md R482; log 9). -/
opaque verifies : Option (List Nat) → Bool

/-- The physical cores that fail the self-test at boot, and the Shelf banks (R478, R482, R484): as no rule has them change,
they are those of the package (log 9). -/
opaque badCores : List Nat

/-- The Shelf banks (core, partition, bank) that fail the self-test at boot. -/
opaque badBanks : List (Nat × Nat × Nat)

/-- Stored bytes of what is kept under the package's key: neither the algorithm nor the key is in the spec
(spec/20_replay.md R462; log 9). -/
opaque packageSeal : List Nat → List Nat

/-- What the read of an offset that holds no register returns, for each read (spec/17_host.md R394; log 9). -/
opaque readValue : Nat → BitVec 64

/-- The greatest path skew that the fabric has measured, in units of 10 ns (spec/10_copy_fabric.md R273; log 9). -/
opaque pathSkew : Nat

end Sys2Proof.Config
end

