-- ==== Sys2Proof/Machine/State.lean ====
section
/-! DEFINITION. The state of one package of the Dreac, all of it plain data: waves, blocks, cores,
launches, contexts, the package's own registers and memories, and the lists of what arrives from and
leaves for the outside (assumption log 1). Tables (`Tbl`) are keyed by numbers; a number without an
entry reads as a default. INVENTORY.md names the rule of the spec behind each field. -/

namespace Sys2Proof.Machine

/-- The reasons for which the machine stops with a fault.
`noPhysical tier addr`: raised when an access, a copy, a command, a storage transfer, an image scan or a
peer's request is led by a page table to an address that does not exist: in HBM4 at or above the 576 GiB, in
DDR-5 at or above the 2 TiB, that spec/00_scope.md gives the package (log 48). Safe: the machine stops where
the spec says nothing. -/
inductive Fault where
  | noPhysical (tier addr : Nat)
  deriving DecidableEq, Repr

/-- The reasons for which an instruction has no meaning.
`notModelled mnemonic`: raised by Machine/Dispatch.lean alone, for an instruction whose meaning is
not written. Safe: nothing is claimed of it. -/
inductive Refusal where
  | notModelled (mnemonic : String)
  deriving DecidableEq, Repr

/-- Memory: bytes by address, in the canonical form of `Memory.wf`. -/
abbrev Memory := List Host.Cell

/-! ### Waves -/

/-- An accumulator tile (R25, R164, R174): 1,024 words by row·64 + column, poisoned words (R429). -/
structure Tile where
  ty     : TileType := .fp32
  words  : Tbl Word := []
  status : Word := 0
  pois   : List Nat := []
  deriving DecidableEq, Repr

/-- What is recorded with a poisoned register word (R430): the address, the peer rank and the access
kind of the load that brought the poison. -/
structure PoisonInfo where
  addr : DWord := 0
  peer : Word := 0xFFFFFFFF#32
  kind : Nat := 0
  deriving DecidableEq, Repr

/-- The registers of a wave, which a wrong speculated path restores (R318). Vector registers 0 to 511
are physical numbers (R18); 1,024 to 1,031 are pv0 to pv7 (R365). Scalars 0 to 127 are s0 to s127;
1,024 to 1,031 are ps0 to ps7. The mask stack lists the top entry first. Keys of `vpois` are
register·64 + lane. -/
structure WaveRegs where
  pc      : Pc := 0
  em      : Mask := 0
  exited  : Mask := 0
  stack   : List (Mask × Pc) := []
  lc      : Word := 0
  wbase   : Nat := 0
  vregs   : Tbl Lanes := []
  sregs   : Tbl Word := []
  fpc     : Lanes := []
  ctxs    : Tbl Word := []
  tiles   : Tbl Tile := []
  priv    : Bool := false
  tcode   : Word := 0
  tpc     : Word := 0
  tem     : Mask := 0
  tinfo   : List Word := []
  trapen  : Word := 0
  wdctl   : Word := 0x60#32
  progcnt : Nat := 0
  retired : DWord := 0
  region  : Word := 0
  vpois   : Tbl PoisonInfo := []
  spois   : Tbl PoisonInfo := []
  deriving DecidableEq, Repr

/-- A trap to be delivered: code, TINFO0 to TINFO7, and the bits of TCODE (R374). -/
structure TrapRec where
  code  : Nat
  info  : List Word := []
  async : Bool := false
  rst   : Bool := false
  deriving DecidableEq, Repr

/-- A pass of a remote instruction to one rank that has not been answered (R278): the rank, the number of its request,
its lanes with their addresses, its access kind (R376), and whether it is a transfer (`rput`, `rget`) rather than an
access. -/
structure Pass where
  rank  : Nat
  id    : Nat := 0
  lanes : List (Nat × Nat) := []
  kind  : Nat := 0
  xfer  : Bool := false
  deriving DecidableEq, Repr

/-- An outstanding load (R32, R33): the values captured for its destination registers, its active
lanes, those among them that write the first register alone (R276), its memory requests (R13), the words that arrive poisoned, the passes not yet answered, and the number of
held stores before it when it was issued under speculation. -/
structure PendLoad where
  dests  : List (Nat × Lanes)
  mask   : Mask
  narrow : Mask := 0
  reqs   : Nat := 0
  pois   : List (Nat × PoisonInfo) := []
  passes : List Pass := []
  spec   : Option Nat := none
  deriving DecidableEq, Repr

/-- An outstanding store (R32): its memory requests (R13) and the passes not yet answered. -/
structure PendStore where
  reqs   : Nat := 0
  passes : List Pass := []
  deriving DecidableEq, Repr

/-- A matrix operation in flight (R178, R182, R183). -/
inductive TileOpKind where | mma | bload | mld | mst
  deriving DecidableEq, Repr

/-- A matrix operation with what it captured at issue: the bytes of the A tile or of the loaded lines,
scale factors, and for `mst` its number among transfers, the cycle of its issue and the lines still to be written, each
with its poisoned words. `done` marks one that has completed while an earlier one has not, as TL falls in issue
order (R33). -/
structure TileOp where
  kind    : TileOpKind
  fm      : MFmt := .f32
  tile    : Nat := 0
  slot    : Nat := 0
  rnd     : GrpRnd := .rne
  nega    : Bool := false
  mode    : TileType := .fp32
  pair    : Bool := false
  data    : List Byte := []
  factors : Option (List Byte) := none
  xid     : Nat := 0
  since   : Nat := 0
  lines   : List (Nat × List Byte × List Nat) := []
  done    : Bool := false
  deriving DecidableEq, Repr

/-- Member state of one quorum slot (R311, R313, R326, R328). `pord` is the proxy's ordinal; `used`: the vote cast is a
proxy that a collective has consumed and whose result it awaits, `res` the results not yet consumed, `mine` the site of the
collective that the member speculates past, `asking` the ordinal whose site it has asked the home for (R326). -/
structure QMember where
  ord   : Nat := 0
  cast  : Bool := false
  proxy : Bool := false
  used  : Bool := false
  pord  : Nat := 0
  taken : Bool := false
  res   : List VoteRes := []
  mine  : Nat := 0
  asking : Option Nat := none
  deriving DecidableEq, Repr

/-- One lane's access: its lane, its address, its bytes. -/
structure Req where
  lane : Nat
  va   : Nat
  n    : Nat
  deriving DecidableEq, Repr

/-- An access with its physical address, the page's w bit, whether the page is private memory, and the I/O page of the
host that was translated for it (R392). -/
structure Place where
  req  : Req
  tier : Nat
  pa   : Nat
  w    : Bool
  pmem : Bool := false
  io   : Nat := 0
  deriving DecidableEq, Repr

/-- A store held under speculation (R220, R317): the registers before it; whether it goes to the
scratchpad; the bytes it writes, by tier (0 for the scratchpad) and address; its places. -/
structure HeldStore where
  before : WaveRegs
  pad    : Bool := false
  cells  : List (Nat × Nat × Byte)
  places : List Place := []
  deriving DecidableEq, Repr

/-- Speculation past an unresolved vote (R317, R318): the registers at the collective branch, the two
targets, the path taken, what was issued, the held stores (oldest first), the tracked loads to be read
again with the value each read, those of OPEN lines (no bytes for a status alone), and a deferred trap. -/
structure Spec where
  base     : WaveRegs
  slot     : Nat
  taken    : Pc
  fall     : Pc
  hint     : Bool
  instrs   : Nat := 0
  writes   : Nat := 0
  held     : List HeldStore := []
  tracked  : List (Place × Nat) := []
  closed   : Nat := 0
  peeks    : List (Req × Nat) := []
  deferred : Option TrapRec := none
  deriving DecidableEq, Repr

/-- A wave's life (R36, R38, R380). -/
inductive Life where | resident | draining | parking | parked | saved | exited | removed
  deriving DecidableEq, Repr

/-- A pending boundary or asynchronous trap (R373), with the handle of the copy for a copy error; `held`: one that is
delivered at the next boundary, not at `wait`: POISON of a register read in privileged mode (R373), the failure of a
transfer of a draining wave (R41); `access`: the failure of an access of the wave, not of a copy (R432). -/
structure PendTrap where
  trap   : TrapRec
  handle : Nat := 0
  held   : Bool := false
  access : Bool := false
  deriving DecidableEq, Repr

/-- A pre-emption request that has reached a wave (R377): its deadline and its source. -/
structure PreReq where
  deadline : Nat
  source   : Nat
  deriving DecidableEq, Repr

/-- A wave (R27, R32, R36, R311, R352, R375). `final` holds that its final exit has taken effect
(R251), `aged` what a wave that has been pre-empted waited for (reason, object, since when, lines), until it goes on
(R355), `homes` the other ranks that hold tags of its region, `ending` those that have been told to retire them and
have not answered, each with the number of the message (R207); `ask` the peers whose checks it awaits, with the number of
its request (R278); `accept` the lines at which it stalls, each with its event. -/
structure Wave where
  regs     : WaveRegs := {}
  launch   : Nat := 0
  blk      : Nat := 0
  index    : Nat := 0
  core     : Nat := 0
  part     : Nat := 0
  slot     : Nat := 0
  ident    : Word := 0
  width    : Nat := 32
  nregs    : Nat := 8
  ntiles   : Nat := 0
  nslots   : Nat := 0
  privbase : Nat := 0
  savebase : DWord := 0
  loads    : List PendLoad := []
  stores   : List PendStore := []
  copies   : List (Nat × Nat × Nat) := []
  tileOps  : List TileOp := []
  quor     : Tbl QMember := []
  spec     : Option Spec := none
  pend     : List PendTrap := []
  preq     : Option PreReq := none
  life     : Life := .resident
  final    : Bool := false
  stall    : Nat := 0
  stallObj : Nat := 0
  since    : Nat := 0
  sysWait  : Option (Nat × Nat) := none
  sysRes   : List (Nat × Nat × Nat) := []
  votePend : Bool := false
  homes    : List Nat := []
  ending   : List (Nat × Nat) := []
  ask      : Option (Nat × List Nat) := none
  accept   : List (Nat × Nat) := []
  aged     : Option (Nat × Nat × Nat × List (Nat × Nat)) := none
  liveMask : Nat := 0
  halted   : Bool := false
  steps    : Option Nat := none
  deriving DecidableEq, Repr

/-! ### Blocks -/

/-- Scratchpad line states (R213). -/
inductive LineSt where | empty | filling | full | opened
  deriving DecidableEq, Repr

/-- A transfer as the owner of a line (R213): its issuer's identity word and its kind (0 copy, 1 `rput`,
2 `mst`); `word` is its own identity word (R375), `id` tells it from others of the same owner. -/
structure Xfer where
  issuer : Nat
  kind   : Nat
  word   : Nat := 0
  id     : Nat := 0
  deriving DecidableEq, Repr

/-- The owner of a FILLING line (R213): a wave, or a transfer. -/
inductive Owner where
  | none
  | wave (w : Nat)
  | xfer (x : Xfer)
  deriving DecidableEq, Repr

/-- The writer entry of an OPEN record (R215). -/
inductive WriterRec where
  | none
  | wave (w : Nat)
  | atomics (w : Nat)
  | many
  | external
  deriving DecidableEq, Repr

/-- An OPEN record (R215): a writer entry, two reader slots (`none` stands for external), MANY, and the
identity word of the last transfer recorded. -/
structure OpenRec where
  writer  : WriterRec := .none
  readers : List (Option Nat) := []
  many    : Bool := false
  ext     : Nat := 0
  deriving DecidableEq, Repr

/-- A scratchpad line: state, owner, bytes arrived, OPEN record (R213, R215), and the transfers that have
written it since it left EMPTY (R433). -/
structure Line where
  st    : LineSt := .empty
  owner : Owner := .none
  mask  : BitVec 128 := 0
  orec  : OpenRec := {}
  wrote : List Nat := []
  deriving DecidableEq, Repr

/-- A named barrier (R249): phase, waves arrived, waves that owe a wait, expected count. -/
structure Bar where
  phase   : Bool := false
  arrived : List Nat := []
  owed    : List Nat := []
  expect  : Option Nat := none
  deriving DecidableEq, Repr

/-- A Shelf slot (R26, R165): format, the 4 KiB operand, column factors, poisoned elements. -/
structure Shelf where
  fmt     : Option MFmt := none
  data    : List Byte := []
  factors : Option (List Byte) := none
  pois    : List Nat := []
  deriving DecidableEq, Repr

/-- A block's state (R36, R281, R380). -/
inductive BlockSt where | pending | resident | saved | retired | removed
  deriving DecidableEq, Repr

/-- A block: placement, scratchpad with line states (R31, R213), barriers, Shelf slots (key
(core·8 + part)·64 + slot), copy entries of its first core and the copy-issue count (R255, R261), ticket
(R330). `img` holds where a saved image lies, the free values written there and the value of its IV counter (R380,
R382), `kept` the overlays that the slots of its cores held as it was saved (R78). -/
structure Block where
  launch    : Nat := 0
  lin       : Nat := 0
  st        : BlockSt := .pending
  cores     : List Nat := []
  nw        : Nat := 0
  ssize     : Nat := 0
  scratch   : Memory := []
  spois     : List Nat := []
  lines     : Tbl Line := []
  bars      : Tbl Bar := []
  shelf     : Tbl Shelf := []
  entries   : List Nat := []
  copyCount : Nat := 0
  passed    : Bool := false
  recorded  : Bool := false
  msts      : List (Nat × TileOp) := []
  killed    : Option Nat := none
  img       : Option (Nat × Nat × Nat) := none
  kept      : Tbl (List (Nat × Nat)) := []
  deriving DecidableEq, Repr

/-! ### Cores and copies -/

/-- An overlay slot of instruction memory (R42, R43, R75, R76): the overlay it holds (256 for the
handler image), its words, the loads in progress (overlay, words, poisoned words), and the poisoned
words. -/
structure ImemSlot where
  ov      : Option Nat := none
  words   : Tbl Word := []
  loading : List (Nat × List Word × List Nat) := []
  pois    : List Nat := []
  deriving DecidableEq, Repr

/-- The five copy instructions (R260). -/
inductive CopyKind where | dcp | dcp2 | dcpg | dcpx | dcpr
  deriving DecidableEq, Repr

/-- A copy queue entry (R255, R257, R263): the block that holds it, its latest copy's sequence number,
descriptor words, gathered rows, issuing wave and identity, progress in bytes served, and its status
word fields. `id` orders copies by issue; `buf` holds what a copy that writes late has read, `held` what it
has yet to write; `waiting` that it waits for a controller or a peer; `accept` the lines at which it stalls, since the
cycle `since`. -/
structure CopyEntry where
  blk     : Nat := 0
  busy    : Bool := false
  seq     : Nat := 0
  kind    : CopyKind := .dcp
  words   : List Word := []
  ctl     : Word := 0
  rows    : List Nat := []
  wave    : Nat := 0
  ident   : Word := 0
  done    : Nat := 0
  state   : Nat := 0
  err     : Nat := 0
  flags   : Nat := 0
  other   : Word := 0
  counter : Nat := 0
  id      : Nat := 0
  buf     : List Byte := []
  held    : Option (List Byte) := none
  waiting : Bool := false
  closing : Option (Nat × Word) := none
  resend  : Bool := false
  accept  : List (Nat × Nat) := []
  since   : Nat := 0
  deriving DecidableEq, Repr

/-- The partitions of a physical core (R186, R345, R350, R434, R435), by partition: matrix operations since the last
self-test, fenced banks, lost partitions, engines in reset and the cycles at which their resets end; the schedulers'
pointers, by partition·4 + port, and the sampler's. -/
structure Engine where
  ptrs    : Tbl Nat := []
  smpPtr  : Tbl Nat := []
  mops    : Tbl Nat := []
  fences  : Tbl (List Nat) := []
  lost    : List Nat := []
  hang    : List Nat := []
  hangEnd : Tbl Nat := []
  deriving DecidableEq, Repr

/-- A logical core (R13, R42, R74, R75, R255, R338, R342). `loaded` is the launch whose overlays its slots have been
loaded for. -/
structure Core where
  slots    : Tbl ImemSlot := []
  loaded   : Option Nat := none
  resv     : Option Nat := none
  copyq    : Tbl CopyEntry := []
  copyPtr  : Nat := 0
  qends    : Nat := 0
  outgoing : Bool := false
  lastq    : Nat := 48
  deriving DecidableEq, Repr

/-! ### Launches and contexts -/

/-- A command taken from a queue (R400, R405): op, queue sequence number, tag, journal number with its
record's address, the 64 bytes of its entry. -/
structure Cmd where
  op  : Nat := 0
  seq : Nat := 0
  tag : Nat := 0
  jrn : Option (Nat × Nat) := none
  ent : List Byte := []
  deriving DecidableEq, Repr

/-- A launch: its descriptor and kernel record (R70, R71, R401), progress and status (R39, R40, R329,
R347, R377). `ovs` lists size and preload of each overlay; `quors` the table entry bound to each declared
slot, and its members as bits, every wave where there is no bitmap. -/
structure Launch where
  ctx      : Nat := 0
  queue    : Nat := 0
  cmd      : Cmd := {}
  coop     : Bool := false
  overlap  : Bool := false
  krec     : Nat := 0
  ovimg    : Nat := 0
  himg     : Nat := 0
  gx       : Nat := 1
  gy       : Nat := 1
  gz       : Nat := 1
  n        : Nat := 1
  hs       : Nat := 1
  mode     : Nat := 0
  replay   : Nat := 0
  arrival  : Bool := false
  dscratch : Nat := 0
  plimit   : Nat := 0
  args     : Nat := 0
  predl    : Nat := 0
  jtag     : Nat := 0
  imgarea  : Nat := 0
  saveb    : Nat := 0
  stride   : Nat := 0
  privstr  : Nat := 0
  privarea : Nat := 0
  sigaddr  : Nat := 0
  quors    : Tbl (Nat × Option Nat) := []
  width    : Nat := 32
  tiles    : Nat := 0
  shelf    : Nat := 0
  slots    : Nat := 0
  vregs    : Nat := 8
  scratch  : Nat := 0
  ovs      : List (Nat × Option Nat) := []
  blocks   : Nat := 1
  placed   : Tbl Nat := []
  nplaced  : Nat := 0
  started  : Nat := 0
  nretired : Nat := 0
  ordc     : Nat := 0
  broken   : List Nat := []
  recorded : List Nat := []
  hold     : Bool := false
  aborted  : Bool := false
  abortCode : Nat := 0
  copyFail : Option (Nat × Nat) := none
  imageTag : Option Nat := none
  complete : Bool := false
  accepted : Nat := 0
  quant    : Nat := 0
  deriving DecidableEq, Repr

/-- An ordinal of a quorum at its home (R312, R313, R322, R323): the votes cast, each with its
member, site, value and whether it is a proxy; the site fixed first; mismatch; deadline. -/
structure Ordinal where
  votes    : List (Nat × Nat × Bool × Bool) := []
  site     : Option Nat := none
  mismatch : Bool := false
  deadline : Nat := 0
  deriving DecidableEq, Repr

/-- An entry of the quorum table (R309 to R313, R321). At the home `proxied` holds, for the ordinals that proxies alone
have resolved, the any-result, the all-result and the site that the first consumer fixed (R326); at another package
`gather` holds, by ordinal, the votes of its members until they leave for the home (R313), `due` when their time runs
out (R323), and `left` counts its members that have departed; `seen` the members of other ranks that the home knows by their votes, each with whether it
has left (R321). -/
structure Quorum where
  word     : DWord := 0
  bound    : Nat := 0
  departed : Nat := 0
  poison   : Option (Nat × Nat) := none
  ords     : Tbl Ordinal := []
  proxied  : Tbl (Bool × Bool × Option Nat) := []
  gather   : Tbl (List Vote) := []
  due      : Tbl Nat := []
  left     : Nat := 0
  seen     : List (Nat × Bool) := []
  deriving DecidableEq, Repr

/-- A key slot (R267, R409). `closing`: KEYCLR waits for the copies that use it (R407). -/
structure KeySlot where
  key     : List Nat
  rsalt   : Nat
  ssalt   : Nat
  recv    : Nat := 0
  send    : Nat := 0
  closing : Bool := false
  deriving DecidableEq, Repr

/-- A command queue (R399): its registers, with HEAD as the count of commands taken; the completion records
written; the command in progress that is no launch; the launch taken last. -/
structure Queue where
  base   : DWord := 0
  size   : Nat := 0
  ctl    : Nat := 0
  crbase : DWord := 0
  tail   : Nat := 0
  head   : Nat := 0
  crhead : Nat := 0
  written : Nat := 0
  busy   : Option Cmd := none
  prev   : Option Nat := none
  deriving DecidableEq, Repr

/-- A transfer at work at a block of this package (R275, R277, R281): whether it is an `rput`, the context
and job launch tag it names, the rank that issued it with the number of its request and, for one issued here, the wave;
the accesses still to be made (lane, block, address, bytes to write), what an `rget` has read (lane, value,
poisoned), and the block and lines at which it stalls, since the cycle `since`. -/
structure Transfer where
  put   : Bool
  ctx   : Nat
  jtag  : Nat
  rank  : Nat
  seq   : Nat
  wave  : Nat := 0
  x     : Xfer
  items : List (Nat × Nat × Nat × List Byte)
  got   : List (Nat × Nat × Bool) := []
  blk    : Nat := 0
  accept : List (Nat × Nat) := []
  since  : Nat := 0
  deriving DecidableEq, Repr

/-- A reduction region of a context's job (R268, R269). -/
structure Region where
  expect  : Nat := 0
  waiting : List Contribution := []
  parts   : List Contribution := []
  deriving DecidableEq, Repr

/-- A storage lease (R411). -/
structure Lease where
  drive  : Nat
  nsid   : Nat
  first  : Nat
  count  : Nat
  rights : Nat
  deriving DecidableEq, Repr

/-- A context (R362, R399, R408), with the descriptor it was created from (R417), the key of its block images and their
IV counter (R382). -/
structure Ctx where
  ptbase    : DWord := 0
  pasid     : Nat := 0
  submitter : Nat := 0
  conf      : Bool := false
  debug     : Bool := false
  tdi       : Nat := 0
  rank      : Nat := 0
  jobSize   : Nat := 1
  quorums   : Tbl Quorum := []
  keys      : Tbl KeySlot := []
  queues    : Tbl Queue := []
  desc      : List Byte := []
  evBase    : DWord := 0
  evSize    : Nat := 0
  evCount   : Nat := 0
  smpctl    : Word := 0x1000#32
  smpbase   : DWord := 0
  smpsize   : Word := 0
  smpCounts : Tbl Nat := []
  wfgt      : Nat := 24
  findings  : List (Nat × List (Nat × Nat)) := []
  findNo    : Nat := 0
  clogbase  : DWord := 0
  clogsize  : Nat := 0
  clogused  : Nat := 0
  leases    : Tbl Lease := []
  policy    : Bool := false
  services  : List Nat := []
  preqLo    : Word := 0
  prelLo    : Word := 0
  dbgLo     : Word := 0
  dbgrsp    : DWord := 0
  regions   : Tbl Region := []
  imgKey    : List Nat := []
  imgIv     : Nat := 0
  images    : List (Nat × Nat) := []
  deriving DecidableEq, Repr

/-- The states of a TDI (R414): what TDISP leaves a TDI in. -/
inductive TdiState where
  | unlocked | locked | run | error
  deriving DecidableEq, Repr

/-! ### The package -/

/-- A party that accesses memory (R196): a wave, a copy entry of a core, a remote transfer. -/
inductive Party where
  | wave (w : Nat)
  | copy (core entry : Nat)
  | remote (ident pass : Nat)
  deriving DecidableEq, Repr

/-- A race tag (R206): party, its identity word, the access kind and the region number. -/
structure Tag where
  party  : Party
  ident  : Word
  kind   : Nat
  region : Word
  deriving DecidableEq, Repr

/-- The live tags of one granule (R206 to R209): the writer's, and the three reader slots, which end at the last
one in use. -/
structure Tags where
  writer  : Option Tag := none
  readers : List (Option Tag) := []
  deriving DecidableEq, Repr

/-- A memory access of another rank that has passed its checks here and waits to be performed (R278): its tag, whether it
is tracked, its context and its places. Until it is performed or given up, its tags stand (log 57). -/
structure Reservation where
  tag    : Tag
  track  : Bool
  ctx    : Nat
  places : List Place
  deriving DecidableEq, Repr

/-- A cached translation (R367, R368, R392): the TLB that holds it (an L1 by the number of its physical core, an L2 by
1,024 + its die), the leaf entry and the page's size as a power of two; or, of an I/O page of the host, the page of the
host's memory that it stands for and the right to write it. -/
structure TlbEntry where
  loc   : Nat := 0
  ctx   : Nat
  page  : Nat
  shift : Nat
  leaf  : DWord
  host  : Option (Nat × Bool) := none
  deriving DecidableEq, Repr

/-- An ATS invalidation that is not complete (R393): its PASID and its range of I/O addresses. -/
structure Inval where
  pasid : Nat
  base  : Nat
  len   : Nat
  deriving DecidableEq, Repr

/-- A write of the package to a context's space that waits for its pages or for an earlier one (R369, R403, R410): the
queue whose completion record it is; with `dev` it goes to a physical address of HBM4. -/
structure Post where
  ctx   : Nat
  queue : Option Nat := none
  dev   : Bool := false
  addr  : Nat
  bytes : List Byte
  deriving DecidableEq, Repr

/-- What an access waits for in the fault replay buffer (R369, R370): a page from the service cores, a translation of the
host (R392), a page request of it, the end of a migration. -/
inductive FrbKind where | service | ats | pri | mig
  deriving DecidableEq, Repr

/-- An entry of a core's fault replay buffer: the party that waits, the page (64 KiB of the virtual space,
or 4 KiB of the host's), the right it needs, the cycle at which its page request was sent, the answer with its response code, and
the translation of the host that it has received. -/
structure FrbEntry where
  party  : Party
  core   : Nat
  ctx    : Nat
  page   : Nat
  kind   : FrbKind
  write  : Bool := false
  sent   : Option Nat := none
  answer : Option (Bool × Nat) := none
  host   : Option (Nat × Bool) := none
  deriving DecidableEq, Repr

/-- A set of an L2 slice (R470): the lines its ways hold or fill, by way, the replacement tree, the ways whose fill is
pending, and the requests (line and port) that wait behind one. -/
structure L2Set where
  ways   : Tbl Nat := []
  tree   : Nat := 0
  pend   : List Nat := []
  behind : List (Nat × Nat) := []
  deriving DecidableEq, Repr

/-- A request on its way to a slice, or at its port (R470): the cycle at which it is there, slice, port, line and the
context for which it is made, whether it allocates the line, and whether it is the slice's own, with a line that has been
filled. -/
structure L2Req where
  at_   : Nat
  slice : Nat
  port  : Nat
  line  : Nat
  ctx   : Nat
  fill  : Bool
  own   : Bool := false
  deriving DecidableEq, Repr

/-- The fill of a line that has been sent (R470): the cycle of its answer, none for a line of the host, whose completion
is an arrival (R448). -/
structure L2Fill where
  line : Nat
  ctx  : Nat
  due  : Option Nat
  deriving DecidableEq, Repr

/-- The arbiter of an L2 slice (R471). -/
structure L2Arb where
  cont : Nat := 0
  last : Nat := 0
  ptr  : Nat := 0
  gcnt : Nat := 0
  deriving DecidableEq, Repr

/-- An error that the protection corrects (R427, R428): in a word or symbol, by the die, the context and the physical
address of its record; of a clean line of the L2, which is dropped; of an entry of a TLB, which is dropped. -/
inductive Corrected where
  | word (die ctx phys : Nat)
  | line (tier addr : Nat)
  | tlb (loc ctx page : Nat)
  deriving DecidableEq, Repr

/-- What comes from outside the package (R448): an operation or event of the opcode table; a peer's answer to a request;
the read of a register; the host's answer to a translation request, with the page of its memory and the rights it grants;
its allocation of page requests (R393); the state to which a TDISP request brings a TDI (R392, R414); the completion of the
fill of a line of its memory, for a context, with the bytes (R448); a write of the host to its own memory, which later
completions show; the module controller's write of THRCTL (R480); an error that has been corrected, which passes no gate. -/
inductive Arrival where
  | event (i : Instr)
  | answer (a : Answer)
  | read (id master page off : Nat) (wide : Bool)
  | translation (ctx page host : Nat) (r w : Bool)
  | priGrant (n : Nat)
  | tdisp (tdi : Nat) (st : TdiState)
  | completion (ctx line : Nat) (bytes : List Nat)
  | hostStore (addr : Nat) (bytes : List Nat)
  | throttle (v : Nat)
  | corrected (c : Corrected)
  deriving DecidableEq, Repr

/-- Other messages that leave: SPDM answers (R416), NVMe Abort and controller reset (R412), heartbeats (R436),
departure flits (R436), alignment flits and their answers (R466), resent flits (R274), the answer to a shoot-down
(R280). -/
inductive MsgKind where
  | spdm | driveAbort | driveReset | heartbeat | departure | align | alignReply | resend | shootdown
  deriving DecidableEq, Repr

/-- What leaves the package for the outside (log 1): requests, votes, results and contributions for
other ranks, error and reply messages, writes of the host interface that only the host observes. -/
inductive Outgoing where
  | remote (rank : Nat) (req : RemoteReq)
  | put (rank ctx jtag ident seq : Nat) (items : List (Nat × Nat × List Nat))
  | vote (rank : Nat) (vs : List Vote)
  | voteResult (rank ctx member q : Nat) (res : VoteRes)
  | contribute (rank : Nat) (c : Contribution)
  | reply (rank : Nat) (a : Answer) (vals : List (Nat × Nat))
  | sysCall (w : Nat) (msg : List Nat)
  | ats (pasid page : Nat) (write : Bool)
  | pri (pasid page : Nat) (write : Bool)
  | service (ctx page : Nat)
  | atsDone (pasid base len : Nat)
  | hostRead (pasid line : Nat)
  | completion (id : Nat) (value : Option Nat)
  | storage (lane w : Nat) (cmd : List Nat)
  | message (kind : MsgKind) (data : List Nat)
  deriving DecidableEq, Repr

/-- A storage command a wave has sent to a drive and not yet seen completed (R411 to R413); `aborted`: a
revocation has aborted it. -/
structure StorageCmd where
  wave  : Nat
  lane  : Nat
  ctx   : Nat
  lease : Nat
  first : Nat
  count : Nat
  write : Bool
  addr  : Nat
  drive : Nat := 0
  nsid  : Nat := 0
  aborted : Bool := false
  deriving DecidableEq, Repr

/-- A revocation (R412): its range, the step reached (0 begun, 1 aborts sent, 2 controller reset, 3 ended), when
it began, and whether a REVOKE waits for it. -/
structure Revocation where
  ctx   : Nat
  lease : Nat
  first : Nat
  count : Nat
  phase : Nat := 0
  since : Nat := 0
  adm   : Bool := false
  deriving DecidableEq, Repr

/-- A shoot-down of a read-only page (R280): step reached and ranks that acknowledged. -/
structure Shoot where
  ctx   : Nat
  page  : Nat
  step  : Nat
  acks  : List Nat := []
  deriving DecidableEq, Repr

/-- What an entry of the stamping log holds (R452, R453): an arrival with its port or attach point, one whose payload the
context's log could not take (R454), a launch marker (journal number, the ten settings of R4), or a check entry (identity
word, retired count, pc). A store of the host to its own memory takes no bytes of the log: it stands for what the package's
reads show of it from then on (log 60). -/
inductive LogBody where
  | arrival (port : Nat) (a : Arrival)
  | host (addr : Nat) (bytes : List Nat)
  | lost
  | marker (seq : Nat) (settings : List Nat)
  | check (ident retired pc : Nat)
  deriving DecidableEq, Repr

/-- An entry of the stamping log (R453): delivery cycle, gate, context, content; for a payload that the context's log
holds, its address there and the counter of its IV (R454). -/
structure LogEntry where
  cycle : Nat
  gate  : Nat
  ctx   : Nat
  body  : LogBody
  held  : Option (Nat × Nat × List Byte) := none
  deriving DecidableEq, Repr

/-- A stamping log (R452): where it lies, its entries and their bytes; the session that recorded it; whether that began
at a package reset, or at the restart from which image; and the host's memory as it stood then (log 60). -/
structure SessionLog where
  base    : Nat := 0
  entries : List LogEntry := []
  bytes   : List Byte := []
  session : Nat := 0
  atReset : Bool := false
  image   : Option Nat := none
  host    : Memory := []
  deriving DecidableEq, Repr

/-- The deterministic domain (R447): all that an Attic image holds (R461, R462). `votes` are on their way to
an agreement unit here, `results` to members here (member, entry, result). `acted` is the wave that acted in this clock,
with the pc of its instruction, and whether it entered its handler (R350); `admAt` when the request of ADMGO arrived
(R412); `priAlloc` the page requests that the host admits (R393); `resends` the ranks whose flits are resent over a
detour, with the cycles from which they may be (R274); `corrs` the CORRECTED records that may still be merged into, by
address: number, cycle, count (R431). -/
structure Domain where
  cycle    : Nat := 0
  cur      : Nat := 0
  acted    : Option (Nat × Pc × Bool) := none
  rr       : Nat := 0
  turn     : Bool := false
  fresh    : Nat := 0
  nextLaunch : Nat := 1
  waves    : Tbl Wave := []
  blocks   : Tbl Block := []
  launches : Tbl Launch := []
  cores    : Tbl Core := []
  engines  : Tbl Engine := []
  ctxs     : Tbl Ctx := []
  dying    : List Nat := []
  tags     : Tbl Tags := []
  tlb      : List TlbEntry := []
  invals   : List Inval := []
  posts    : List Post := []
  tdis     : Tbl TdiState := []
  priAlloc : Nat := 0
  frb      : List FrbEntry := []
  shoot    : List Shoot := []
  remap    : Tbl Word := []
  bquant   : Word := 128
  flgap    : Word := 200
  jrnBase  : DWord := 0
  jrnSize  : Nat := 0
  jrnSeq   : Nat := 0
  owned    : Bool := false
  openWin  : Bool := false
  giver    : Option (Nat × Nat) := none
  owner    : Nat := 0
  claims   : List Nat := []
  winEnd   : Nat := 0
  leaseMs  : Nat := 1000
  beat     : Nat := 0
  target   : Nat := 0
  giveEnd  : Nat := 0
  dropcnt  : Nat := 0
  admReq   : Tbl Word := []
  admNow   : Tbl Word := []
  admBusy  : Bool := false
  admAt    : Nat := 0
  admRes   : Nat := 0
  errBase  : DWord := 0
  errSize  : Nat := 0
  errCnt   : Nat := 0
  corrs    : Tbl (Nat × Nat × Nat) := []
  hblost   : Nat := 1000
  ports    : List Nat := []
  linksDown : List Nat := []
  resends  : List (Nat × Nat) := []
  lostRanks : List Nat := []
  heard    : Tbl Nat := []
  thrctl   : Word := 0
  thrLive  : Word := 0
  pwrcap   : Nat := 2400
  arbs     : Tbl L2Arb := []
  l2reqs   : List L2Req := []
  fills    : List L2Fill := []
  sets     : Tbl L2Set := []
  poison   : List Nat := []
  alignofs : DWord := 0
  alignAt  : Option Nat := none
  reading  : Nat := 0
  beatAt   : Nat := 0
  storage  : List StorageCmd := []
  revokes  : List Revocation := []
  transfers : List Transfer := []
  waitReqs : List RemoteReq := []
  reserved : List Reservation := []
  waitContrs : List Contribution := []
  votes    : List Vote := []
  results  : List (Nat × Nat × VoteRes) := []
  answers  : List Answer := []
  refresh  : Tbl Nat := []
  deriving DecidableEq, Repr, Inhabited

/-- The replay registers and logs (R450 to R463), kept by a package reset (R469). `log` is the log of the session, `old`
those of earlier ones; `next` counts the arrivals that a REPLAY session has delivered, `taken` the check entries and
markers it has met, `ended` is the cycle in which the last one ended (R457); `sessions` and `scans` number RECORD sessions
and images; `stopped` says that the clock of an armed stop has been completed (R460). -/
structure Replay where
  rpctl   : Nat := 0
  mode    : Nat := 0
  cause   : Nat := 0
  lost    : Bool := false
  base    : DWord := 0
  size    : Nat := 0
  used    : Nat := 0
  stopcyc : Nat := 0
  stopctl : Nat := 0
  attBase : DWord := 0
  attSize : Nat := 0
  attctl  : Nat := 0
  log     : SessionLog := {}
  old     : List SessionLog := []
  next    : Nat := 0
  taken   : Tbl Nat := []
  ended   : Option Nat := none
  sessions : Nat := 0
  scans   : Nat := 0
  stopped : Bool := false
  deriving DecidableEq, Repr

/-- An Attic image that this package has scanned (R462): its address and the bytes written there, the session mode, the
place in the log and its session, the domain that its sections hold, its number, the host's memory at the freeze (log 60),
and the arrivals that the gate buffers held (R461). -/
structure Image where
  base   : Nat
  bytes  : List Byte
  mode   : Nat
  next   : Nat
  taken  : Tbl Nat
  session : Nat
  domain : Domain
  num    : Nat := 0
  host   : Memory := []
  gates  : List (Nat × Nat × Arrival) := []
  deriving DecidableEq, Repr

/-- What lies before and beside the domain: boot stage (R482 to R484), recovery page, firmware status,
power, sensors, the last power measurements, the bytes of an image that an update has put into the flash, and
of the image that runs where it is not the one of the flash at the factory (log 9). -/
structure Boot where
  stage   : Nat := 6
  rcvstat : Word := 0x80000000#32
  rcvaddr : DWord := 0
  rcvlen  : Word := 0
  fwstat  : Word := 1
  power   : Bool := true
  stored  : Option (List Nat) := none
  image   : Option (List Nat) := none
  powers  : List Nat := []
  temps   : Tbl Nat := []
  deriving DecidableEq, Repr

/-- The state of the package: the deterministic domain, the memories, replay registers, images, boot,
a freeze (R460), and the model's own: arrivals to come with their delivery cycles and ports or attach points, those
that a REPLAY session has admitted, what has left (log 1), and a counter of register reads. `hostMem` is the host's memory as
the package's reads show it; in a REPLAY session, in which the log says that, `hostLive` is what the host has (log 60). -/
structure State extends Domain where
  hbm     : Memory := []
  ddr     : Memory := []
  hostMem : Memory := []
  hostLive : Option Memory := none
  rep     : Replay := {}
  images  : List Image := []
  boot    : Boot := {}
  frozen  : Bool := false
  agenda  : List (Nat × Nat × Arrival) := []
  admitted : List Arrival := []
  outbox  : List Outgoing := []
  reads   : Nat := 0
  deriving DecidableEq, Repr

/-- The value of the remap entry of a logical core after a boot without failures (R340, R478): logical
core c is physical core c mod 12 of die c div 12. -/
def State.resetRemap (c : Nat) : Word :=
  BitVec.ofNat 32 (0x8000 + (c / 12) * 256 + c % 12)

/-- The machine right after reset (R482 step 6): no launch, no context, every register at its reset
value; the registers for which the spec gives none stand at the values of log 12. -/
def State.reset : State :=
  { remap := (List.range 48).map fun c => (c, State.resetRemap c) }

end Sys2Proof.Machine
end

