-- ==== Sys2Proof/Machine/Base.lean ====
section
/-! DEFINITION. Tables, memories, lane values, and the reading and writing of a wave's registers. -/

namespace Sys2Proof.Machine

/-! ### Sorting -/

/-- A list with an element put before the first one that it is not after. -/
def putInOrder {α : Type} (le : α → α → Bool) (x : α) : List α → List α
  | [] => [x]
  | y :: ys => if le x y then x :: y :: ys else y :: putInOrder le x ys

/-- A list in ascending order; equal elements stay in the order they had. -/
def inOrder {α : Type} (le : α → α → Bool) : List α → List α
  | [] => []
  | x :: xs => putInOrder le x (inOrder le xs)

/-! ### Tables -/

/-- The entry of a table under a number. -/
def tfind? {α : Type} : Tbl α → Nat → Option α
  | [], _ => none
  | (k, v) :: t, n => if k = n then some v else tfind? t n

/-- The entry of a table under a number, or a default. -/
def tget {α : Type} (t : Tbl α) (n : Nat) (d : α) : α := (tfind? t n).getD d

/-- A table with the entry under a number replaced or inserted; keys stay in rising order. -/
def tset {α : Type} : Tbl α → Nat → α → Tbl α
  | [], n, v => [(n, v)]
  | (k, u) :: t, n, v =>
    if k = n then (n, v) :: t
    else if n < k then (n, v) :: (k, u) :: t
    else (k, u) :: tset t n v

/-- A table without the entries under a number. -/
def terase {α : Type} (t : Tbl α) (n : Nat) : Tbl α := t.filter fun e => e.1 ≠ n

/-- A table with each entry changed. -/
def tmap {α β : Type} (f : Nat → α → β) (t : Tbl α) : Tbl β := t.map fun e => (e.1, f e.1 e.2)

/-! ### Memory -/

/-- The canonical form of a memory: addresses strictly rise, and no listed byte is the 0 that an
unlisted address reads as (log 6). -/
abbrev Memory.wf (m : Memory) : Prop :=
  m.Pairwise (fun x y => x.1 < y.1) ∧ ∀ c ∈ m, c.2 ≠ 0

/-- The byte at an address; an unlisted byte reads as 0 (log 6). -/
def Memory.read : Memory → Nat → Byte
  | [], _ => 0
  | (k, v) :: t, a => if k = a then v else Memory.read t a

/-- Insertion of a cell before the first higher address. -/
def Memory.insert : Memory → Nat → Byte → Memory
  | [], a, b => [(a, b)]
  | (k, v) :: t, a, b => if a < k then (a, b) :: (k, v) :: t else (k, v) :: Memory.insert t a b

/-- The memory with one byte written, in canonical form. -/
def Memory.write (m : Memory) (a : Nat) (b : Byte) : Memory :=
  if b = 0 then m.filter fun c => c.1 ≠ a
  else Memory.insert (m.filter fun c => c.1 ≠ a) a b

/-- The `n` bytes from an address, lowest first. -/
def Memory.readList (m : Memory) (a : Nat) : Nat → List Byte
  | 0 => []
  | n + 1 => m.read a :: Memory.readList m (a + 1) n

/-- A memory with bytes written from an address up, lowest first. -/
def Memory.writeList (m : Memory) (a : Nat) : List Byte → Memory
  | [] => m
  | b :: bs => Memory.writeList (m.write a b) (a + 1) bs

/-- The number that bytes hold, little-endian (R2). -/
def leNat : List Byte → Nat
  | [] => 0
  | b :: bs => b.toNat + 256 * leNat bs

/-- The `n` bytes of a number, little-endian (R2). -/
def leBytes : Nat → Nat → List Byte
  | 0, _ => []
  | n + 1, x => BitVec.ofNat 8 x :: leBytes n (x / 256)

/-! ### Lanes and masks -/

/-- The 64 elements of a vector register from a function of the lane. -/
def mkLanes (f : Nat → Word) : Lanes := (List.range 64).map f

/-- The element of one lane. -/
def lane (v : Lanes) (l : Nat) : Word := v.getD l 0

/-- Bit `l` of a mask. -/
def bitOf (m : Mask) (l : Nat) : Bool := m.getLsbD l

/-- The mask whose bits below `n` are given by a function. -/
def maskBelow (f : Nat → Bool) : Nat → Mask
  | 0 => 0
  | n + 1 => maskBelow f n ||| (if f n then (1#64 <<< n) else 0)

/-- The mask of the lanes for which a function holds. -/
def mkMask (f : Nat → Bool) : Mask := maskBelow f 64

/-- Bits 0 to W − 1 (R27). -/
def widthMask (w : Nat) : Mask := mkMask fun l => decide (l < w)

/-- The lanes of a mask in ascending order. -/
def lanesOf (m : Mask) : List Nat := (List.range 64).filter (bitOf m)

/-! ### Registers of a wave -/

/-- The physical number of vector register `i` (R18), or of a privileged one (R365). -/
def WaveRegs.vkey (r : WaveRegs) (i : Nat) : Nat :=
  if r.priv && decide (120 ≤ i) then 904 + i else r.wbase * 8 + i

/-- The number of scalar register `i`, or of a privileged one (R365). -/
def WaveRegs.skey (r : WaveRegs) (i : Nat) : Nat :=
  if r.priv && decide (120 ≤ i) then 904 + i else i

/-- Vector register `i` (R18). -/
def WaveRegs.v (r : WaveRegs) (i : Nat) : Lanes := tget r.vregs (r.vkey i) []

/-- Scalar register `i` (R21). -/
def WaveRegs.s (r : WaveRegs) (i : Nat) : Word := tget r.sregs (r.skey i) 0

/-- The scalar pair `i`, `i + 1` (R21). -/
def WaveRegs.s2 (r : WaveRegs) (i : Nat) : DWord := pairOf (r.s i) (r.s (i + 1))

/-- Lane `l` of the vector pair `i`, `i + 1` (R19). -/
def WaveRegs.v2 (r : WaveRegs) (i l : Nat) : DWord := pairOf (lane (r.v i) l) (lane (r.v (i + 1)) l)

/-- A write of a vector register in the lanes of a mask; it clears their poison (R429). -/
def WaveRegs.setV (r : WaveRegs) (i : Nat) (m : Mask) (f : Nat → Word) : WaveRegs :=
  let k := r.vkey i
  let old := tget r.vregs k []
  { r with
    vregs := tset r.vregs k (mkLanes fun l => if bitOf m l then f l else lane old l)
    vpois := r.vpois.filter fun e => !(e.1 / 64 = k && bitOf m (e.1 % 64)) }

/-- A write of a vector register in the active lanes (R28). -/
def WaveRegs.putV (r : WaveRegs) (i : Nat) (f : Nat → Word) : WaveRegs := r.setV i r.em f

/-- A write of a vector pair in the active lanes (R19). -/
def WaveRegs.putV2 (r : WaveRegs) (i : Nat) (f : Nat → DWord) : WaveRegs :=
  (r.putV i fun l => loWord (f l)).putV (i + 1) fun l => hiWord (f l)

/-- A write of a scalar register; it clears its poison (R429). -/
def WaveRegs.putS (r : WaveRegs) (i : Nat) (x : Word) : WaveRegs :=
  { r with sregs := tset r.sregs (r.skey i) x, spois := terase r.spois (r.skey i) }

/-- A write of a scalar pair (R21). -/
def WaveRegs.putS2 (r : WaveRegs) (i : Nat) (x : DWord) : WaveRegs :=
  (r.putS i (loWord x)).putS (i + 1) (hiWord x)

/-- Context scalar s128 + `i` (R22). -/
def WaveRegs.ctxS (r : WaveRegs) (i : Nat) : Word := tget r.ctxs i 0

/-- The live lanes (R290). -/
def Wave.live (w : Wave) : Mask := widthMask w.width &&& ~~~w.regs.exited

/-! ### Parts of the state -/

/-- The wave that acts. -/
def State.wave (s : State) : Wave := tget s.waves s.cur {}

/-- The state with the acting wave changed. -/
def State.setWave (s : State) (w : Wave) : State := { s with waves := tset s.waves s.cur w }

/-- The registers of the acting wave. -/
def State.regs (s : State) : WaveRegs := s.wave.regs

/-- The state with the acting wave's registers changed. -/
def State.setRegs (s : State) (r : WaveRegs) : State := s.setWave { s.wave with regs := r }

/-- The state with the acting wave's registers updated by a function. -/
def State.updRegs (s : State) (f : WaveRegs → WaveRegs) : State := s.setRegs (f s.regs)

/-- A wave by its key. -/
def State.waveAt (s : State) (k : Nat) : Wave := tget s.waves k {}

/-- The state with a wave updated. -/
def State.updWave (s : State) (k : Nat) (f : Wave → Wave) : State :=
  { s with waves := tset s.waves k (f (s.waveAt k)) }

/-- A block by its key. -/
def State.blockAt (s : State) (k : Nat) : Block := tget s.blocks k {}

/-- The state with a block updated. -/
def State.updBlock (s : State) (k : Nat) (f : Block → Block) : State :=
  { s with blocks := tset s.blocks k (f (s.blockAt k)) }

/-- The block of the acting wave. -/
def State.block (s : State) : Block := s.blockAt s.wave.blk

/-- A launch by its number. -/
def State.launchAt (s : State) (k : Nat) : Launch := tget s.launches k {}

/-- The state with a launch updated. -/
def State.updLaunch (s : State) (k : Nat) (f : Launch → Launch) : State :=
  { s with launches := tset s.launches k (f (s.launchAt k)) }

/-- A logical core. -/
def State.coreAt (s : State) (c : Nat) : Core := tget s.cores c {}

/-- The state with a core updated. -/
def State.updCore (s : State) (c : Nat) (f : Core → Core) : State :=
  { s with cores := tset s.cores c (f (s.coreAt c)) }

/-- The physical core of a logical core (R340): die and number, none when it is not mapped. -/
def State.physical (s : State) (c : Nat) : Option Nat :=
  let e := (tget s.remap c 0).toNat
  if e / 2 ^ 15 % 2 = 1 then some (e / 2 ^ 8 % 16 * 16 + e % 16) else none

/-- The logical cores that share a core's physical core, in ascending order (R12, R340). -/
def State.group (s : State) (c : Nat) : List Nat :=
  (List.range 48).filter fun x => (s.physical x).isSome && decide (s.physical x = s.physical c)

/-- The key of the engines of a logical core: its physical core, or a number of its own while it is not mapped. -/
def State.engineKey (s : State) (c : Nat) : Nat := (s.physical c).getD (256 + c)

/-- The matrix engines of the physical core of a logical core (R340, R435). -/
def State.engineAt (s : State) (c : Nat) : Engine := tget s.engines (s.engineKey c) {}

/-- The state with the matrix engines of a logical core's physical core updated. -/
def State.updEngine (s : State) (c : Nat) (f : Engine → Engine) : State :=
  { s with engines := tset s.engines (s.engineKey c) (f (s.engineAt c)) }

/-- A context. -/
def State.ctxAt (s : State) (c : Nat) : Ctx := tget s.ctxs c {}

/-- The state with a context updated. -/
def State.updCtx (s : State) (c : Nat) (f : Ctx → Ctx) : State :=
  { s with ctxs := tset s.ctxs c (f (s.ctxAt c)) }

/-- The launch of the acting wave. -/
def State.launch (s : State) : Launch := s.launchAt s.wave.launch

/-- The context of the acting wave. -/
def State.ctxOf (s : State) : Ctx := s.ctxAt s.launch.ctx

/-- The state after a free value has been drawn (log 9). -/
def State.drawn (s : State) : State := { s with fresh := s.fresh + 1 }

/-- The key of block `lin` of a launch. -/
def blockKey (launch lin : Nat) : Nat := launch * 2 ^ 32 + lin

/-- The key of wave `i` of a block. -/
def waveKey (blk i : Nat) : Nat := blk * 256 + i

/-- The keys of the waves of a block. -/
def Block.waveKeys (b : Block) : List Nat :=
  (List.range b.nw).map (waveKey (blockKey b.launch b.lin))

/-- The word of instruction memory at a pc of a core; a word no load has written reads 0xF8000000
(R43). -/
def Core.fetch (c : Core) (pc : Pc) : Word :=
  let slot := tget c.slots (pc.toNat / 2 ^ 16) {}
  tget slot.words (pc.toNat % 2 ^ 16 / 4) 0xF8000000#32

/-- The instruction word at the acting wave's pc. -/
def State.fetchWord (s : State) : Word := (s.coreAt s.wave.core).fetch s.regs.pc

/-- The address of the next instruction: pc[15:0] plus 4, in the same slot (R42). -/
def nextPc (pc : Pc) : Pc := (pc &&& 0x30000#18) ||| ((pc + 4) &&& 0xFFFF#18)

/-- The target of a branch with a raw 16-bit word offset (R44). -/
def target (pc : Pc) (off : Nat) : Pc :=
  (pc &&& 0x30000#18) ||| ((pc + ((BitVec.ofNat 16 off).signExtend 18 <<< 2)) &&& 0xFFFF#18)

end Sys2Proof.Machine
end

