-- ==== Sys2Proof/Machine/Remove.lean ====
section
/-! DEFINITION. Ends of parties: the retirement of race tags (spec/08_memory_model.md R207), the roll-back
of speculation (spec/13_collective.md R318), the poisoning of quorums (R321), the breaking of tickets
(R331) and the removal of a block (spec/16_contexts.md R385). -/

namespace Sys2Proof.Machine

/-- Reader slots up to the last one in use. -/
def trimSlots : List (Option Tag) → List (Option Tag)
  | [] => []
  | x :: xs =>
    match x, trimSlots xs with
    | none, [] => []
    | x, ys => x :: ys

/-- The tags of a granule without those of a party: its slots are free (R209). -/
def Tags.without (t : Tags) (p : Party) : Tags :=
  { writer := t.writer.filter fun g => g.party ≠ p
    readers := trimSlots (t.readers.map fun r => r.filter fun g => g.party ≠ p) }

/-- The state with every live tag of a party retired (R207). -/
def State.retireTags (s : State) (p : Party) : State :=
  { s with tags := (tmap (fun _ t => t.without p) s.tags).filter fun e =>
      e.2.writer.isSome || !e.2.readers.isEmpty }

/-- The message that ends a wave's region at another rank (R207). -/
def State.endMessage (s : State) (k rank : Nat) : Outgoing :=
  let w := s.waveAt k
  let l := s.launchAt w.launch
  .remote rank
    { stage := .ended, ctx := l.ctx, jtag := l.jtag, kind := .rld, ident := w.ident.toNat, seq := s.fresh
      region := w.regs.region.toNat }

/-- The state after the homes at other ranks have been told to retire a wave's tags (R207). -/
def State.tellHomes (s : State) (k : Nat) : State :=
  if (s.waveAt k).homes.isEmpty then s
  else
    let s1 : State := { s with
      outbox := s.outbox ++ (s.waveAt k).homes.map (s.endMessage k), fresh := s.fresh + 1 }
    s1.updWave k fun w => { w with homes := [], ending := w.ending ++ w.homes.map fun r => (r, s.fresh) }

/-- The state in which a wave withdraws the checks that it has asked other ranks for (R278). -/
def State.dropAsk (s : State) (k : Nat) : State :=
  let w := s.waveAt k
  let l := s.launchAt w.launch
  match w.ask with
  | none => s
  | some (seq, ps) =>
    let r : RemoteReq :=
      { stage := .drop, ctx := l.ctx, jtag := l.jtag, kind := .rld, ident := w.ident.toNat, seq := seq
        region := w.regs.region.toNat }
    ({ s with outbox := s.outbox ++ ps.map fun p => .remote p r } : State).updWave k fun w => { w with ask := none }

/-- The state with every tag of a wave retired, here and at other ranks (R207). -/
def State.retireWave (s : State) (k : Nat) : State := (s.tellHomes k).retireTags (.wave k)

/-- The number of held stores before which a load was issued, beyond `n` (R318). -/
def PendLoad.after (ld : PendLoad) (n : Nat) : Bool :=
  match ld.spec with
  | none => false
  | some k => decide (n < k)

/-- A wave with its registers changed, and with them those that a roll-back restores: what an operation issued
before the speculation does when it completes (R178, R318). -/
def Wave.everyRegs (w : Wave) (f : WaveRegs → WaveRegs) : Wave :=
  { w with
    regs := f w.regs
    spec := w.spec.map fun sp =>
      { sp with base := f sp.base, held := sp.held.map fun h => { h with before := f h.before } } }

/-- A wave rolled back to its collective branch: registers undone, held stores, deferred trap and
speculative loads dropped (R318, R220). -/
def Wave.rollBack (w : Wave) : Wave :=
  match w.spec with
  | none => w
  | some sp =>
    { w with regs := sp.base, spec := none, loads := w.loads.filter fun ld => ld.spec.isNone }

/-- Slot byte `q` of s139 (R24). -/
def Wave.slotByte (w : Wave) (q : Nat) : Nat := (w.regs.ctxS 11).toNat / 2 ^ (8 * q) % 256

/-- The quorum indexes that a wave's slots name (R24). -/
def Wave.quorums (w : Wave) : List Nat :=
  ((List.range 4).map w.slotByte).filter fun q => q ≠ 255

/-- A wave that can still take a trap. -/
def Wave.alive (w : Wave) : Bool :=
  match w.life with
  | .resident | .draining | .parking | .parked | .saved => true
  | .exited | .removed => false

/-- A member that waits at a collective on quorum `q`, or speculates past one (R321). -/
def Wave.atCollective (w : Wave) (q : Nat) : Bool :=
  w.spec.isSome || (!w.regs.priv &&
    (List.range 4).any fun i => decide (w.slotByte i = q) && (tget w.quor i {}).cast)

/-- QUORUM_ABORT with its trap information (R376): precise at a collective, at the next boundary otherwise
(R371). -/
def abortTrap (w : Wave) (q ident code : Nat) : PendTrap :=
  { trap :=
      { code := 0x20, async := !w.atCollective q
        info := [0, 0, BitVec.ofNat 32 q, BitVec.ofNat 32 ident, BitVec.ofNat 32 code] } }

/-- The trap of a collective on quorum `q` that a result decides, for a member whose own site is `mine` (R322, R323). -/
def voteTrap (q mine : Nat) : VoteRes → Option TrapRec
  | .mismatch k x => some { code := 0x21, info := [0, 0, BitVec.ofNat 32 q, BitVec.ofNat 32 k, BitVec.ofNat 32 x,
      BitVec.ofNat 32 mine] }
  | .timeout k n c => some { code := 0x22, info := [0, 0, BitVec.ofNat 32 q, BitVec.ofNat 32 k, BitVec.ofNat 32 n,
      BitVec.ofNat 32 c] }
  | .resolved .. | .abort .. => none

/-- The traps of a member's collectives on quorum `q` that were decided before the quorum is poisoned: by a result that
it holds, or one of `due` that is on its way (R322, R323). -/
def Wave.decided (w : Wave) (q : Nat) (due : List VoteRes) : List PendTrap :=
  (List.range 4).filterMap fun i =>
    let m := tget w.quor i {}
    if w.slotByte i = q && !m.proxy then
      ((if m.cast then due else m.res).findSome? (voteTrap q m.mine)).map fun t => { trap := t }
    else none

/-- A member's votes on quorum `q`, which never resolves again, no longer awaited (R321). -/
def Wave.dropVotes (w : Wave) (q : Nat) : Wave :=
  { w with quor := tmap (fun i m =>
      if w.slotByte i = q then
        { m with
          cast := false, used := false, asking := none
          res := if m.proxy then m.res else m.res.filter fun r => (voteTrap q m.mine r).isNone }
      else m) w.quor }

/-- What the poisoning of quorum `q` does to a member: speculation is rolled back and QUORUM_ABORT
becomes pending (R321), after a trap that was decided before. -/
def Wave.takePoison (w : Wave) (q ident code : Nat) (due : List VoteRes) : Wave :=
  if w.alive && w.quorums.contains q then
    { w.rollBack.dropVotes q with pend := w.pend ++ w.decided q due ++ [abortTrap w q ident code] }
  else w

/-- The home rank of a quorum entry (R309). -/
def Quorum.home (q : Quorum) : Nat := q.word.toNat / 2 ^ 38 % 16

/-- The poisoning of a quorum on this package (R321): the first loss is recorded and every other member
takes QUORUM_ABORT; a quorum that is poisoned already stays as it is. -/
def State.poisonLocal (s : State) (ctx q ident code : Nat) : State :=
  let e := tget (s.ctxAt ctx).quorums q {}
  if e.poison.isSome then s
  else
    let s1 := s.updCtx ctx fun c =>
      { c with quorums := tset c.quorums q { e with poison := some (ident, code), ords := [], gather := [], due := [] } }
    { s1 with waves := tmap (fun k w =>
        if (s.launchAt w.launch).ctx = ctx then
          w.takePoison q ident code (s.results.filterMap fun r => if r.1 = k && decide (r.2.1 = q) then some r.2.2 else none)
        else w) s1.waves }

/-- The ranks of a context's job other than its own. -/
def Ctx.peers (c : Ctx) : List Nat := (List.range c.jobSize).filter fun r => r ≠ c.rank

/-- The poisoning of a quorum by the loss of a member here: this package at once, the others through
the home (R321). -/
def State.poisonQuorum (s : State) (ctx q ident code : Nat) : State :=
  let c := s.ctxAt ctx
  let e := tget c.quorums q {}
  if e.poison.isSome then s
  else
    let s1 := s.poisonLocal ctx q ident code
    if e.home = c.rank then
      { s1 with outbox := s1.outbox ++ c.peers.map fun r => .voteResult r ctx 0 q (.abort q ident code) }
    else
      let v : Vote :=
        { ctx := ctx, entry := q, ordinal := 0, kind := .lost, member := ident, site := 0
          value := false, code := code }
      { s1 with outbox := s1.outbox ++ [.vote e.home [v]] }

/-- The effect of the loss of one wave: its tags are retired (R207) and its quorums poisoned (R321). -/
def State.loseWave (s : State) (k code : Nat) : State :=
  let w := s.waveAt k
  if w.alive then
    let ctx := (s.launchAt w.launch).ctx
    let s := (s.dropAsk k).updWave k fun w =>
      { w with life := .removed, spec := none, loads := [], stores := [], copies := [],
               tileOps := [], pend := [], sysWait := none, stall := 0 }
    let s := s.retireWave k
    w.quorums.foldl (fun s q => s.poisonQuorum ctx q w.ident.toNat code) s
  else s

/-- The launch mode ORDERED (R401). -/
def Launch.ordered (l : Launch) : Bool := decide (l.mode = 1)

/-- A block breaks the sequence of its launch when it is removed without passing while c ≤ b (R331). -/
def State.breakTicket (s : State) (b : Block) : State :=
  s.updLaunch b.launch fun l =>
    if l.ordered && !b.passed && decide (l.ordc ≤ b.lin) then
      { l with broken := l.broken ++ [b.lin] }
    else l

/-- The removal of a block (R385): the wave `killer` with its trap code is lost first, then the others
with code 0; the ticket is not passed; the launch becomes ABORTED. Copies run on, and BLOCK_RETIRE
releases the rest when they have ended. -/
def State.removeBlock (s : State) (bk killer code : Nat) : State :=
  let b := s.blockAt bk
  let s := s.loseWave killer code
  let s := b.waveKeys.foldl (fun s k => s.loseWave k 0) s
  let s := s.breakTicket b
  let s := s.updBlock bk fun b => { b with st := .removed, killed := some code }
  s.updLaunch b.launch fun l =>
    { l with aborted := true, abortCode := if l.aborted then l.abortCode else code }

end Sys2Proof.Machine
end

