-- ==== Sys2Proof/Machine/Ops.lean ====
section
/-! DEFINITION. The shared operations of every instruction: the checks of spec/02_encoding.md R49, the
scoreboard (spec/01_machine.md R20), poison (spec/19_recovery.md R429), speculation
(spec/13_collective.md R317), taking a trap (spec/16_contexts.md R372) and returning from one (R385),
stalling, and retiring. -/

namespace Sys2Proof.Machine

/-- The outcome of an instruction. -/
abbrev Out := Host.Outcome State Fault Refusal

/-! ### Traps -/

/-- The pc of a wave as a TINFO or TPC word. -/
def pcWord (pc : Pc) : Word := pc.setWidth 32

/-- TCODE (R374). -/
def tcodeWord (t : TrapRec) (deferred : Bool) : Word :=
  BitVec.ofNat 32 (t.code % 256 + t.async.toNat * 256 + t.rst.toNat * 512 + deferred.toNat * 1024)

/-- The registers after trap entry (R372): TPC is the pc, `em` goes to TEM and becomes the live lanes,
the privilege bit is set, the progress counter is 0, and the pc is the start of handler slot `hs`. -/
def WaveRegs.enter (r : WaveRegs) (live : Mask) (hs : Nat) (t : TrapRec) (deferred : Bool) : WaveRegs :=
  { r with
    tpc := pcWord r.pc, tem := r.em, em := live, priv := true, progcnt := 0,
    tcode := tcodeWord t deferred, tinfo := t.info, pc := BitVec.ofNat 18 (hs * 0x10000) }

/-- A wave that stalls no longer. -/
def Wave.awake (w : Wave) (cycle : Nat) : Wave :=
  { w with stall := 0, stallObj := 0, since := cycle, accept := [], ask := none }

/-- Trap entry of the acting wave (R372). What it waited for as PREEMPT takes it is kept: a switch is not an issue
(R355). Checks that it waits for at other ranks are withdrawn (R278). -/
def State.enterTrap (s : State) (t : TrapRec) (deferred : Bool) : State :=
  let w := s.wave
  (s.dropAsk s.cur).setWave { w.awake s.cycle with
    regs := w.regs.enter w.live (s.launchAt w.launch).hs t deferred
    aged := if t.code = 0x3C && decide (w.stall ≠ 0) then some (w.stall, w.stallObj, w.since, w.accept) else w.aged }

/-- A precise or completing trap of the acting wave: deferred on a speculated path (R317), a double
fault in privileged mode (R373), otherwise taken (R372). -/
def State.takeTrap (s : State) (t : TrapRec) : State :=
  let w := s.wave
  match w.spec with
  | some sp => s.setWave { w with
      spec := some { sp with deferred := some t }, stall := 19, stallObj := sp.slot }
  | none =>
    if w.regs.priv then s.removeBlock w.blk s.cur t.code
    else s.enterTrap t false

/-- A 64-bit lane mask as TINFO0 and TINFO1. -/
def maskInfo (m : Mask) : List Word := [loWord m, hiWord m]

/-- A trap with no lane mask: TINFO2 onwards. -/
def mkTrap (code : Nat) (info : List Word) : TrapRec := { code := code, info := 0 :: 0 :: info }

/-- A trap with a lane mask in TINFO0:1. -/
def laneTrap (code : Nat) (m : Mask) (info : List Word) : TrapRec :=
  { code := code, info := maskInfo m ++ info }

/-- A number as a word. -/
def wrd (n : Nat) : Word := BitVec.ofNat 32 n

/-- PROTECTION at a transfer of control, with the address it names. -/
def jumpTrap (t : Word) : TrapRec := mkTrap 0x09 [t, 0, 0xFFFFFFFF#32]

/-- The trap of a wave operation names no lane. -/
def waveTrap (t : TrapRec) : TrapRec := { t with info := 0 :: 0 :: t.info.drop 2 }

/-- The return from a trap (R385): `em` is TEM and the live lanes, privilege 0, pc is TPC. -/
def WaveRegs.leave (r : WaveRegs) (live : Mask) : WaveRegs :=
  { r with em := r.tem &&& live, priv := false, pc := r.tpc.setWidth 18 }

/-! ### Operands -/

/-- An operand that an instruction names: a group of `n` vector or scalar registers from `i`, whether it
is read; `n` tiles or Shelf slots (R47, R48); `fpc`, read for its rounding mode (R88, R427); the wave's own scalar
s(120 + j), read in privileged mode (R387). -/
inductive Opnd where
  | v (i n : Nat) (read : Bool)
  | s (i n : Nat) (read : Bool)
  | tile (i n : Nat)
  | slot (i n : Nat)
  | fpc
  | user (j : Nat)
  deriving DecidableEq, Repr

/-- The number of the register, tile or slot of an operand that the wave does not own or that is
misaligned (R18, R19, R21, R25, R26, R48). -/
def Opnd.bad (w : Wave) : Opnd → Option Nat
  | .v i n _ =>
    if i % n ≠ 0 then some (w.regs.vkey i)
    else if w.regs.priv && decide (120 ≤ i) then none
    else if w.regs.wbase * 8 + i + n ≤ w.nregs then none
    else some (max (w.regs.wbase * 8 + i) w.nregs)
  | .s i n _ => if i % n ≠ 0 then some i else none
  | .tile i n =>
    if i % n ≠ 0 then some i else if i + n ≤ w.ntiles then none else some (max i w.ntiles)
  | .slot i n =>
    if i % n ≠ 0 then some i else if i + n ≤ w.nslots then none else some (max i w.nslots)
  | .fpc => none
  | .user _ => none

/-- The vector register numbers of an operand. -/
def Opnd.keys (r : WaveRegs) : Opnd → List Nat
  | .v i n _ => (List.range n).map fun k => r.vkey (i + k)
  | .s _ _ _ => []
  | .tile _ _ => []
  | .slot _ _ => []
  | .fpc => []
  | .user _ => []

/-- Whether an outstanding load has a destination among the operand's registers (R20). -/
def Opnd.busy (w : Wave) (o : Opnd) : Bool :=
  w.loads.any fun ld => ld.dests.any fun d => (o.keys w.regs).contains d.1

/-- The active lanes of a mask in which a register's element is poisoned. -/
def WaveRegs.poisoned (r : WaveRegs) (keys : List Nat) (m : Mask) : Mask :=
  mkMask fun l => bitOf r.em l && bitOf m l && keys.any fun k => (tfind? r.vpois (k * 64 + l)).isSome

/-- POISON with the lanes that read it and what is recorded with the word (R429, R430). -/
def poisonTrap (m : Mask) (p : PoisonInfo) : TrapRec :=
  { laneTrap 0x38 m [loWord p.addr, hiWord p.addr, p.peer, wrd p.kind] with async := true }

/-- POISON for vector registers read in the lanes of a mask. -/
def WaveRegs.poisonV (r : WaveRegs) (keys : List Nat) (m : Mask) : Option TrapRec :=
  match lanesOf (r.poisoned keys m) with
  | [] => none
  | l :: _ => some (poisonTrap (r.poisoned keys m)
      ((keys.findSome? fun k => tfind? r.vpois (k * 64 + l)).getD {}))

/-- The number under which poisoned words of `fpc` are kept. -/
def fpcKey : Nat := 2048

/-- POISON for an operand that is read (R429, R430). -/
def Opnd.poison (r : WaveRegs) (o : Opnd) : Option TrapRec :=
  match o with
  | .v _ _ true => r.poisonV (o.keys r) r.em
  | .s i n true =>
    ((List.range n).findSome? fun k => tfind? r.spois (r.skey (i + k))).map (poisonTrap 0)
  | .fpc => r.poisonV [fpcKey] r.em
  | .user j => (tfind? r.spois (120 + j)).map (poisonTrap 0)
  | _ => none

/-- The lanes that a trap names (R376). -/
def TrapRec.lanes (t : TrapRec) : Mask := mkMask fun l => (t.info.getD (l / 32) 0).getLsbD (l % 32)

/-- One POISON of several operands (R376, R430): the lanes of all of them, with what is recorded for the lowest of those
lanes, by the first operand that is poisoned there; of scalars, by the first. -/
def joinPoison (ts : List TrapRec) : Option TrapRec :=
  let m := ts.foldl (fun m t => m ||| t.lanes) 0
  let first := match lanesOf m with
    | [] => ts.head?
    | l :: _ => ts.find? fun t => bitOf t.lanes l
  first.map fun t => { t with info := maskInfo m ++ t.info.drop 2 }

/-- POISON for the operands that are read (R429, R430). -/
def poisonOf (r : WaveRegs) (ops : List Opnd) : Option TrapRec := joinPoison (ops.filterMap (Opnd.poison r))

/-! ### Running an instruction -/

/-- What an instruction declares: whether it is privileged, the operands it names, whether it runs under
speculation, the undo-log writes it counts (R317), the system register it names (R376), and its own first-stage
checks with the operands that they read (R486). -/
structure Plan where
  priv   : Bool := false
  ops    : List Opnd := []
  spec   : Bool := true
  writes : Nat := 0
  sysreg : Nat := 0
  keys   : List Opnd := []
  own    : Option TrapRec := none
  deriving DecidableEq, Repr

/-- How an instruction ends: done at the next pc, done at another pc, an effect that leaves it waiting at
its pc, a precise trap, a precise trap with a change outside the wave, a completing trap, a stall with
its reason of R351, or a stop of the machine. -/
inductive Res where
  | done (s : State)
  | jump (s : State) (pc : Pc)
  | stay (s : State) (code obj : Nat)
  | trap (t : TrapRec)
  | trapIn (s : State) (t : TrapRec)
  | after (s : State) (t : TrapRec)
  | wait (code obj : Nat)
  | fault (f : Fault)

/-- The progress counter after an instruction (R304); zero after a return from a trap (R305). -/
def progress (r0 r1 : WaveRegs) (live : Mask) : Nat :=
  if live &&& ~~~r1.em = 0 || (r0.priv && !r1.priv) then 0
  else if r1.em &&& ~~~r0.em &&& live ≠ 0 then 0
  else r1.progcnt + 1

/-- The debugger's step count after an instruction: none left halts the wave (R467). -/
def Wave.stepped (w : Wave) : Wave :=
  match w.steps with
  | none => w
  | some n => if n ≤ 1 then { w with steps := none, halted := true } else { w with steps := some (n - 1) }

/-- The speculation counts after an instruction (R317). -/
def Spec.count (sp : Spec) (writes : Nat) : Spec :=
  { sp with instrs := sp.instrs + 1, writes := sp.writes + writes }

/-- The limit of the watchdog (R304). -/
def WaveRegs.wdLimit (r : WaveRegs) : Nat := 2 ^ (min (max (r.wdctl.toNat % 64) 16) 40)

/-- The progress counter has reached the limit of a watchdog that is enabled (R305). -/
def WaveRegs.watchdogDue (r : WaveRegs) : Bool :=
  decide (r.wdctl.toNat / 64 % 2 = 1) && decide (r.wdLimit ≤ r.progcnt)

/-- WATCHDOG with its trap information (R305, R376). -/
def Wave.watchdogTrap (w : Wave) : TrapRec :=
  { laneTrap 0x1A (w.live &&& ~~~w.regs.em) [pcWord w.regs.pc] with async := true }

/-- A wave whose watchdog may have run out with its last instruction (R305): WATCHDOG is pending from then on, whatever
becomes of the counter (R373); on a speculated path it is deferred (R306). -/
def Wave.watched (w : Wave) : Wave :=
  if w.regs.watchdogDue then
    match w.spec with
    | none =>
      if w.pend.any fun t => t.trap.code = 0x1A then w else { w with pend := w.pend ++ [{ trap := w.watchdogTrap }] }
    | some sp => { w with spec := some { sp with deferred := sp.deferred <|> some w.watchdogTrap } }
  else w

/-- The acting wave gone on from an instruction whose registers were `r0` before it: pc, retired count, progress
counter, speculation counts (R304, R317, R458). -/
def Wave.advance (w : Wave) (r0 : WaveRegs) (cycle writes : Nat) (pc : Pc) : Wave :=
  Wave.stepped { w.awake cycle with
    regs := { w.regs with
      pc := pc, retired := w.regs.retired + 1, progcnt := progress r0 w.regs w.live }
    spec := w.spec.map fun sp => sp.count writes
    aged := if r0.priv then w.aged else none }

/-- The acting wave after an instruction whose registers were `r0` before it, its watchdog looked at (R305). -/
def Wave.retire (w : Wave) (r0 : WaveRegs) (cycle writes : Nat) (pc : Pc) : Wave :=
  (w.advance r0 cycle writes pc).watched

/-- The state after the acting wave's instruction has taken effect. -/
def State.retire (s : State) (r0 : WaveRegs) (writes : Nat) (pc : Pc) : State :=
  s.setWave (s.wave.retire r0 s.cycle writes pc)

/-- The stall reasons of waits at scratchpad lines (R351). -/
def atLine (code : Nat) : Bool := decide (13 ≤ code) && decide (code ≤ 15)

/-- Since when a wave that stalls now has been stalled: a wave that was pre-empted as it waited goes on waiting (R355). -/
def Wave.stalledFrom (w : Wave) (cycle : Nat) : Nat :=
  if w.stall ≠ 0 then w.since
  else if w.regs.priv then cycle
  else (w.aged.map fun x => x.2.2.1).getD cycle

/-- The acting wave waits at its instruction, with the reason and the object (R228, R351, R352). -/
def State.stallWave (s : State) (code obj : Nat) : State :=
  let w := s.wave
  s.setWave { w with
    stall := code, stallObj := obj, accept := if atLine code then w.accept else []
    since := w.stalledFrom s.cycle, aged := if w.regs.priv then w.aged else none }

/-- Waves released at one time go on in an order (R250, R330): an earlier wave of the acting wave's launch waits for the
same, at a reason of R351, and its wait is over. -/
def State.earlierWoken (s : State) (code : Nat) (past : Nat → Wave → Bool) : Bool :=
  s.waves.any fun x => decide (x.1 < s.cur) && decide (x.2.launch = s.wave.launch) && decide (x.2.stall = code) &&
    decide (x.2.life = .resident) && !x.2.halted && past x.1 x.2

/-- The checks of R49 items 2 and 3 on a declared instruction; the instruction word is TINFO2 (R376). -/
def Plan.fault? (p : Plan) (w : Wave) (word : Word) : Option TrapRec :=
  if p.priv && !w.regs.priv then some (mkTrap 0x03 [word, wrd p.sysreg])
  else (p.ops.findSome? (Opnd.bad w)).map fun n => mkTrap 0x02 [word, wrd n]

/-- POISON of operands that are read, outside privileged mode (R373, R429). -/
def Wave.reads (w : Wave) (ops : List Opnd) : Option TrapRec :=
  if w.regs.priv then none else poisonOf w.regs ops

/-- What an outstanding load (R20), then poison (R429), makes of operands. -/
def Wave.awaits (w : Wave) (ops : List Opnd) : Option Res :=
  if ops.any (Opnd.busy w) then some (.wait 5 0) else (w.reads ops).map .trap

/-- What keeps a declared instruction from issuing outside the limits of speculation: a fault of R49; once the
operands that they read are there, its own first-stage checks, before any other wait (R486); an outstanding load
or poison. -/
def Plan.hold? (p : Plan) (w : Wave) (word : Word) : Option Res :=
  match p.fault? w word with
  | some t => some (.trap t)
  | none => ((w.awaits p.keys).or (p.own.map .trap)).or (w.awaits p.ops)

/-- The reason for which a declared instruction stops speculation (R317, R351): a trap that is deferred or an
instruction that does not run there, or a limit. -/
def Plan.stop? (p : Plan) (sp : Spec) : Option Nat :=
  if sp.deferred.isSome || !p.spec then some 19
  else if 48 ≤ sp.instrs || decide (32 < sp.writes + p.writes) then some 20
  else none

/-- What keeps a declared instruction from issuing: a stop or a limit of speculation (R317); then `Plan.hold?`. -/
def Plan.block? (p : Plan) (w : Wave) (word : Word) : Option Res :=
  match w.spec.bind fun sp => (p.stop? sp).map fun c => (c, sp.slot) with
  | some x => some (.wait x.1 x.2)
  | none => p.hold? w word

/-- The reason and the object with which an instruction would wait. -/
def Res.waiting : Res → Option (Nat × Nat)
  | .wait code obj | .stay _ code obj => if code = 0 then none else some (code, obj)
  | .done _ | .jump _ _ | .trap _ | .trapIn _ _ | .after _ _ | .fault _ => none

/-- A wait of which the lowest reason that applies is shown (R351): `r` is what the instruction would come to without
it. -/
def Res.lowest (code obj : Nat) (r : Res) : Res :=
  match r.waiting with
  | some x => if x.1 < code then .wait x.1 x.2 else .wait code obj
  | none => .wait code obj

/-- What keeps an instruction of the acting wave from its own effect, none when nothing does; of a stop of speculation the
lowest reason that applies is shown (R351), unless a trap is deferred. -/
def State.blocked (s : State) (p : Plan) (body : Res) : Option Res :=
  match p.block? s.wave s.fetchWord, s.wave.spec with
  | some (.wait code obj), some sp =>
    some (if sp.deferred.isSome then .wait code obj
      else Res.lowest code obj ((p.hold? s.wave s.fetchWord).getD body))
  | r, _ => r

/-- A wave that holds a POISON met in privileged mode; the first one is held until `tret` (R373, log 53). -/
def Wave.holdPoison (w : Wave) (t : TrapRec) : Wave :=
  if w.pend.any PendTrap.held then w else { w with pend := w.pend ++ [{ trap := t, held := true }] }

/-- An ending of a wave's instruction with a POISON held. -/
def Res.holding (k : Nat) (t : TrapRec) : Res → Res
  | .done s => .done (s.updWave k fun w => w.holdPoison t)
  | .jump s pc => .jump (s.updWave k fun w => w.holdPoison t) pc
  | .stay s code obj => .stay (s.updWave k fun w => w.holdPoison t) code obj
  | .after s u => .after (s.updWave k fun w => w.holdPoison t) u
  | .trap u => .trap u
  | .trapIn s u => .trapIn s u
  | .wait code obj => .wait code obj
  | .fault f => .fault f

/-- POISON of what an instruction reads: raised, or held in privileged mode, where the instruction goes on (R373,
R429). -/
def State.poisonOr (s : State) (t : Option TrapRec) (k : Res) : Res :=
  match t with
  | none => k
  | some t => if s.regs.priv then k.holding s.cur t else .trap t

/-- The state in which the acting wave's instruction ends. A completing trap is not performed on a speculated path, where
it is deferred at its instruction (R317, R318). -/
def State.settle (s : State) (writes : Nat) : Res → Out
  | .done t => .next (t.retire s.regs writes (nextPc s.regs.pc))
  | .jump t pc => .next (t.retire s.regs writes pc)
  | .stay t code obj => .next (t.stallWave code obj)
  | .trap t => .next (s.takeTrap t)
  | .trapIn u t => .next (u.takeTrap t)
  | .after u t =>
    .next (if s.wave.spec.isSome then s.takeTrap t else (u.retire s.regs writes (nextPc s.regs.pc)).takeTrap t)
  | .wait code obj => .next (s.stallWave code obj)
  | .fault f => .fault f

/-- An instruction of the acting wave: the checks of its declaration, then its own effect. -/
def State.run (s : State) (p : Plan) (body : Res) : Out :=
  s.settle p.writes ((s.blocked p body).getD (s.poisonOr (poisonOf s.regs p.ops) body))

/-- An instruction whose effect is a change of the acting wave's registers. -/
def State.runRegs (s : State) (p : Plan) (f : WaveRegs → WaveRegs) : Out :=
  s.run p (.done (s.updRegs f))

/-! ### Synchronising operations -/

/-- The end of the acting wave's region (R197, R198, R207). -/
def State.endRegion (s : State) : State :=
  (s.updRegs fun r => { r with region := r.region + 1 }).retireWave s.cur

/-- The check entries of a wave in the log, in order (R453). -/
def Replay.checks (rp : Replay) (ident : Nat) : List (Nat × Nat × Nat) :=
  rp.log.entries.filterMap fun e =>
    match e.body with
    | .check i n pc => if i = ident then some (e.cycle, n, pc) else none
    | _ => none

/-- The head of an entry with a payload of `n` bytes (R453). -/
def LogEntry.head (e : LogEntry) (n : Nat) : List Byte :=
  leBytes 8 e.cycle ++ leBytes 1 e.gate ++ leBytes 1 e.held.isSome.toNat ++ leBytes 2 n ++ leBytes 4 e.ctx

/-- A payload padded to 16 bytes (R453). -/
def padTo16 (bs : List Byte) : List Byte := bs ++ List.replicate ((16 - bs.length % 16) % 16) 0

/-- Bytes of the ten settings in a launch marker: the spec gives their order alone (R453, log 19). -/
def settingBytes : List Nat := [1, 1, 1, 1, 1, 1, 1, 192, 1536, 48]

/-- A byte of an arrival as its gate received it: the spec gives no layout of a packet, a flit or a frame (R448, log
19). -/
opaque arrivalByte : Arrival → Nat → Byte

/-- Bytes of an arrival (log 19). -/
opaque arrivalSize : Arrival → Nat

/-- The payload of an arrival. -/
def Arrival.payload (a : Arrival) : List Byte := (List.range (arrivalSize a % 2 ^ 16)).map (arrivalByte a)

/-- The payload of an entry (R453). -/
def LogBody.payload : LogBody → List Byte
  | .arrival _ a => a.payload
  | .lost | .host _ _ => []
  | .marker seq settings => leBytes 8 seq ++ (List.zipWith leBytes settingBytes settings).flatten
  | .check ident retired pc => leBytes 4 ident ++ leBytes 4 retired ++ leBytes 4 pc

/-- The bytes of an entry (R453): its head, and its payload unless a context's log holds it (R454). -/
def LogEntry.bytes (e : LogEntry) : List Byte :=
  match e.body with
  | .host _ _ => []
  | .arrival _ _ | .lost | .marker _ _ | .check _ _ _ =>
    e.head e.body.payload.length ++ if e.held.isSome then [] else padTo16 e.body.payload

/-- The replay registers after a REPLAY session has ended (R457). -/
def Replay.finish (rp : Replay) (cause cycle : Nat) : Replay := { rp with mode := 0, cause := cause, ended := some cycle }

/-- The state after a REPLAY session has ended (R457): reads of the host show what it has (log 60). -/
def State.endReplay (s : State) (cause : Nat) : State :=
  { s with rep := s.rep.finish cause s.cycle, hostMem := s.hostLive.getD s.hostMem, hostLive := none }

/-- The state with an entry appended to the log in DDR-5, or the session ended with cause 2 when it is full (R452). -/
def State.appendLog (s : State) (e : LogEntry) : State :=
  let bs := e.bytes
  let rp := s.rep
  if rp.size < rp.used + bs.length then { s with rep := { rp with mode := 0, lost := true, cause := 2 } }
  else
    { s with
      ddr := s.ddr.writeList (rp.log.base + rp.used) bs
      rep := { rp with
        log := { rp.log with entries := rp.log.entries ++ [e], bytes := rp.log.bytes ++ bs }
        used := rp.used + bs.length } }

/-- REPLAY_DIVERGENCE with the trap information of R459. -/
def divergence (word : Word) (logged : Nat × Nat × Nat) (actual reason : Nat) : TrapRec :=
  mkTrap 0x3D [wrd logged.2.1, wrd actual, word, wrd logged.1, wrd logged.2.2, wrd reason]

/-- A divergence of the acting wave ends the session with cause 4 and raises the trap (R458). -/
def State.diverge (s : State) (logged : Nat × Nat × Nat) (actual reason : Nat) : Res :=
  .trapIn (s.endReplay 4)
    (divergence s.fetchWord logged actual reason)

/-- The log with the acting wave's check entry (R453). -/
def State.logCheck (s : State) : State :=
  let w := s.wave
  let n := w.regs.retired.toNat % 2 ^ 32
  s.appendLog
    { cycle := s.cycle, gate := 0xFF, ctx := s.launch.ctx, body := .check w.ident.toNat n w.regs.pc.toNat }

/-- A synchronising operation about to take effect: recorded in RECORD, compared in REPLAY (R458). -/
def State.checkEntry (s : State) (k : State → Res) : Res :=
  let id := s.wave.ident.toNat
  let n := s.wave.regs.retired.toNat % 2 ^ 32
  let pc := s.wave.regs.pc.toNat
  if s.rep.mode = 1 then k s.logCheck
  else if s.rep.mode = 2 then
    let seen := tget s.rep.taken id 0
    match (s.rep.checks id).drop seen with
    | [] => s.diverge (0, 0, 0) n 3
    | e :: _ =>
      if e.2.1 ≠ n then s.diverge e n 0
      else if e.2.2 ≠ pc then s.diverge e n 1
      else if e.1 ≠ s.cycle then s.diverge e n 2
      else k { s with rep := { s.rep with taken := tset s.rep.taken id (seen + 1) } }
  else k s

/-- The answer of a rank to a request, by the identity word of the party and the number of the request, and the
others. -/
def takeAnswer (rank ident seq : Nat) : List Answer → Option (Answer × List Answer)
  | [] => none
  | a :: as =>
    if a.rank = rank && a.ident = ident && a.seq = seq then some (a, as)
    else (takeAnswer rank ident seq as).map fun x => (x.1, a :: x.2)

/-- The state after the acting wave's homes have been told to retire its tags, without those that have done so
(R207). -/
def State.heardEnds (s : State) : State :=
  let s1 := s.tellHomes s.cur
  s1.wave.ending.foldl (fun s r =>
    match takeAnswer r.1 s.wave.ident.toNat r.2 s.answers with
    | none => s
    | some x => ({ s with answers := x.2 } : State).setWave { s.wave with ending := s.wave.ending.erase r }) s1

/-- A synchronising operation (R197): once every home has retired the tags of the region that it closes (R207), its
check entry, then the end of the region, then `k`. -/
def State.sync (s : State) (k : State → Res) : Res :=
  let s1 := s.heardEnds
  if s1.wave.ending.isEmpty then s1.checkEntry fun s => k s.endRegion else .stay s1 24 0

/-! ### Delivery of pending traps -/

/-- The rank of a pending trap in the order of R373; those of a collective are its instruction's own (R322, R323). -/
def PendTrap.rank (t : PendTrap) : Nat :=
  if t.trap.code = 0x21 || t.trap.code = 0x22 then 1
  else if t.trap.code = 0x38 then 2
  else if t.trap.code = 0x30 || t.trap.code = 0x31 then 3
  else if t.trap.code = 0x28 then 4
  else if t.trap.code = 0x20 then 5
  else if t.trap.code = 0x1A then 6
  else 7

/-- The pending traps of POISON and of failed copies, which `wait` delivers (R264, R371). -/
def PendTrap.late (t : PendTrap) : Bool := (decide (t.rank = 2) || decide (t.rank = 3)) && !t.held

/-- The pending traps of failed copies, which an `exit` delivers (R264, R371). -/
def PendTrap.copyError (t : PendTrap) : Bool := decide (t.rank = 3)

/-- The first of the lowest rank among pending traps. -/
def firstRank : List PendTrap → Option PendTrap
  | [] => none
  | t :: ts =>
    match firstRank ts with
    | none => some t
    | some u => if u.rank < t.rank then some u else some t

/-- The pending trap of a set that is delivered now: none in privileged mode or under speculation (R373,
R319). -/
def Wave.deliverable (w : Wave) (p : PendTrap → Bool) : Option PendTrap :=
  if w.regs.priv || w.spec.isSome then none else firstRank (w.pend.filter p)

/-- An instruction at which the pending traps of a set are delivered, with pc at it and not executed
(R371); otherwise `k`. -/
def State.deliverOr (s : State) (p : PendTrap → Bool) (k : Res) : Res :=
  match s.wave.deliverable p with
  | some t => .trapIn (s.setWave { s.wave with pend := s.wave.pend.erase t }) t.trap
  | none => k

end Sys2Proof.Machine
end

