-- ==== Sys2Proof/Machine/Operands.lean ====
section
/-! DEFINITION. Operand forms: packed elements of a lane word (spec/04_integer.md R102), scalar operands
spread over elements (R116), immediates (spec/02_encoding.md R46), and the integer functions of one
element (R108 to R112, R117 to R120). -/

namespace Sys2Proof.Machine

/-! ### Integer functions of one value -/

/-- The number of set bits among the lowest `n`. -/
def popBelow {w : Nat} (x : BitVec w) : Nat → Nat
  | 0 => 0
  | n + 1 => popBelow x n + (x.getLsbD n).toNat

/-- The number of set bits. -/
def popCount {w : Nat} (x : BitVec w) : BitVec w := BitVec.ofNat w (popBelow x w)

/-- Leading zeros among the lowest `n` bits. -/
def clzBelow {w : Nat} (x : BitVec w) : Nat → Nat
  | 0 => 0
  | n + 1 => if x.getLsbD n then 0 else clzBelow x n + 1

/-- Leading zeros; the width for 0. -/
def leadZeros {w : Nat} (x : BitVec w) : BitVec w := BitVec.ofNat w (clzBelow x w)

/-- Trailing zeros from bit `k`, over `n` bits. -/
def ctzFrom {w : Nat} (x : BitVec w) (k : Nat) : Nat → Nat
  | 0 => 0
  | n + 1 => if x.getLsbD k then 0 else ctzFrom x (k + 1) n + 1

/-- Trailing zeros; the width for 0. -/
def trailZeros {w : Nat} (x : BitVec w) : BitVec w := BitVec.ofNat w (ctzFrom x 0 w)

/-- Shift left by the count of all bits of `b` (R109, R118). -/
def shl {w : Nat} (a b : BitVec w) : BitVec w := if w ≤ b.toNat then 0 else a <<< b.toNat

/-- Logical shift right (R109, R118). -/
def shr {w : Nat} (a b : BitVec w) : BitVec w := if w ≤ b.toNat then 0 else a >>> b.toNat

/-- Arithmetic shift right (R109, R118): a count of the width or more gives copies of the sign. -/
def sra {w : Nat} (a b : BitVec w) : BitVec w := a.sshiftRight (min b.toNat w)

/-- The high half of the signed product (R108, R117). -/
def mulHiS {w : Nat} (a b : BitVec w) : BitVec w :=
  ((a.signExtend (2 * w) * b.signExtend (2 * w)) >>> w).setWidth w

/-- The high half of the unsigned product (R108, R117). -/
def mulHiU {w : Nat} (a b : BitVec w) : BitVec w :=
  ((a.setWidth (2 * w) * b.setWidth (2 * w)) >>> w).setWidth w

/-- The smaller, signed. -/
def minS {w : Nat} (a b : BitVec w) : BitVec w := if b.slt a then b else a
/-- The smaller, unsigned. -/
def minU {w : Nat} (a b : BitVec w) : BitVec w := if b.ult a then b else a
/-- The larger, signed. -/
def maxS {w : Nat} (a b : BitVec w) : BitVec w := if a.slt b then b else a
/-- The larger, unsigned. -/
def maxU {w : Nat} (a b : BitVec w) : BitVec w := if a.ult b then b else a

/-- Signed magnitude; the most negative value gives itself (R119). -/
def absS {w : Nat} (a : BitVec w) : BitVec w := if a.slt 0 then 0 - a else a

/-- The bits in reverse order (R119). -/
def bitReverse {w : Nat} (a : BitVec w) : BitVec w := a.reverse

/-! ### Packed elements -/

/-- A lane word with one function applied to each packed element (R102); a 64-bit element is not
packed. -/
def mapWord (sz : ESize) (f : {w : Nat} → BitVec w → BitVec w) (a : Word) : Word :=
  match sz with
  | .b8 => f (a.extractLsb' 24 8) ++ f (a.extractLsb' 16 8) ++ f (a.extractLsb' 8 8) ++
      f (a.extractLsb' 0 8)
  | .b16 => f (a.extractLsb' 16 16) ++ f (a.extractLsb' 0 16)
  | .b32 | .b64 => f a

/-- Two lane words combined element by element (R102). -/
def zipWord (sz : ESize) (f : {w : Nat} → BitVec w → BitVec w → BitVec w) (a b : Word) : Word :=
  match sz with
  | .b8 => f (a.extractLsb' 24 8) (b.extractLsb' 24 8) ++ f (a.extractLsb' 16 8) (b.extractLsb' 16 8)
      ++ f (a.extractLsb' 8 8) (b.extractLsb' 8 8) ++ f (a.extractLsb' 0 8) (b.extractLsb' 0 8)
  | .b16 => f (a.extractLsb' 16 16) (b.extractLsb' 16 16) ++
      f (a.extractLsb' 0 16) (b.extractLsb' 0 16)
  | .b32 | .b64 => f a b

/-- A value spread over every element of a lane word: its low 8 or 16 bits, or the whole (R116). -/
def spread (sz : ESize) (x : Word) : Word :=
  match sz with
  | .b8 => let e := x.setWidth 8; e ++ e ++ e ++ e
  | .b16 => let e := x.setWidth 16; e ++ e
  | .b32 | .b64 => x

/-! ### Register groups -/

/-- Registers of one element: two for size 64 (R102). -/
def regsOf : ESize → Nat
  | .b64 => 2
  | .b8 | .b16 | .b32 => 1

/-- A vector operation of two vectors, element by element, into D (R117). -/
def WaveRegs.vecBin (r : WaveRegs) (sz : ESize) (f : {w : Nat} → BitVec w → BitVec w → BitVec w)
    (d a b : Nat) : WaveRegs :=
  match sz with
  | .b64 => r.putV2 d fun l => f (r.v2 a l) (r.v2 b l)
  | _ => r.putV d fun l => zipWord sz f (lane (r.v a) l) (lane (r.v b) l)

/-- A vector operation of a vector and a scalar (R116). -/
def WaveRegs.vecScal (r : WaveRegs) (sz : ESize) (f : {w : Nat} → BitVec w → BitVec w → BitVec w)
    (d a b : Nat) : WaveRegs :=
  match sz with
  | .b64 => r.putV2 d fun l => f (r.v2 a l) (r.s2 b)
  | _ => r.putV d fun l => zipWord sz f (lane (r.v a) l) (spread sz (r.s b))

/-- A vector operation of a vector and an immediate that is sign-extended to the element (R119). -/
def WaveRegs.vecImm (r : WaveRegs) (sz : ESize) (f : {w : Nat} → BitVec w → BitVec w → BitVec w)
    (d a imm : Nat) : WaveRegs :=
  let x := BitVec.ofNat 7 imm
  match sz with
  | .b64 => r.putV2 d fun l => f (r.v2 a l) (x.signExtend 64)
  | _ => r.putV d fun l => zipWord sz f (lane (r.v a) l) (spread sz (x.signExtend 32))

/-- A vector operation of one vector (R119). -/
def WaveRegs.vecUn (r : WaveRegs) (sz : ESize) (f : {w : Nat} → BitVec w → BitVec w)
    (d a : Nat) : WaveRegs :=
  match sz with
  | .b64 => r.putV2 d fun l => f (r.v2 a l)
  | _ => r.putV d fun l => mapWord sz f (lane (r.v a) l)

/-- `vmad` with a vector B: D plus the product (R117). -/
def WaveRegs.vecMad (r : WaveRegs) (sz : ESize) (d a b : Nat) : WaveRegs :=
  match sz with
  | .b64 => r.putV2 d fun l => r.v2 d l + r.v2 a l * r.v2 b l
  | _ => r.putV d fun l =>
      zipWord sz (· + ·) (lane (r.v d) l) (zipWord sz (· * ·) (lane (r.v a) l) (lane (r.v b) l))

/-- `vmad` with a scalar B (R116, R117). -/
def WaveRegs.vecMadS (r : WaveRegs) (sz : ESize) (d a b : Nat) : WaveRegs :=
  match sz with
  | .b64 => r.putV2 d fun l => r.v2 d l + r.v2 a l * r.s2 b
  | _ => r.putV d fun l =>
      zipWord sz (· + ·) (lane (r.v d) l) (zipWord sz (· * ·) (lane (r.v a) l) (spread sz (r.s b)))

/-! ### Plans of the register forms -/

/-- Three vectors (VINT3, VFP3): D written, A and B read. -/
def planVVV (n d a b : Nat) : Plan :=
  { ops := [.v d n false, .v a n true, .v b n true], writes := n }

/-- D and A vectors, B scalar (VINTS, VFPS). -/
def planVVS (n d a b : Nat) : Plan :=
  { ops := [.v d n false, .v a n true, .s b n true], writes := n }

/-- D and A vectors (VINTI, one-operand VFP3, VSFU). -/
def planVV (n d a : Nat) : Plan := { ops := [.v d n false, .v a n true], writes := n }

/-- Three scalars (SALU3). -/
def planSSS (d a b : Nat) : Plan :=
  { ops := [.s d 1 false, .s a 1 true, .s b 1 true], writes := 1 }

/-- Two scalars (SALUI, one-operand SALU3). -/
def planSS (d a : Nat) : Plan := { ops := [.s d 1 false, .s a 1 true], writes := 1 }

end Sys2Proof.Machine
end

