-- ==== Sys2Proof/Machine/Translate.lean ====
section
/-! DEFINITION. Address translation (spec/16_contexts.md R367 to R370) and the memories behind it. A
physical address is a tier (0 HBM4, 1 DDR-5, 2 host) and an address in it; the host's is the one that it has translated
the I/O address of the table entry to (R392). -/

namespace Sys2Proof.Machine

/-! ### Physical memory -/

/-- Bytes of a tier's memory. -/
def State.readTier (s : State) (tier pa n : Nat) : List Byte :=
  match tier with
  | 0 => s.hbm.readList pa n
  | 1 => s.ddr.readList pa n
  | _ => s.hostMem.readList pa n

/-- The state with bytes of a tier's memory written. -/
def State.writeTier (s : State) (tier pa : Nat) (bs : List Byte) : State :=
  match tier with
  | 0 => { s with hbm := s.hbm.writeList pa bs }
  | 1 => { s with ddr := s.ddr.writeList pa bs }
  | _ => { s with
      hostMem := s.hostMem.writeList pa bs, hostLive := s.hostLive.map fun m => Memory.writeList m pa bs }

/-- Addresses at and above this do not exist in a tier: 576 GiB of HBM4 and 2 TiB of DDR-5
(spec/00_scope.md); the host's memory is not bounded here. -/
def tierSize : Nat → Option Nat
  | 0 => some Config.hbmBytes
  | 1 => some (2 ^ 41)
  | _ => none

/-- Whether `n` bytes at a physical address exist. -/
def exists? (tier pa n : Nat) : Bool :=
  match tierSize tier with
  | none => true
  | some m => decide (pa + n ≤ m)

/-- One number for a physical granule of 32 bytes. -/
def granule (tier pa : Nat) : Nat := tier * 2 ^ 59 + pa / 32

/-- Whether the bytes at a physical address lie in a poisoned granule (R427, R429). -/
def State.poisonAt (s : State) (tier pa : Nat) : Bool := s.poison.contains (granule tier pa)

/-- The state with bytes written by one access at physical addresses; a granule written whole loses its
poison (R429). -/
def State.writeCells (s : State) (cells : List (Nat × Nat × Byte)) : State :=
  let s1 := cells.foldl (fun s c => s.writeTier c.1 c.2.1 [c.2.2]) s
  { s1 with poison := s1.poison.filter fun g =>
      !(List.range 32).all fun k => cells.any fun c => granule c.1 c.2.1 = g && c.2.1 % 32 = k }

/-! ### The walk -/

/-- How a walk ends (R369). -/
inductive Walk where
  | leaf (level entry : Nat)
  | absent
  | bad
  | ats (page : Nat)
  | nowhere (tier addr : Nat)
  deriving DecidableEq, Repr

/-- Bits [55:8] of an entry as an address. -/
def entryAddr (e : Nat) : Nat := e / 2 ^ 8 % 2 ^ 48 * 2 ^ 8

/-- The tier of an entry. -/
def entryTier (e : Nat) : Nat := e / 2 ^ 4 % 4

/-- Bit `k` of an entry. -/
def entryBit (e k : Nat) : Bool := decide (e / 2 ^ k % 2 = 1)

/-- A present entry that is malformed: a reserved bit set, or tier 3 (R367, R369). -/
def entryBad (e : Nat) : Bool := decide (e / 2 ^ 56 ≠ 0) || entryBit e 7 || decide (entryTier e = 3)

/-- The index of an address in a table of a level (R367). -/
def tableIndex (level va : Nat) : Nat :=
  if level = 0 then va / 2 ^ 16 % 32 else va / 2 ^ (12 + 9 * level) % 512

/-- An address of a tier with its place there: the host's I/O address as `look` translates its page. -/
def placeOf (look : Nat → Option Nat) (tier a : Nat) : Option Nat :=
  if tier = 2 then (look (a / 4096)).map fun h => h * 4096 + a % 4096 else some a

/-- The walk from a table of a level downwards (R367, R369), with the host's translations as `look` has them; log 7 says
where tables lie, and an address of a next table that is not aligned to its size stands as it is (log 54). -/
def State.walk (s : State) (look : Nat → Option Nat) (va : Nat) : Nat → Nat → Nat → Walk
  | level, tier, base =>
    let a := base + 8 * tableIndex level va
    match placeOf look tier a with
    | none => .ats (a / 4096)
    | some p =>
    if !exists? tier p 8 then .nowhere tier a
    else
      let e := leNat (s.readTier tier p 8)
      if !entryBit e 0 then .absent
      else if entryBad e then .bad
      else
        match level with
        | 0 => .leaf 0 e
        | l + 1 =>
          if entryBit e 1 then if 2 ≤ l then .bad else .leaf (l + 1) e
          else State.walk s look va l (entryTier e) (entryAddr e)

/-- Bits of a page that a leaf of a level maps: 64 KiB, 2 MiB, 1 GiB (R367). -/
def pageShift : Nat → Nat
  | 0 => 16
  | 1 => 21
  | _ => 30

/-- The TLBs of a core (R368): its L1, then the L2 of its die. What is no core's goes through the I/O die, which has
walkers alone. -/
def State.tlbs (s : State) (core : Nat) : List Nat :=
  match s.physical core with
  | some p => if core < 48 then [p, 1024 + p / 16] else []
  | none => []

/-- Entries of a TLB (R368). -/
def tlbSize (loc : Nat) : Nat := if loc < 1024 then 256 else 16384

/-- The entry of a TLB for an address. -/
def State.tlbHit (s : State) (ctx va loc : Nat) : Option TlbEntry :=
  s.tlb.find? fun t => t.loc = loc && t.ctx = ctx && t.host.isNone && t.page = va / 2 ^ t.shift

/-- An entry for an address of a context's space. -/
def TlbEntry.maps (t : TlbEntry) (ctx va : Nat) : Bool :=
  decide (t.ctx = ctx) && t.host.isNone && decide (t.page = va / 2 ^ t.shift)

/-- Two entries of one TLB for one page. -/
def TlbEntry.alike (t e : TlbEntry) : Bool :=
  decide (t.loc = e.loc) && decide (t.ctx = e.ctx) && decide (t.page = e.page) && decide (t.shift = e.shift) &&
    t.host.isSome == e.host.isSome

/-- The TLBs with an entry put in, in place of one for the same page: a full one replaces one of its entries (R368,
log 9). -/
def putTlb (cycle : Nat) (t0 : List TlbEntry) (e : TlbEntry) : List TlbEntry :=
  let t := t0.filter fun x => !x.alike e
  let mine := t.filter fun x => x.loc = e.loc
  if mine.length < tlbSize e.loc then t ++ [e]
  else
    match mine[Config.tlbVictim cycle % mine.length]? with
    | some v => t.erase v ++ [e]
    | none => t ++ [e]

/-- The state with translations cached. -/
def State.fillTlb (s : State) (es : List TlbEntry) : State := { s with tlb := es.foldl (putTlb s.cycle) s.tlb }

/-- The logical core whose TLBs a party uses; 48 for what goes through the I/O die. -/
def State.coreOf (s : State) : Party → Nat
  | .wave k => (s.waveAt k).core
  | .copy c _ => c
  | .remote _ _ => 48

/-- The entry of a TLB for an I/O page of the host, with the right needed (R392). -/
def State.hostHit (s : State) (ctx page : Nat) (write : Bool) (loc : Nat) : Option TlbEntry :=
  s.tlb.find? fun t => t.loc = loc && t.ctx = ctx && t.page = page && t.host.any fun h => h.2 || !write

/-- The page of the host's memory that an I/O page stands for, as a party knows it: from its TLBs, or from what its
entries of the fault replay buffer have received (R370, R392). -/
def State.hostPage (s : State) (p : Party) (ctx : Nat) (write : Bool) (page : Nat) : Option Nat :=
  (((s.tlbs (s.coreOf p)).findSome? (s.hostHit ctx page write)).bind fun t => t.host.map Prod.fst).or
    (s.frb.findSome? fun e =>
      if e.party = p && decide (e.ctx = ctx) && decide (e.page = page) then
        (e.host.filter fun h => h.2 || !write).map Prod.fst
      else none)

/-- A translation of an I/O page that is cached anywhere: what the service cores go by. -/
def State.anyHostPage (s : State) (ctx page : Nat) : Option Nat :=
  ((s.tlb.find? fun t => t.ctx = ctx && t.page = page && t.host.isSome).bind fun t => t.host.map Prod.fst).or
    (s.frb.findSome? fun e => if e.ctx = ctx && e.page = page then e.host.map Prod.fst else none)

/-- An I/O page of the host goes from the L2 TLB into the L1 that missed. -/
def State.hostFill (s : State) (p : Party) (ctx page : Nat) (write : Bool) : List TlbEntry :=
  let locs := s.tlbs (s.coreOf p)
  let miss := locs.takeWhile fun l => (s.hostHit ctx page write l).isNone
  match locs.findSome? (s.hostHit ctx page write) with
  | some t => miss.map fun l => { t with loc := l }
  | none => []

/-- A leaf for an address: the one cached in the core's TLBs, else the one a walk finds (R368), with what goes into the
TLBs that missed. A migrating page is not cached. -/
def State.findLeaf (s : State) (p : Party) (ctx va : Nat) : Walk × List TlbEntry :=
  let locs := s.tlbs (s.coreOf p)
  let miss := locs.takeWhile fun l => (s.tlbHit ctx va l).isNone
  match locs.findSome? (s.tlbHit ctx va) with
  | some t =>
    (.leaf (if t.shift = 16 then 0 else if t.shift = 21 then 1 else 2) t.leaf.toNat, miss.map fun l => { t with loc := l })
  | none =>
    match s.walk (s.hostPage p ctx false) va 4 0 (s.ctxAt ctx).ptbase.toNat with
    | .leaf l e =>
      (.leaf l e, if entryBit e 6 then [] else
        miss.map fun x => { loc := x, ctx := ctx, page := va / 2 ^ pageShift l, shift := pageShift l,
                            leaf := BitVec.ofNat 64 e })
    | x => (x, [])

/-! ### The outcome for one access -/

/-- The translation of one address (R369): a physical address with the host's I/O page and the page's w bit, a fault, or
a wait for something on a page. -/
inductive XOut where
  | ok (tier pa io : Nat) (w pmem : Bool) (tlb : List TlbEntry)
  | prot
  | ro
  | fail (code : Nat)
  | wait (kind : FrbKind) (page : Nat)
  | nowhere (tier addr : Nat)
  deriving DecidableEq, Repr

/-- A wait, unless the party's own latest entry for it was answered unfavourably. A missing translation of the host is
asked for first, and the failure is that of the page request which follows (R369, R392). -/
def State.waitOr (s : State) (p : Party) (kind : FrbKind) (page : Nat) : XOut :=
  match (s.frb.filterMap fun e =>
      if e.party = p && e.kind = kind && e.page = page then e.answer else none).getLast? with
  | some (false, c) => .fail c
  | _ => .wait (if kind = .pri then .ats else kind) page

/-- The translation of an address for a party (R367 to R369); `priv` says that the access is one of the
private space (R204). -/
def State.translate (s : State) (p : Party) (ctx va : Nat) (write priv : Bool) : XOut :=
  let f := s.findLeaf p ctx va
  match f.1 with
  | .absent => s.waitOr p .service (va / 2 ^ 16)
  | .bad => .prot
  | .ats page => s.waitOr p .pri page
  | .nowhere t a => .nowhere t a
  | .leaf l e =>
    let sh := pageShift l
    let pa := entryAddr e / 2 ^ sh * 2 ^ sh + va % 2 ^ sh
    let tier := entryTier e
    let w := entryBit e 2
    let pmem := entryBit e 3
    if pmem && !priv then .prot
    else if write && !w then .ro
    else if entryBit e 6 then s.waitOr p .mig (va / 2 ^ sh * 2 ^ sh / 2 ^ 16)
    else match placeOf (s.hostPage p ctx write) tier pa with
    | none => s.waitOr p .pri (pa / 4096)
    | some at_ =>
      if !exists? tier at_ 1 then .nowhere tier at_
      else .ok tier at_ (pa / 4096) w pmem (f.2 ++ if tier = 2 then s.hostFill p ctx (pa / 4096) write else [])

/-! ### The fault replay buffer -/

/-- The state without a party's entries of the fault replay buffer. -/
def State.dropFrb (s : State) (p : Party) : State :=
  { s with frb := s.frb.filter fun e => e.party ≠ p }

/-- The state without the entries that an accepted access of a party leaves behind: all of a wave, whose
instruction makes one access; those answered favourably of a party that makes several. -/
def State.dropUsed (s : State) (p : Party) : State :=
  match p with
  | .wave _ => s.dropFrb p
  | .copy _ _ | .remote _ _ =>
    { s with frb := s.frb.filter fun e => e.party ≠ p || e.answer.all fun a => !a.1 }

/-- The entries of a core's buffer from the first that has no answer on: the answers of the later ones do not count
yet, as entries are answered in the order in which they were taken (R370). -/
def State.frbTail (s : State) (core : Nat) : List FrbEntry :=
  (s.frb.filter fun e => e.core = core).dropWhile fun e => e.answer.isSome

/-- Whether some entry of a party is not answered yet. What is no core's has no buffer with an order. -/
def State.frbWaits (s : State) (p : Party) : Bool :=
  s.frb.any fun e => e.party = p &&
    (e.answer.isNone || (decide (e.core < 48) && (s.frbTail e.core).any fun x => x.party = p))

/-- The core's buffer is full, which keeps a memory instruction that has no entry of its own from issuing (R370). -/
def State.frbFull (s : State) (p : Party) (core : Nat) : Bool :=
  match p with
  | .wave _ => decide (256 ≤ (s.frb.filter fun e => e.core = core).length) && !s.frb.any fun e => e.party = p
  | .copy _ _ | .remote _ _ => false

/-- A party that still waits to restart its acceptance. -/
def State.replays (s : State) : Party → Bool
  | .wave k => decide ((s.waveAt k).life = .resident) && decide ((s.waveAt k).stall = 11) && !(s.waveAt k).halted
  | .copy c n => (tget (s.coreAt c).copyq n {}).busy
  | .remote _ _ => false

/-- Another party took its entries of the core's buffer earlier, and all of them are answered: it goes first (R370). -/
def State.replayTurn (s : State) (p : Party) (core : Nat) : Bool :=
  let mine := s.frb.filter fun e => e.core = core
  mine.any (fun e => e.party = p) && decide (core < 48) &&
    (mine.takeWhile fun e => e.party ≠ p).any fun e => s.replays e.party && !s.frbWaits e.party

/-- Whether two entries share one page request (R393). -/
def FrbEntry.shares (e f : FrbEntry) : Bool :=
  decide (e.kind = .pri) && decide (f.kind = .pri) && e.ctx = f.ctx && e.page = f.page

/-- The page requests outstanding: sent and not answered, shared ones counted once. -/
def priCount : List FrbEntry → Nat
  | [] => 0
  | e :: es =>
    priCount es +
      (if e.kind = .pri && e.sent.isSome && e.answer.isNone &&
          !es.any (fun f => e.shares f && f.sent.isSome && f.answer.isNone) then 1 else 0)

/-- Page requests sent in the order in which entries were taken, while fewer than `most` are outstanding
(R393), with the requests that leave; `pasid` gives the PASID of a context. -/
def sendPri (cycle most : Nat) (pasid : Nat → Nat) :
    List FrbEntry → List FrbEntry → List Outgoing → List FrbEntry × List Outgoing
  | done, [], out => (done, out)
  | done, e :: es, out =>
    if e.kind = .pri && e.sent.isNone then
      match (done ++ es).find? fun f => e.shares f && f.sent.isSome && f.answer.isNone with
      | some f => sendPri cycle most pasid (done ++ [{ e with sent := f.sent }]) es out
      | none =>
        if priCount (done ++ es) < most then
          sendPri cycle most pasid (done ++ [{ e with sent := some cycle }]) es
            (out ++ [.pri (pasid e.ctx) e.page e.write])
        else sendPri cycle most pasid (done ++ [e]) es out
    else sendPri cycle most pasid (done ++ [e]) es out

/-- The state with every page request sent that may be: the host's allocation, and never more than 512, bound them
(R392, R393). -/
def State.sendPri (s : State) : State :=
  let r := Machine.sendPri s.cycle (min s.priAlloc 512) (fun c => (s.ctxAt c).pasid) [] s.frb []
  { s with frb := r.1, outbox := s.outbox ++ r.2 }

/-- The request that leaves for what an access waits on: to the service cores, or for a translation of the host, unless
one for the page is on its way (R369, R392). -/
def State.askFor (s : State) (ctx : Nat) (write : Bool) (x : FrbKind × Nat) : Option Outgoing :=
  match x.1 with
  | .service => some (.service ctx x.2)
  | .ats =>
    if s.frb.any fun e => e.kind = .ats && e.ctx = ctx && e.page = x.2 && e.answer.isNone && (e.write || !write) then none
    else some (.ats (s.ctxAt ctx).pasid x.2 write)
  | .pri | .mig => none

/-- An entry of a party that has been answered about what it asks for again. -/
def FrbEntry.again (e : FrbEntry) (p : Party) (xs : List (FrbKind × Nat)) : Bool :=
  decide (e.party = p) && e.answer.isSome && xs.any fun x => x.1 = e.kind && x.2 = e.page

/-- The state with entries taken for what an access waits on (R370): none while the core's buffer of 256 has no room for
all of them. What goes through the I/O die has no such buffer. -/
def State.takeFrb (s : State) (p : Party) (core ctx : Nat) (write : Bool)
    (xs : List (FrbKind × Nat)) : State :=
  let kept := s.frb.filter fun e => !e.again p xs
  let used := (kept.filter fun e => e.core = core).length
  if decide (core < 48) && decide (256 < used + xs.length) then s
  else
    let es : List FrbEntry := xs.map fun x =>
      { party := p, core := core, ctx := ctx, page := x.2, kind := x.1, write := write }
    { s with frb := kept ++ es, outbox := s.outbox ++ xs.filterMap (s.askFor ctx write) }

/-! ### Acceptance of several lanes -/

/-- What the translation of all lanes gives: every place; a fault with the lanes that meet it; a wait; an
address that does not exist. -/
inductive Accept where
  | ok (s : State) (ps : List Place)
  | fail (s : State) (code : Nat) (reqs : List Req) (resp : Nat)
  | wait (s : State)
  | nowhere (tier addr : Nat)

/-- The requests whose outcome satisfies a test. -/
def pick (xs : List (Req × XOut)) (f : XOut → Bool) : List Req :=
  (xs.filter fun x => f x.2).map Prod.fst

/-- Second-stage translation of an access's lanes (R224, R225, R369, R370): faults in their order,
entries of the fault replay buffer for what is waited on, else every lane's place. -/
def State.accept (s : State) (p : Party) (core ctx : Nat) (write priv : Bool) (reqs : List Req) : Accept :=
  if s.frbWaits p || s.frbFull p core || s.replayTurn p core then .wait s
  else
    let xs := reqs.map fun r => (r, s.translate p ctx r.va write priv)
    let s0 := s.dropFrb p
    match xs.findSome? fun x => match x.2 with | .nowhere t a => some (t, a) | _ => none with
    | some (t, a) => .nowhere t a
    | none =>
      let prot := pick xs fun x => decide (x = .prot)
      let ro := pick xs fun x => decide (x = .ro)
      let waits := (xs.filterMap fun x => match x.2 with | .wait k pg => some (k, pg) | _ => none).eraseDups
      let fails := pick xs fun x => match x with | .fail _ => true | _ => false
      if !prot.isEmpty then .fail s0 0x09 prot 0
      else if !ro.isEmpty then .fail s0 0x0A ro 0
      else if !waits.isEmpty then .wait (s.takeFrb p core ctx write waits)
      else if !fails.isEmpty then
        .fail s0 0x08 fails
          ((xs.findSome? fun x => match x.2 with | .fail c => some c | _ => none).getD 0)
      else
        let s1 := s.dropUsed p
        .ok (s1.fillTlb (xs.flatMap fun x => match x.2 with | .ok _ _ _ _ _ t => t | _ => []).eraseDups)
          (xs.filterMap fun x => match x.2 with
            | .ok t pa io w pm _ => some { req := x.1, tier := t, pa := pa, w := w, pmem := pm, io := io }
            | _ => none)

/-- Trap information of a failing access (R376): lanes, address of the lowest, peer, access kind, response
code. -/
def accessTrap (code : Nat) (reqs : List Req) (kind resp : Nat) (peer : Word := 0xFFFFFFFF#32) : TrapRec :=
  let a := match reqs with | [] => 0 | r :: _ => r.va
  laneTrap code (mkMask fun l => reqs.any fun r => r.lane = l)
    [wrd a, wrd (a / 2 ^ 32), peer, wrd kind, wrd resp]

/-- Memory requests of an access: one for each 128-byte line of a tier that it touches (R13, log 55). -/
def requests (ps : List Place) : Nat := ((ps.map fun x => granule x.tier x.pa / 4).eraseDups).length

/-- The memory requests of a core's waves that are outstanding (R13). -/
def State.coreRequests (s : State) (core : Nat) : Nat :=
  s.waves.foldl (fun n x =>
    if x.2.core = core then
      n + (x.2.loads.map PendLoad.reqs).sum + (x.2.stores.map PendStore.reqs).sum
    else n) 0

/-- Room for `n` more among the 2,048 outstanding requests of the acting wave's core (R13), or a wait for it. -/
def State.room (s : State) (n : Nat) (k : Res) : Res :=
  if 2048 < s.coreRequests s.wave.core + n then .wait 12 0 else k

/-- A wave's lanes translated: a trap, a wait in the fault replay buffer (at the vote under speculation,
R317) or for room among the core's outstanding requests (R13), or `k` on the places. -/
def State.accepting (s : State) (kind : Nat) (write priv : Bool) (reqs : List Req)
    (k : State → List Place → Res) (size : List Place → Nat := requests) : Res :=
  match s.accept (.wave s.cur) s.wave.core s.launch.ctx write priv reqs with
  | .nowhere t a => .fault (.noPhysical t a)
  | .fail s1 code rs resp => .trapIn s1 (accessTrap code rs kind resp)
  | .wait s1 =>
    match s.wave.spec with
    | some sp => .wait 19 sp.slot
    | none => .stay s1 11 0
  | .ok s1 ps => s.room (size ps) (k s1 ps)

end Sys2Proof.Machine
end

