-- ==== Sys2Proof/Machine/Tags.lean ====
section
/-! DEFINITION. Race tags of tracked granules (spec/08_memory_model.md R204 to R211) and the L2 records of
the slices through which tracked accesses pass (spec/21_prog_histogram.md R470, R471). -/

namespace Sys2Proof.Machine

/-! ### Access kinds (R376) -/

/-- Plain read. -/
def kRead : Nat := 0
/-- Plain write. -/
def kWrite : Nat := 1
/-- Atomic. -/
def kAtomic : Nat := 2
/-- Acquire load. -/
def kAcquire : Nat := 3
/-- Release store. -/
def kRelease : Nat := 4
/-- Copy read. -/
def kCopyRead : Nat := 5
/-- Copy write. -/
def kCopyWrite : Nat := 6
/-- Arrival or external. -/
def kArrival : Nat := 7
/-- `sfin` or `sclr`. -/
def kFin : Nat := 8

/-! ### Tags -/

/-- What an access meets among the tags of a granule (R208, R209). -/
inductive Clash where
  | conflict (t : Tag)
  | capacity (ts : List Tag)
  deriving DecidableEq, Repr

/-- The tag whose identity word is lowest (R210). -/
def lowestTag : List Tag → Option Tag
  | [] => none
  | t :: ts =>
    match lowestTag ts with
    | none => some t
    | some u => if u.ident.toNat < t.ident.toNat then some u else some t

/-- The live reader tags, in slot order. -/
def Tags.live (t : Tags) : List Tag := t.readers.filterMap id

/-- The check of one access against a granule's tags (R208 to R210). -/
def Tags.check (t : Tags) (p : Party) (kind : Nat) : Option Clash :=
  let foreign := t.live.filter fun r => r.party ≠ p
  match t.writer.filter fun w => w.party ≠ p with
  | some w => some (.conflict w)
  | none =>
    if kind = kRead || kind = kCopyRead then
      let own := (t.writer.any fun w => w.party = p) || decide (foreign.length < t.live.length)
      if !own && decide (3 ≤ foreign.length) then some (.capacity foreign) else none
    else if kind = kAcquire then none
    else (lowestTag foreign).map .conflict

/-- Reader slots with a tag put into the lowest free one (R209). -/
def putReader (g : Tag) : List (Option Tag) → List (Option Tag)
  | [] => [some g]
  | none :: rs => some g :: rs
  | some r :: rs => some r :: putReader g rs

/-- The tags after an access that the check lets pass (R206, R208). -/
def Tags.record (t : Tags) (g : Tag) : Tags :=
  if g.kind = kRead || g.kind = kCopyRead then
    if (t.writer.any fun w => w.party = g.party) || t.live.any (fun r => r.party = g.party) then t
    else { t with readers := putReader g t.readers }
  else if g.kind = kWrite || g.kind = kCopyWrite then { t with writer := some g }
  else t

/-- The key of a granule's tags: a context's tags are never matched against another's (R363). -/
def tagKey (ctx tier pa : Nat) : Nat := ctx * 2 ^ 64 + granule tier pa

/-- An access to a place is tracked (R204). -/
def Place.tracked (x : Place) : Bool := x.w && !x.pmem

/-- The tags that an access meets at a key: the live ones, and those of accesses of other ranks that have passed their
checks here (R205, R278, log 57). -/
def State.tagsAt (s : State) (k : Nat) : Tags :=
  s.reserved.foldl (fun t r =>
    if r.track && r.places.any fun x => x.tracked && decide (tagKey r.ctx x.tier x.pa = k) then t.record r.tag
    else t) (tget s.tags k {})

/-- The first clash of an access's lanes, with every lane that meets the same fault (R210): where lanes meet faults
of both kinds, that of the lowest failing lane is raised (log 54). -/
def State.clash (s : State) (p : Party) (ctx kind : Nat) (ps : List Place) : Option (Clash × List Req) :=
  let hits := ps.filterMap fun x =>
    if x.tracked then ((s.tagsAt (tagKey ctx x.tier x.pa)).check p kind).map fun c => (c, x.req)
    else none
  match hits with
  | [] => none
  | (c, _) :: _ =>
    some (c, (hits.filter fun h =>
      match c, h.1 with
      | .conflict _, .conflict _ => true
      | .capacity _, .capacity _ => true
      | _, _ => false).map Prod.snd)

/-- The trap of a clash (R210, R376). -/
def clashTrap (c : Clash) (reqs : List Req) (kind : Nat) : TrapRec :=
  let a := (match reqs with | [] => 0 | r :: _ => r.va) / 32 * 32
  let m := mkMask fun l => reqs.any fun r => r.lane = l
  match c with
  | .conflict t => laneTrap 0x10 m
      [wrd a, wrd (a / 2 ^ 32), wrd (kind + t.kind * 16), t.ident, t.region]
  | .capacity ts => laneTrap 0x11 m ([wrd a, wrd (a / 2 ^ 32), wrd kind] ++ ts.map Tag.ident)

/-- The state with the tags of an access recorded (R208). -/
def State.recordTags (s : State) (g : Tag) (ctx : Nat) (ps : List Place) : State :=
  { s with tags := ps.foldl (fun t x =>
      if x.tracked then
        let k := tagKey ctx x.tier x.pa
        let e := (tget t k {}).record g
        if e.writer.isSome || !e.readers.isEmpty then tset t k e else t
      else t) s.tags }

/-- The tag of the acting wave's access. -/
def State.waveTag (s : State) (kind : Nat) : Tag :=
  { party := .wave s.cur, ident := s.wave.ident, kind := kind, region := s.regs.region }

/-! ### L2 records -/

/-- The path of a way in a set's tree (R470): each node on it with whether the way lies to its right. -/
def treePath (way : Nat) : List (Nat × Bool) :=
  [(0, decide (8 ≤ way)), (1 + way / 8, decide (way / 4 % 2 = 1)),
   (3 + way / 4, decide (way / 2 % 2 = 1)), (7 + way / 2, decide (way % 2 = 1))]

/-- The tree after a fill or a hit: every bit on the way's path points away from it. -/
def treeTouch (tree way : Nat) : Nat :=
  (treePath way).foldl (fun t n =>
    if n.2 then (if t / 2 ^ n.1 % 2 = 1 then t - 2 ^ n.1 else t)
    else (if t / 2 ^ n.1 % 2 = 1 then t else t + 2 ^ n.1)) tree

/-- The way that a tree points to. -/
def treeWay (tree : Nat) : Nat :=
  let go := fun (n : Nat) => if tree / 2 ^ n % 2 = 1 then 2 * n + 2 else 2 * n + 1
  go (go (go (go 0))) - 15

/-- A line of a set that no way holds gets one, whose fill is pending: the lowest free way, or the tree's (R470). -/
def L2Set.allocate (x : L2Set) (line : Nat) : L2Set :=
  let way := ((List.range 16).find? fun w => (tfind? x.ways w).isNone).getD (treeWay x.tree)
  let old := tget x.ways way line
  { ways := tset x.ways way line, tree := treeTouch x.tree way
    pend := way :: x.pend.filter fun w => w ≠ way, behind := x.behind.filter fun r => r.1 ≠ old }

/-- A set after a granted request for a line (R470), and whether a fill is sent: a hit, a wait behind the pending fill, or
the allocation of a way. -/
def L2Set.request (x : L2Set) (line port : Nat) (fill : Bool) : L2Set × Bool :=
  match x.ways.find? fun e => e.2 = line with
  | some e =>
    if x.pend.contains e.1 then ({ x with behind := x.behind ++ [(line, port)] }, false)
    else ({ x with tree := treeTouch x.tree e.1 }, false)
  | none => if fill then (x.allocate line, true) else (x, false)

/-- A set with a line filled (R470): the requests behind it go on. -/
def L2Set.filled (x : L2Set) (line : Nat) : L2Set :=
  { x with
    pend := x.pend.filter fun w => tget x.ways w 0 ≠ line || (tfind? x.ways w).isNone
    behind := x.behind.filter fun r => r.1 ≠ line }

/-- A set without the lines that satisfy a test. -/
def L2Set.without (x : L2Set) (f : Nat → Bool) : L2Set :=
  { x with
    ways := x.ways.filter fun e => !f e.2
    pend := x.pend.filter fun w => !(tfind? x.ways w).any f
    behind := x.behind.filter fun r => !f r.1 }

/-- An arbiter after it grants a port, of those at which requests are present (R470, R471). -/
def L2Arb.grant (a : L2Arb) (ports : List Nat) (port : Nat) : L2Arb :=
  { cont := (ports.eraseDups.map fun p => 2 ^ p).sum, last := port, ptr := (port + 1) % 16
    gcnt := (a.gcnt + 1) % 2 ^ 16 }

/-- The first request at or after the pointer of an arbiter, in port order with wrap-around (R470). -/
def L2Arb.pick (a : L2Arb) (rs : List L2Req) : Option L2Req :=
  (List.range 16).findSome? fun i => rs.find? fun r => r.port = (a.ptr + i) % 16

/-- The die and port through which a core's requests reach a slice of a die (R340, R470). -/
def State.portOf (s : State) (core die : Nat) : Nat :=
  let e := (tget s.remap core 0).toNat
  if e / 256 % 16 = die then e % 16 else 13

/-- The home slice of a line, of the 192 of the package (R205, R470). -/
def homeSlice (line : Nat) : Nat := Config.homeHash line % 192

/-- The home set of a line, of all the sets of the package. -/
def homeSet (line : Nat) : Nat := homeSlice line * 512 + Config.homeHash line / 192 % 512

/-- A request of a core, or of the I/O die, on its way to the home slice of a line; what the way takes is a free value
(R470; log 9). -/
def State.l2Req (s : State) (core ctx line : Nat) (fill : Bool) : L2Req :=
  { at_ := s.cycle + Config.l2Delay s.cycle line, slice := homeSlice line
    port := if core < 48 then s.portOf core (homeSlice line / 48) else 14, line := line, ctx := ctx, fill := fill }

/-- A place whose line a request goes to the L2 for: of tracked pages always (R205), of others unless an L1 serves it. -/
def State.usesL2 (s : State) (core : Nat) (x : Place) : Bool :=
  (x.w && !x.pmem) || !Config.l1Serves s.cycle core (granule x.tier x.pa / 4)

/-- The state after an access whose requests leave for the L2, one for each line (R470); a streaming access allocates no
line (R231). -/
def State.l2Touch (s : State) (core ctx : Nat) (fill : Bool) (ps : List Place) : State :=
  let lines := ((ps.filter (s.usesL2 core)).map fun x => granule x.tier x.pa / 4).eraseDups
  { s with l2reqs := s.l2reqs ++ lines.map fun l => s.l2Req core ctx l fill }

/-- The state with the fill of a line sent (R470): to the host, or to a memory of the package, whose answer takes a time
that the spec does not give (log 9). -/
def State.sendFill (s : State) (ctx line : Nat) : State :=
  if line / 2 ^ 57 = 2 then
    { s with
      fills := s.fills ++ [{ line := line, ctx := ctx, due := none }]
      outbox := s.outbox ++ [.hostRead (s.ctxAt ctx).pasid line] }
  else { s with fills := s.fills ++ [{ line := line, ctx := ctx, due := some (s.cycle + 1 + Config.fillTime s.cycle line) }] }

/-- The state after a request has been granted (R470). -/
def State.l2Serve (s : State) (r : L2Req) : State :=
  let k := homeSet r.line
  let x := tget s.sets k {}
  if r.own then { s with sets := tset s.sets k (x.filled r.line) }
  else
    let y := x.request r.line r.port r.fill
    let s1 : State := { s with sets := tset s.sets k y.1 }
    if y.2 then s1.sendFill r.ctx r.line else s1

/-- The requests that are at the ports of a slice. -/
def State.l2Here (s : State) (slice : Nat) : List L2Req :=
  s.l2reqs.filter fun r => decide (r.slice = slice) && decide (r.at_ ≤ s.cycle)

/-- One clock of a slice: it grants one request (R470). -/
def State.l2Grant (s : State) (slice : Nat) : State :=
  let here := s.l2Here slice
  let a := tget s.arbs slice {}
  match a.pick here with
  | none => s
  | some r =>
    ({ s with
      l2reqs := s.l2reqs.erase r
      arbs := tset s.arbs slice (a.grant (here.map L2Req.port) r.port) } : State).l2Serve r

/-- The slice's own request for a line that has been filled (R470). -/
def State.ownReq (s : State) (line ctx : Nat) : L2Req :=
  { at_ := s.cycle, slice := homeSlice line, port := 15, line := line, ctx := ctx, fill := false, own := true }

/-- The state in which the fills whose answers are here are at port 15 of their slices. -/
def State.fillsBack (s : State) : State :=
  let here := s.fills.filter fun f => f.due.any fun d => decide (d ≤ s.cycle)
  if here.isEmpty then s
  else { s with
    fills := s.fills.filter fun f => !f.due.any fun d => decide (d ≤ s.cycle)
    l2reqs := s.l2reqs ++ here.map fun f => s.ownReq f.line f.ctx }

/-- One clock of all the slices (R470). -/
def State.l2Clock (s : State) : State :=
  let t := s.fillsBack
  (((t.l2reqs.filter fun r => decide (r.at_ ≤ t.cycle)).map L2Req.slice).eraseDups).foldl State.l2Grant t

/-- The state after the host's completion of the fill of a line, which is at port 15 of the line's slice (R448, R470). -/
def State.completed (s : State) (line : Nat) : State :=
  match s.fills.find? fun f => f.line = line && f.due.isNone with
  | none => s
  | some f => { s with fills := s.fills.erase f, l2reqs := s.l2reqs ++ [s.ownReq f.line f.ctx] }

/-! ### A wave's checked access -/

/-- Whether the acting wave's accesses are checked and tagged (R211). -/
def State.tracks (s : State) : Bool := !s.regs.priv

/-- A plain access meets a granule at which an atomic of another rank has passed its check and is still to be performed
(R278): it waits, so that the atomic comes before the region that the access belongs to (R203, log 57). -/
def State.contends (s : State) (p : Party) (ctx kind : Nat) (ps : List Place) : Bool :=
  (decide (kind ≤ 1) || decide (kind = kCopyRead) || decide (kind = kCopyWrite)) &&
    s.reserved.any fun r => r.track && decide (r.tag.kind = kAtomic) && decide (r.tag.party ≠ p) &&
      r.places.any fun x => x.tracked && ps.any fun y => y.tracked &&
        decide (tagKey r.ctx x.tier x.pa = tagKey ctx y.tier y.pa)

/-- The acting wave's tag check (R208 to R210): a precise trap, or `k`. -/
def State.tagChecked (s : State) (kind : Nat) (ps : List Place) (k : Res) : Res :=
  if s.tracks then
    match s.clash (.wave s.cur) s.launch.ctx kind ps with
    | some (c, rs) => .trapIn s (clashTrap c rs kind)
    | none => if s.contends (.wave s.cur) s.launch.ctx kind ps then .wait 10 0 else k
  else k

/-- The state after the acting wave's accepted access: tags recorded unless it is privileged or under
speculation (R211, R220), and its requests passed to the L2. -/
def State.accessed (s : State) (kind : Nat) (fill : Bool) (ps : List Place) : State :=
  let s1 := if s.tracks && s.wave.spec.isNone then
    s.recordTags (s.waveTag kind) s.launch.ctx ps else s
  s1.l2Touch s1.wave.core s1.launch.ctx fill ps

end Sys2Proof.Machine
end

