-- ==== Sys2Proof/Machine/Access.lean ====
section
/-! DEFINITION. Global loads and stores LDG and STG (spec/09_memory_instr.md R224 to R232), and the shared
operations of every load and store: the first-stage checks, the counters, outstanding loads, held
stores. Accesses are performed when they are accepted (log 5). -/

namespace Sys2Proof.Machine

/-! ### First stage -/

/-- The lanes of a list of accesses as a mask. -/
def reqMask (rs : List Req) : Mask := mkMask fun l => rs.any fun r => r.lane = l

/-- The address of lane `l`: pair B plus the zero-extended offset, modulo 2^64 (R230). -/
def laneAddr (r : WaveRegs) (a b l : Nat) : Nat := ((r.s2 b).toNat + (lane (r.v a) l).toNat) % 2 ^ 64

/-- The accesses of the active lanes, `n` bytes each. -/
def globalReqs (r : WaveRegs) (a b n : Nat) : List Req :=
  (lanesOf r.em).map fun l => { lane := l, va := laneAddr r a b l, n := n }

/-- First-stage checks of global accesses (R486): alignment, then the address range of R29. -/
def firstStage (rs : List Req) (kind : Nat) : Option TrapRec :=
  let mis := rs.filter fun r => r.va % r.n ≠ 0
  let out := rs.filter fun r => 2 ^ 57 ≤ r.va
  if !mis.isEmpty then some (accessTrap 0x0B mis kind 0)
  else if !out.isEmpty then some (accessTrap 0x09 out kind 0)
  else none

/-! ### Counters -/

/-- LD is at its maximum (R32, R34). -/
def Wave.ldFull (w : Wave) : Bool := decide (63 ≤ w.loads.length)
/-- ST is at its maximum (R32, R34). -/
def Wave.stFull (w : Wave) : Bool := decide (31 ≤ w.stores.length)

/-- Whether a pass of a load is still to be answered. -/
def PendLoad.remote (ld : PendLoad) : Bool := !ld.passes.isEmpty
/-- Whether a pass of a store is still to be answered. -/
def PendStore.remote (st : PendStore) : Bool := !st.passes.isEmpty

/-- Some access of the wave is still to be performed at a peer. -/
def Wave.remotePending (w : Wave) : Bool :=
  w.loads.any PendLoad.remote || w.stores.any PendStore.remote

/-- Every earlier access of the wave has been performed at a scope (R231, R246): those at a peer, and from
package scope on every store on ST. -/
def Wave.performedAt (w : Wave) (sc : Scope) : Bool :=
  !w.remotePending &&
    match sc with
    | .wave | .blk => true
    | .pkg | .job | .host => w.stores.isEmpty

/-- A release at a scope: it waits for the wave's earlier accesses (R231), then synchronises (R197). -/
def State.release (s : State) (sc : Scope) (k : State → Res) : Res :=
  if s.wave.performedAt sc then s.sync k else .wait 24 0

/-- A release by `sig`, `tkpass` or a vote (R432): a wave whose earlier access has failed traps first, at the vote, although
R264 and the outcomes of R357 name the `exit` for a failed `rput` (log 54). -/
def State.releaseAll (s : State) (sc : Scope) (k : State → Res) : Res :=
  if s.wave.performedAt sc then s.deliverOr PendTrap.access (s.sync k) else .wait 24 0

/-- What keeps a release from going on to its second stage: earlier accesses still to be performed. -/
def Wave.releaseWait (w : Wave) : Option Scope → Option Res
  | none => none
  | some sc => if w.performedAt sc then none else some (.wait 24 0)

/-- The state with one more operation on ST, with its memory requests. -/
def State.countStore (s : State) (reqs : Nat := 0) : State :=
  s.setWave { s.wave with stores := s.wave.stores ++ [{ reqs := reqs }] }

/-- The state without the package's copies of host lines (R221). -/
def State.dropHost (s : State) : State :=
  { s with sets := tmap (fun _ x => x.without fun l => decide (granule 2 0 / 4 ≤ l)) s.sets }

/-- The state in which an acquire at a scope has taken effect: at host scope the package's copies of host lines are
discarded (R231, R247). -/
def State.acquired (s : State) (sc : Scope) : State := if sc = .host then s.dropHost else s

/-! ### Loads -/

/-- The byte that a held store of the wave writes at a place, the latest one first (R232). -/
def heldByte (held : List HeldStore) (pad : Bool) (tier a : Nat) : Option Byte :=
  held.foldl (fun acc h =>
    if h.pad = pad then
      h.cells.foldl (fun acc c => if c.1 = tier && c.2.1 = a then some c.2.2 else acc) acc
    else acc) none

/-- Bytes read with the wave's own held stores over them. -/
def withHeld (w : Wave) (pad : Bool) (tier a : Nat) (bs : List Byte) : List Byte :=
  match w.spec with
  | none => bs
  | some sp => bs.mapIdx fun i b => (heldByte sp.held pad tier (a + i)).getD b

/-- The value that a load of a wave reads at a place. -/
def State.loadAt (s : State) (x : Place) : Nat :=
  leNat (withHeld s.wave false x.tier x.pa (s.readTier x.tier x.pa x.req.n))

/-- An outstanding load into `n` registers from `d`: what each receives by lane, and the lanes that receive poison. -/
def State.issueLoad (s : State) (d n : Nat) (val : Nat → Nat → Word)
    (bad : Nat → List (Nat × PoisonInfo)) (reqs : Nat := 0) : State :=
  let w := s.wave
  s.setWave { w with
    loads := w.loads ++
      [{ dests := (List.range n).map fun i => (w.regs.vkey (d + i), mkLanes fun l => val i l)
         mask := w.regs.em, reqs := reqs
         pois := (List.range n).flatMap fun i => (bad i).map fun p => (w.regs.vkey (d + i) * 64 + p.1, p.2)
         spec := w.spec.map fun sp => sp.held.length }] }

/-- The poisoned lanes of an access (R429, R430). -/
def State.badLanes (s : State) (kind : Nat) (ps : List Place) : List (Nat × PoisonInfo) :=
  ps.filterMap fun x =>
    if s.poisonAt x.tier x.pa then some (x.req.lane, { addr := BitVec.ofNat 64 x.req.va, kind := kind })
    else none

/-- Tracked loads recorded for validation under speculation (R220), with the values at their homes. -/
def State.trackLoads (s : State) (ps : List Place) : State :=
  s.setWave { s.wave with
    spec := s.wave.spec.map fun sp =>
      { sp with tracked := sp.tracked ++ (ps.filter fun x => x.w && !x.pmem).map fun x =>
          (x, leNat (s.readTier x.tier x.pa x.req.n)) } }

/-- The value of a lane among accesses in lane order. -/
def laneVal (vs : List (Nat × Nat)) (l : Nat) : Nat := ((vs.find? fun v => v.1 = l).map Prod.snd).getD 0

/-- A loaded value extended to its register: sign- or zero-extended to 32 bits, or a pair (R230). -/
def loadWord (sz : ESize) (sign : Bool) (v i : Nat) : Word :=
  match sz with
  | .b8 => if sign then (BitVec.ofNat 8 v).signExtend 32 else wrd (v % 2 ^ 8)
  | .b16 => if sign then (BitVec.ofNat 16 v).signExtend 32 else wrd (v % 2 ^ 16)
  | .b32 => wrd v
  | .b64 => if i = 0 then wrd v else wrd (v / 2 ^ 32)

/-- Bytes of an element. -/
def bytesOf : ESize → Nat
  | .b8 => 1 | .b16 => 2 | .b32 => 4 | .b64 => 8

/-- The end of a checked load: the values of its places go to an outstanding load (R224, log 5). -/
def State.finishLoad (s : State) (sz : ESize) (sign : Bool) (d kind : Nat) (fill : Bool)
    (ps : List Place) : State :=
  let vs := ps.map fun x => (x.req.lane, s.loadAt x)
  let bad := s.badLanes kind ps
  let s1 := ((s.accessed kind fill ps).trackLoads (if s.tracks then ps else []))
  s1.issueLoad d (regsOf sz) (fun i l => loadWord sz sign (laneVal vs l) i) (fun _ => bad) (requests ps)

/-- The order field of an acquire load or release store (R231). -/
def syncScope : MemOrder → Option Scope
  | .sync sc => some sc
  | .plain | .streaming => none

/-- `ldg` (R229 to R231). -/
def execLdg (sz : ESize) (sign : Bool) (ord : MemOrder) (d a b : Nat) (s : State) : Out :=
  let n := regsOf sz
  let acq := (syncScope ord).isSome
  let kind := if acq then kAcquire else kRead
  let rs := globalReqs s.regs a b (bytesOf sz)
  s.run { ops := [.v d n false, .v a 1 true, .s b 2 true], spec := !acq, writes := n,
          keys := [.v a 1 true, .s b 2 true], own := firstStage rs kind }
    (if rs.isEmpty then
       match syncScope ord with
       | some sc => s.sync fun s => .done (s.acquired sc)
       | none => .done s
     else
       if s.wave.ldFull then .wait 8 0
       else s.accepting kind false false rs fun s ps =>
         s.tagChecked kind ps
           (let fin := fun (s : State) => .done (s.finishLoad sz sign d kind (ord ≠ .streaming) ps)
            match syncScope ord with
            | some sc => s.sync fun s => fin (s.acquired sc)
            | none => fin s))

/-! ### Stores -/

/-- The bytes of a store: each place's low bytes, in ascending lane order (R196, R230). -/
def storeCells (ps : List Place) (val : Nat → Nat) : List (Nat × Nat × Byte) :=
  ps.flatMap fun x => (leBytes x.req.n (val x.req.lane)).mapIdx fun i b => (x.tier, x.pa + i, b)

/-- The data of a lane: a register or a pair. -/
def laneData (r : WaveRegs) (n d l : Nat) : Nat :=
  if n = 2 then (r.v2 d l).toNat else (lane (r.v d) l).toNat

/-- The acting wave with a store held under speculation (R220, R227). -/
def Wave.hold (w : Wave) (h : HeldStore) : Wave :=
  { w with spec := w.spec.map fun sp => { sp with held := sp.held ++ [h] } }

/-- The hold buffer has room for one more store instruction (R317). -/
def Wave.holdFull (w : Wave) : Bool :=
  match w.spec with
  | none => false
  | some sp => decide (16 ≤ sp.held.length)

/-- What keeps a store from issuing on its counter, or on the hold buffer under speculation (R34, R220). -/
def Wave.storeWait (w : Wave) : Option Res :=
  match w.spec with
  | some sp => if 16 ≤ sp.held.length then some (.wait 20 sp.slot) else none
  | none => if w.stFull then some (.wait 8 0) else none

/-- A global store performed at its home: tags, bytes, ST (R224, log 5). -/
def State.performStore (s : State) (kind : Nat) (fill : Bool) (ps : List Place)
    (cells : List (Nat × Nat × Byte)) : State :=
  ((s.accessed kind fill ps).writeCells cells).countStore (requests ps)

/-- `stg` (R229 to R231); plain and streaming stores are held under speculation. -/
def execStg (sz : ESize) (ord : MemOrder) (d a b : Nat) (s : State) : Out :=
  let n := regsOf sz
  let rel := syncScope ord
  let kind := if rel.isSome then kRelease else kWrite
  let rs := globalReqs s.regs a b (bytesOf sz)
  s.run { ops := [.v d n true, .v a 1 true, .s b 2 true], spec := rel.isNone,
          keys := [.v a 1 true, .s b 2 true], own := firstStage rs kind }
    (if rs.isEmpty then
       match rel with
       | some sc => s.release sc .done
       | none => .done s
     else
       ((s.wave.storeWait).or (s.wave.releaseWait rel)).getD
         (s.accepting kind true false rs fun s ps =>
           let cells := storeCells ps (laneData s.regs n d)
           if s.wave.spec.isSome then
             .done (s.setWave (s.wave.hold { before := s.regs, cells := cells, places := ps }))
           else s.tagChecked kind ps
             (match rel with
              | some sc => s.release sc fun s => .done (s.performStore kind true ps cells)
              | none => .done (s.performStore kind (ord ≠ .streaming) ps cells))))

end Sys2Proof.Machine
end

