-- ==== Sys2Proof/Machine/Flags.lean ====
section
/-! DEFINITION. Number formats, rounding and flags (spec/03_numbers.md R80 to R101): a float is taken
apart into sign, significand and exponent, an operation is computed exactly on numbers, and one
rounding packs the result and says which flags it raises. -/

namespace Sys2Proof.Machine

/-! ### Flags, in the bit positions of `fpc` (R88) -/

/-- Invalid operation. -/
def flagNV : Nat := 0x100
/-- Division by zero. -/
def flagDZ : Nat := 0x200
/-- Overflow. -/
def flagOF : Nat := 0x400
/-- Underflow. -/
def flagUF : Nat := 0x800
/-- Inexact. -/
def flagIX : Nat := 0x1000
/-- A subnormal input was flushed. -/
def flagDN : Nat := 0x2000

/-- A result: its bits and the flags it raises. -/
structure FRes where
  bits  : Nat
  flags : Nat := 0
  deriving DecidableEq, Repr

/-- A result with more flags. -/
def FRes.or (r : FRes) (f : Nat) : FRes := { r with flags := r.flags ||| f }

/-- Rounding modes (R85). -/
inductive Rnd where | rne | rtz | rup | rdn | rna
  deriving DecidableEq, Repr

/-- The mode of an rm code (R85, R89). -/
def rndOf : Nat → Rnd
  | 1 => .rtz | 2 => .rup | 3 => .rdn | 4 => .rna | _ => .rne

/-- The rounding mode of a lane's `fpc` (R88). -/
def laneRnd (r : WaveRegs) (l : Nat) : Rnd := rndOf ((lane r.fpc l).toNat % 8)

/-! ### Formats -/

/-- How a format uses the exponent of all ones (R81): infinities and NaNs, the one NaN of e4m3, or
normal values only. -/
inductive FStyle where | ieee | e4m3 | finite
  deriving DecidableEq, Repr

/-- A float format (R80): exponent bits, fraction bits, bias, style. -/
structure FFmt where
  ebits : Nat
  mbits : Nat
  bias  : Nat
  style : FStyle := .ieee
  deriving DecidableEq, Repr

/-- f64 (R80). -/
def fmtF64 : FFmt := { ebits := 11, mbits := 52, bias := 1023 }
/-- f32 (R80). -/
def fmtF32 : FFmt := { ebits := 8, mbits := 23, bias := 127 }
/-- e8m10 as 19 bits, without its container's low 13 bits (R80, R81). -/
def fmtE8m10 : FFmt := { ebits := 8, mbits := 10, bias := 127 }
/-- bf16 (R80). -/
def fmtBf16 : FFmt := { ebits := 8, mbits := 7, bias := 127 }
/-- f16 (R80). -/
def fmtF16 : FFmt := { ebits := 5, mbits := 10, bias := 15 }

/-- The format of an element-wise instruction (R50). -/
def fmtOf : EFmt → FFmt
  | .f16 => fmtF16 | .bf16 => fmtBf16 | .f32 => fmtF32 | .f64 => fmtF64

/-- f16 and bf16 flush (R93). -/
def flushes : EFmt → Bool
  | .f16 | .bf16 => true
  | .f32 | .f64 => false

/-- The exponent field. -/
def FFmt.expF (f : FFmt) (b : Nat) : Nat := b / 2 ^ f.mbits % 2 ^ f.ebits
/-- The fraction field. -/
def FFmt.frac (f : FFmt) (b : Nat) : Nat := b % 2 ^ f.mbits
/-- The sign. -/
def FFmt.neg (f : FFmt) (b : Nat) : Bool := b / 2 ^ (f.ebits + f.mbits) % 2 = 1
/-- The sign bit in place. -/
def FFmt.signBits (f : FFmt) (n : Bool) : Nat := if n then 2 ^ (f.ebits + f.mbits) else 0
/-- The exponent field of all ones. -/
def FFmt.ones (f : FFmt) : Nat := 2 ^ f.ebits - 1

/-- A NaN (R81). -/
def FFmt.isNan (f : FFmt) (b : Nat) : Bool :=
  match f.style with
  | .ieee => decide (f.expF b = f.ones ∧ f.frac b ≠ 0)
  | .e4m3 => decide (f.expF b = f.ones ∧ f.frac b = 2 ^ f.mbits - 1)
  | .finite => false

/-- A signalling NaN (R81). -/
def FFmt.isSnan (f : FFmt) (b : Nat) : Bool :=
  match f.style with
  | .ieee => decide (f.expF b = f.ones ∧ f.frac b ≠ 0 ∧ f.frac b < 2 ^ (f.mbits - 1))
  | _ => false

/-- An infinity (R81). -/
def FFmt.isInf (f : FFmt) (b : Nat) : Bool :=
  match f.style with
  | .ieee => decide (f.expF b = f.ones ∧ f.frac b = 0)
  | _ => false

/-- A subnormal: exponent field 0, fraction nonzero (R80). -/
def FFmt.isSub (f : FFmt) (b : Nat) : Bool := decide (f.expF b = 0 ∧ f.frac b ≠ 0)

/-- A zero of either sign. -/
def FFmt.isZero (f : FFmt) (b : Nat) : Bool := decide (f.expF b = 0 ∧ f.frac b = 0)

/-- The integer significand of a finite value. -/
def FFmt.sig (f : FFmt) (b : Nat) : Nat :=
  if f.expF b = 0 then f.frac b else 2 ^ f.mbits + f.frac b

/-- The exponent that the significand is scaled by. -/
def FFmt.scale (f : FFmt) (b : Nat) : Int :=
  (if f.expF b = 0 then (1 : Int) else (f.expF b : Int)) - (f.bias : Int) - (f.mbits : Int)

/-- The default NaN (R82). -/
def FFmt.defNan (f : FFmt) : Nat :=
  match f.style with
  | .e4m3 => f.ones * 2 ^ f.mbits + (2 ^ f.mbits - 1)
  | _ => f.ones * 2 ^ f.mbits + 2 ^ (f.mbits - 1)

/-- A NaN with its most significant fraction bit set (R92). -/
def FFmt.quiet (f : FFmt) (b : Nat) : Nat := b ||| 2 ^ (f.mbits - 1)

/-- An infinity; in e4m3 the NaN of that sign stands in its place (R86). -/
def FFmt.infBits (f : FFmt) (n : Bool) : Nat :=
  match f.style with
  | .e4m3 => f.signBits n + f.defNan
  | _ => f.signBits n + f.ones * 2 ^ f.mbits

/-- The largest finite value of a sign (R80). -/
def FFmt.maxBits (f : FFmt) (n : Bool) : Nat :=
  f.signBits n +
    match f.style with
    | .ieee => (f.ones - 1) * 2 ^ f.mbits + (2 ^ f.mbits - 1)
    | .e4m3 => f.ones * 2 ^ f.mbits + (2 ^ f.mbits - 2)
    | .finite => f.ones * 2 ^ f.mbits + (2 ^ f.mbits - 1)

/-! ### Rounding -/

/-- Number of bits of a number. -/
def bitLen (n : Nat) : Nat := if n = 0 then 0 else n.log2 + 1

/-- What a cut leaves below the last kept unit. -/
inductive Rest where | zero | low | half | high
  deriving DecidableEq, Repr

/-- The whole units of 2^`k` in `n`, and what is left; `sticky` says that the true value lies above
`n` by less than one. -/
def cut (n : Nat) (sticky : Bool) (k : Nat) : Nat × Rest :=
  if k = 0 then (n, if sticky then .low else .zero)
  else if bitLen n + 1 < k then (0, if n = 0 && !sticky then .zero else .low)
  else
    let q := n / 2 ^ k
    let r := n % 2 ^ k
    let h := 2 ^ (k - 1)
    (q, if r = 0 then (if sticky then .low else .zero)
        else if r < h then .low
        else if r = h then (if sticky then .high else .half)
        else .high)

/-- Whether a rounding goes to the next unit (R85). -/
def roundsUp (rm : Rnd) (neg : Bool) (q : Nat) (r : Rest) : Bool :=
  match rm, r with
  | _, .zero => false
  | .rne, .high => true
  | .rne, .half => decide (q % 2 = 1)
  | .rne, .low => false
  | .rtz, _ => false
  | .rup, _ => !neg
  | .rdn, _ => neg
  | .rna, .low => false
  | .rna, _ => true

/-- The magnitude `n`·2^`e` (with `sticky`) in units of 2^`g`, rounded, and whether it was inexact. -/
def roundAt (rm : Rnd) (neg : Bool) (n : Nat) (sticky : Bool) (e g : Int) : Nat × Bool :=
  let c := if g ≤ e then (n * 2 ^ (e - g).toNat, if sticky then Rest.low else Rest.zero)
    else cut n sticky (g - e).toNat
  (if roundsUp rm neg c.1 c.2 then c.1 + 1 else c.1, decide (c.2 ≠ .zero))

/-- The exponent of the leading bit of the largest finite value. -/
def FFmt.emax (f : FFmt) : Int :=
  (match f.style with | .ieee => (f.ones : Int) - 1 | _ => (f.ones : Int)) - f.bias

/-- The result of an overflow (R86): by mode, or the largest value when saturating or when the format has
neither infinity nor NaN (R97). -/
def FFmt.overflow (f : FFmt) (rm : Rnd) (neg sat : Bool) : FRes :=
  let big := match rm with
    | .rne | .rna => true
    | .rtz => false
    | .rup => !neg
    | .rdn => neg
  { bits := if sat || decide (f.style = .finite) || !big then f.maxBits neg else f.infBits neg,
    flags := flagOF ||| flagIX }

/-- The nonzero magnitude `n`·2^`e` (with `sticky`) rounded into a format (R85 to R87): gradual underflow,
or a tiny result flushed to zero (R93). -/
def FFmt.round (f : FFmt) (rm : Rnd) (flush sat neg : Bool) (n : Nat) (e : Int) (sticky : Bool) : FRes :=
  let m : Int := f.mbits
  let top : Int := e + (bitLen n : Int) - 1
  let emin : Int := 1 - (f.bias : Int)
  let y := roundAt rm neg n sticky e (top - m)
  let carry := decide (2 ^ (f.mbits + 1) ≤ y.1)
  let q := if carry then 2 ^ f.mbits else y.1
  let ey := if carry then top + 1 else top
  if ey < emin then
    if flush then { bits := f.signBits neg, flags := flagUF ||| flagIX }
    else
      let z := roundAt rm neg n sticky e (emin - m)
      { bits := f.signBits neg + z.1, flags := if z.2 then flagUF ||| flagIX else 0 }
  else
    let code := (ey + f.bias).toNat * 2 ^ f.mbits + (q - 2 ^ f.mbits)
    if f.emax < ey || decide (f.maxBits false < code) then f.overflow rm neg sat
    else { bits := f.signBits neg + code, flags := if y.2 then flagIX else 0 }

/-- An exact signed number `x`·2^`e` rounded; `zneg` is the sign of an exact zero. -/
def FFmt.roundInt (f : FFmt) (rm : Rnd) (flush sat zneg : Bool) (x : Int) (e : Int) : FRes :=
  if x = 0 then { bits := f.signBits zneg }
  else f.round rm flush sat (decide (x < 0)) x.natAbs e false

/-! ### Exact operations -/

/-- A signed significand. -/
def FFmt.signed (f : FFmt) (b : Nat) : Int := if f.neg b then -(f.sig b : Int) else f.sig b

/-- The sum of `x`·2^`ex` and `y`·2^`ey` in units of the smaller exponent. -/
def addExact (x : Int) (ex : Int) (y : Int) (ey : Int) : Int × Int :=
  let e := if ex ≤ ey then ex else ey
  (x * 2 ^ (ex - e).toNat + y * 2 ^ (ey - e).toNat, e)

/-- Integer square root of `n`, by binary digits from bit `k` down. -/
def isqrtFrom (n : Nat) : Nat → Nat → Nat
  | 0, r => r
  | k + 1, r =>
    let c := r + 2 ^ k
    isqrtFrom n k (if c * c ≤ n then c else r)

/-- Integer square root. -/
def isqrt (n : Nat) : Nat := isqrtFrom n (bitLen n / 2 + 1) 0

/-- The NaN result of an operation on the operands in NaN order (R92): none when no operand is a NaN. -/
def FFmt.nan (f : FFmt) (xs : List Nat) : Option FRes :=
  (xs.find? f.isNan).map fun b =>
    { bits := f.quiet b, flags := if xs.any f.isSnan then flagNV else 0 }

/-- An invalid operation (R92). -/
def FFmt.invalid (f : FFmt) : FRes := { bits := f.defNan, flags := flagNV }

/-- The sign of an exact zero sum (R87). -/
def zeroSign (rm : Rnd) (n1 n2 : Bool) : Bool :=
  if n1 = n2 then n1 else decide (rm = .rdn)

/-- The sum of two values that are no NaN (R87, R147). -/
def FFmt.add (f : FFmt) (rm : Rnd) (flush : Bool) (a b : Nat) : FRes :=
  if f.isInf a then
    if f.isInf b && f.neg a != f.neg b then f.invalid else { bits := a }
  else if f.isInf b then { bits := b }
  else
    let r := addExact (f.signed a) (f.scale a) (f.signed b) (f.scale b)
    f.roundInt rm flush false
      (if f.isZero a && f.isZero b then zeroSign rm (f.neg a) (f.neg b) else decide (rm = .rdn)) r.1 r.2

/-- A value with its sign inverted. -/
def FFmt.negate (f : FFmt) (b : Nat) : Nat := b ^^^ 2 ^ (f.ebits + f.mbits)

/-- The product of two values that are no NaN (R147). -/
def FFmt.mul (f : FFmt) (rm : Rnd) (flush : Bool) (a b : Nat) : FRes :=
  let n := f.neg a != f.neg b
  if f.isInf a || f.isInf b then
    if f.isZero a || f.isZero b then f.invalid else { bits := f.infBits n }
  else
    let p := f.sig a * f.sig b
    if p = 0 then { bits := f.signBits n }
    else f.round rm flush false n p (f.scale a + f.scale b) false

/-- The quotient of two values that are no NaN (R147). -/
def FFmt.div (f : FFmt) (rm : Rnd) (flush : Bool) (a b : Nat) : FRes :=
  let n := f.neg a != f.neg b
  if f.isInf a then if f.isInf b then f.invalid else { bits := f.infBits n }
  else if f.isInf b then { bits := f.signBits n }
  else if f.isZero b then
    if f.isZero a then f.invalid else { bits := f.infBits n, flags := flagDZ }
  else if f.isZero a then { bits := f.signBits n }
  else
    let k := f.mbits + 3 + bitLen (f.sig b)
    let x := f.sig a * 2 ^ k
    f.round rm flush false n (x / f.sig b) (f.scale a - f.scale b - k) (decide (x % f.sig b ≠ 0))

/-- The square root of a value that is no NaN (R147). -/
def FFmt.sqrt (f : FFmt) (rm : Rnd) (flush : Bool) (a : Nat) : FRes :=
  if f.isZero a then { bits := a }
  else if f.neg a then f.invalid
  else if f.isInf a then { bits := a }
  else
    let e := f.scale a
    let odd : Nat := if e % 2 = 0 then 0 else 1
    let k := f.mbits + 3
    let x := f.sig a * 2 ^ (odd + 2 * k)
    let q := isqrt x
    f.round rm flush false false q ((e - odd) / 2 - k) (decide (q * q ≠ x))

/-- The fused product and sum (R153, R154): the product is negated by `np`, the addend by `nd`. The
operands are flushed already; `d` is a NaN only if no other operand is one and the product is
invalid. -/
def FFmt.fma (f : FFmt) (rm : Rnd) (flush np nd : Bool) (a b d : Nat) : FRes :=
  let pn := (f.neg a != f.neg b) != np
  let dn := f.neg d != nd
  let pinf := f.isInf a || f.isInf b
  if pinf && (f.isZero a || f.isZero b) then
    if f.isNan d then { bits := f.quiet d, flags := flagNV } else f.invalid
  else
    match f.nan [a, b, d] with
    | some r => r
    | none =>
      if pinf then
        if f.isInf d && dn != pn then f.invalid else { bits := f.infBits pn }
      else if f.isInf d then { bits := f.infBits dn }
      else
        let p : Int := f.sig a * f.sig b
        let x : Int := f.sig d
        let r := addExact (if pn then -p else p) (f.scale a + f.scale b) (if dn then -x else x) (f.scale d)
        f.roundInt rm flush false
          (if p = 0 && f.isZero d then zeroSign rm pn dn else decide (rm = .rdn)) r.1 r.2

/-- Flushing of an input (R93): the value, and DN. -/
def FFmt.flushIn (f : FFmt) (flush : Bool) (b : Nat) : Nat × Nat :=
  if flush && f.isSub b then (f.signBits (f.neg b), flagDN) else (b, 0)

/-- Numeric order of two values that are no NaN: below, and equal. -/
def FFmt.less (f : FFmt) (a b : Nat) : Bool :=
  if f.isZero a && f.isZero b then false
  else
    let ka : Int := if f.neg a then -((a % 2 ^ (f.ebits + f.mbits) : Nat) : Int) else a
    let kb : Int := if f.neg b then -((b % 2 ^ (f.ebits + f.mbits) : Nat) : Int) else b
    decide (ka < kb)

/-- Equality of two values that are no NaN; the zeros are equal. -/
def FFmt.same (f : FFmt) (a b : Nat) : Bool := (f.isZero a && f.isZero b) || decide (a = b)

/-! ### Lanes -/

/-- An element-wise float operand in a lane (R143). -/
def fval (fm : EFmt) (r : WaveRegs) (i l : Nat) : Nat :=
  match fm with
  | .f16 | .bf16 => (lane (r.v i) l).toNat % 2 ^ 16
  | .f32 => (lane (r.v i) l).toNat
  | .f64 => (r.v2 i l).toNat

/-- A scalar float operand (R143). -/
def fscal (fm : EFmt) (r : WaveRegs) (i : Nat) : Nat :=
  match fm with
  | .f16 | .bf16 => (r.s i).toNat % 2 ^ 16
  | .f32 => (r.s i).toNat
  | .f64 => (r.s2 i).toNat

/-- Registers of a float operand (R143). -/
def fregs : EFmt → Nat
  | .f64 => 2
  | .f16 | .bf16 | .f32 => 1

/-- Flags raised in the active lanes, OR-ed into each lane's `fpc` (R90). -/
def WaveRegs.orFlags (r : WaveRegs) (g : Nat → Nat) : WaveRegs :=
  { r with fpc := mkLanes fun l =>
      if bitOf r.em l then lane r.fpc l ||| BitVec.ofNat 32 (g l) else lane r.fpc l }

/-- A float result in each active lane, with its flags (R90, R143). -/
def WaveRegs.putF (r : WaveRegs) (fm : EFmt) (d : Nat) (f : Nat → FRes) : WaveRegs :=
  let r1 := match fm with
    | .f64 => r.putV2 d fun l => BitVec.ofNat 64 (f l).bits
    | _ => r.putV d fun l => BitVec.ofNat 32 (f l).bits
  r1.orFlags fun l => (f l).flags

/-- The lanes in which NV is raised. -/
def nvLanes (r : WaveRegs) (g : Nat → Nat) : Mask :=
  mkMask fun l => bitOf r.em l && decide (g l / 0x100 % 2 = 1)

/-- How a float instruction ends (R101): FP_INVALID after it when the NV trap is enabled and some active
lane set NV. -/
def State.endFloat (s : State) (r : WaveRegs) (g : Nat → Nat) : Res :=
  let m := nvLanes s.regs g
  if s.regs.trapen.getLsbD 0 && decide (m ≠ 0) then
    .after (s.setRegs r) (laneTrap 0x3E m [pcWord s.regs.pc])
  else .done (s.setRegs r)

end Sys2Proof.Machine
end

