-- ==== Sys2Proof/Machine/Float.lean ====
section
/-! DEFINITION. The element-wise float instructions VFP3, VFPS and VFMA (spec/05_float.md R143 to R154)
and the comparisons VCMP (spec/04_integer.md R121 to R124). -/

namespace Sys2Proof.Machine

/-! ### Operations on one lane -/

/-- An arithmetic operation of two operands: flushing, NaN propagation, then the operation (R92, R93). -/
def fArith (op : FFmt → Rnd → Bool → Nat → Nat → FRes) (fm : EFmt) (rm : Rnd) (a b : Nat) : FRes :=
  let f := fmtOf fm
  let x := f.flushIn (flushes fm) a
  let y := f.flushIn (flushes fm) b
  ((f.nan [x.1, y.1]).getD (op f rm (flushes fm) x.1 y.1)).or (x.2 ||| y.2)

/-- Sum (R147). -/
def fAdd : EFmt → Rnd → Nat → Nat → FRes := fArith FFmt.add
/-- Difference (R147). -/
def fSub : EFmt → Rnd → Nat → Nat → FRes := fArith fun f rm fl a b => f.add rm fl a (f.negate b)
/-- Product (R147). -/
def fMul : EFmt → Rnd → Nat → Nat → FRes := fArith FFmt.mul
/-- Quotient (R147). -/
def fDiv : EFmt → Rnd → Nat → Nat → FRes := fArith FFmt.div

/-- Below, with −0 below +0 (R148). -/
def FFmt.lessZ (f : FFmt) (a b : Nat) : Bool :=
  if f.isZero a && f.isZero b then f.neg a && !f.neg b else f.less a b

/-- Minimum and maximum, and the forms that prefer a number to a NaN (R148). DEDUCED (log 54): a flushed subnormal beside
a NaN sets DN, as R93 has it in every such operation, though the NaN rows of R148's table do not name DN. -/
def fMinMax (big number : Bool) (fm : EFmt) (_ : Rnd) (a b : Nat) : FRes :=
  let f := fmtOf fm
  let x := f.flushIn (flushes fm) a
  let y := f.flushIn (flushes fm) b
  let flags := x.2 ||| y.2 ||| if f.isSnan x.1 || f.isSnan y.1 then flagNV else 0
  let r : Nat :=
    if f.isNan x.1 then
      if f.isNan y.1 || !number then f.quiet x.1 else y.1
    else if f.isNan y.1 then
      if number then x.1 else f.quiet y.1
    else if big then (if f.lessZ x.1 y.1 then y.1 else x.1)
    else if f.lessZ y.1 x.1 then y.1 else x.1
  { bits := r, flags := flags }

/-- The bits of a with the sign of b (R147). -/
def fCopySign (fm : EFmt) (_ : Rnd) (a b : Nat) : FRes :=
  let f := fmtOf fm
  { bits := a % 2 ^ (f.ebits + f.mbits) + f.signBits (f.neg b) }

/-- a · 2^n for the signed 32-bit n (R149). -/
def fScale (fm : EFmt) (rm : Rnd) (a n : Nat) : FRes :=
  let f := fmtOf fm
  let x := f.flushIn (flushes fm) a
  (match f.nan [x.1] with
    | some r => r
    | none =>
      if f.isInf x.1 || f.isZero x.1 then { bits := x.1 }
      else f.round rm (flushes fm) false (f.neg x.1) (f.sig x.1)
        (f.scale x.1 + (BitVec.ofNat 32 n).toInt) false).or x.2

/-- The exact remainder of values that are no NaN (R150). -/
def FFmt.rem (f : FFmt) (rm : Rnd) (flush : Bool) (a b : Nat) : FRes :=
  if f.isInf a || f.isZero b then f.invalid
  else if f.isInf b || f.isZero a then { bits := a }
  else
    let ea := f.scale a
    let eb := f.scale b
    let e := if ea ≤ eb then ea else eb
    let x := f.sig a * 2 ^ (ea - e).toNat
    let y := f.sig b * 2 ^ (eb - e).toNat
    let q := x / y
    let r := x % y
    let up := decide (y < 2 * r) || (decide (2 * r = y) && decide (q % 2 = 1))
    let z : Int := if up then (r : Int) - y else r
    f.roundInt rm flush false (f.neg a) (if f.neg a then -z else z) e

/-- Remainder (R150). -/
def fRem : EFmt → Rnd → Nat → Nat → FRes := fArith FFmt.rem

/-- An arithmetic operation of one operand. -/
def fUnary (op : FFmt → Rnd → Bool → Nat → FRes) (fm : EFmt) (rm : Rnd) (a : Nat) : FRes :=
  let f := fmtOf fm
  let x := f.flushIn (flushes fm) a
  ((f.nan [x.1]).getD (op f rm (flushes fm) x.1)).or x.2

/-- Square root (R147). -/
def fSqrt : EFmt → Rnd → Nat → FRes := fUnary FFmt.sqrt

/-- The bits with sign 0 (R147). -/
def fAbs (fm : EFmt) (_ : Rnd) (a : Nat) : FRes :=
  let f := fmtOf fm
  { bits := a % 2 ^ (f.ebits + f.mbits) }

/-- The bits with the sign inverted (R147). -/
def fNeg (fm : EFmt) (_ : Rnd) (a : Nat) : FRes := { bits := (fmtOf fm).negate a }

/-- Rounding to an integral value (R151). -/
def FFmt.rint (f : FFmt) (rm : Rnd) (a : Nat) : FRes :=
  if f.isInf a || f.isZero a then { bits := a }
  else if (0 : Int) ≤ f.scale a then { bits := a }
  else
    let y := roundAt rm (f.neg a) (f.sig a) false (f.scale a) 0
    let v : FRes :=
      if y.1 = 0 then { bits := f.signBits (f.neg a) }
      else f.round rm false false (f.neg a) y.1 0 false
    v.or (if y.2 then flagIX else 0)

/-- Rounding to an integral value (R151). -/
def fRint : EFmt → Rnd → Nat → FRes := fUnary fun f rm _ a => f.rint rm a

/-- The class word of an unflushed operand (R152). -/
def fClass (fm : EFmt) (a : Nat) : Nat :=
  let f := fmtOf fm
  if f.isNan a then (if f.isSnan a then 2 ^ 8 else 2 ^ 9)
  else if f.isInf a then (if f.neg a then 2 ^ 0 else 2 ^ 7)
  else if f.isZero a then (if f.neg a then 2 ^ 3 else 2 ^ 4)
  else if f.isSub a then (if f.neg a then 2 ^ 2 else 2 ^ 5)
  else if f.neg a then 2 ^ 1 else 2 ^ 6

/-- The fused operation on three operands (R153, R154): flushed, then `FFmt.fma`. -/
def fMad (np nd : Bool) (fm : EFmt) (rm : Rnd) (a b d : Nat) : FRes :=
  let f := fmtOf fm
  let x := f.flushIn (flushes fm) a
  let y := f.flushIn (flushes fm) b
  let z := f.flushIn (flushes fm) d
  let r :=
    if f.isNan x.1 || f.isNan y.1 then (f.nan [x.1, y.1, z.1]).getD f.invalid
    else f.fma rm (flushes fm) np nd x.1 y.1 z.1
  r.or (x.2 ||| y.2 ||| z.2)

/-! ### Instructions -/

/-- A float instruction with a result and flags in each active lane (R144). -/
def State.fpRun (s : State) (p : Plan) (fm : EFmt) (d : Nat) (g : Nat → FRes) : Out :=
  s.run p (s.endFloat (s.regs.putF fm d g) fun l => (g l).flags)

/-- A declaration that also reads `fpc`, for the rounding mode. -/
def Plan.rounds (p : Plan) : Plan := { p with ops := p.ops ++ [.fpc] }

/-- A float instruction of A and a second operand without a rounding. -/
def State.fp2q (s : State) (p : Plan) (fm : EFmt) (d a : Nat) (b : WaveRegs → Nat → Nat)
    (op : EFmt → Rnd → Nat → Nat → FRes) : Out :=
  s.fpRun p fm d fun l => op fm (laneRnd s.regs l) (fval fm s.regs a l) (b s.regs l)

/-- A float instruction of A and a second operand, under each lane's rounding mode (R144). -/
def State.fp2 (s : State) (p : Plan) (fm : EFmt) (d a : Nat) (b : WaveRegs → Nat → Nat)
    (op : EFmt → Rnd → Nat → Nat → FRes) : Out :=
  s.fpRun p.rounds fm d fun l => op fm (laneRnd s.regs l) (fval fm s.regs a l) (b s.regs l)

/-- A float instruction of A alone without a rounding. -/
def State.fp1q (s : State) (fm : EFmt) (d a : Nat) (op : EFmt → Rnd → Nat → FRes) : Out :=
  s.fpRun (planVV (fregs fm) d a) fm d fun l => op fm (laneRnd s.regs l) (fval fm s.regs a l)

/-- A float instruction of A alone (R144). -/
def State.fp1 (s : State) (fm : EFmt) (d a : Nat) (op : EFmt → Rnd → Nat → FRes) : Out :=
  s.fpRun (planVV (fregs fm) d a).rounds fm d fun l => op fm (laneRnd s.regs l) (fval fm s.regs a l)

/-- A VFMA instruction; D is the addend and the destination (R153). -/
def State.fpMad (s : State) (np nd : Bool) (fm : EFmt) (d a b : Nat) : Out :=
  s.fpRun { ops := [.v d (fregs fm) true, .v a (fregs fm) true, .v b (fregs fm) true, .fpc],
            writes := fregs fm } fm d fun l =>
    fMad np nd fm (laneRnd s.regs l) (fval fm s.regs a l) (fval fm s.regs b l) (fval fm s.regs d l)

/-- `fadd`: the sum (R147). -/
def execFadd (fm : EFmt) (d a b : Nat) (s : State) : Out :=
  s.fp2 (planVVV (fregs fm) d a b) fm d a (fun r l => fval fm r b l) (fAdd)

/-- `fsub`: the difference (R147). -/
def execFsub (fm : EFmt) (d a b : Nat) (s : State) : Out :=
  s.fp2 (planVVV (fregs fm) d a b) fm d a (fun r l => fval fm r b l) (fSub)

/-- `fmul`: the product (R147). -/
def execFmul (fm : EFmt) (d a b : Nat) (s : State) : Out :=
  s.fp2 (planVVV (fregs fm) d a b) fm d a (fun r l => fval fm r b l) (fMul)

/-- `fdiv`: the quotient (R147). -/
def execFdiv (fm : EFmt) (d a b : Nat) (s : State) : Out :=
  s.fp2 (planVVV (fregs fm) d a b) fm d a (fun r l => fval fm r b l) (fDiv)

/-- `fmin`: minimum (R148). -/
def execFmin (fm : EFmt) (d a b : Nat) (s : State) : Out :=
  s.fp2q (planVVV (fregs fm) d a b) fm d a (fun r l => fval fm r b l) (fMinMax false false)

/-- `fmax`: maximum (R148). -/
def execFmax (fm : EFmt) (d a b : Nat) (s : State) : Out :=
  s.fp2q (planVVV (fregs fm) d a b) fm d a (fun r l => fval fm r b l) (fMinMax true false)

/-- `fminn`: minimumNumber (R148). -/
def execFminn (fm : EFmt) (d a b : Nat) (s : State) : Out :=
  s.fp2q (planVVV (fregs fm) d a b) fm d a (fun r l => fval fm r b l) (fMinMax false true)

/-- `fmaxn`: maximumNumber (R148). -/
def execFmaxn (fm : EFmt) (d a b : Nat) (s : State) : Out :=
  s.fp2q (planVVV (fregs fm) d a b) fm d a (fun r l => fval fm r b l) (fMinMax true true)

/-- `fcpys`: a with the sign of b (R147). -/
def execFcpys (fm : EFmt) (d a b : Nat) (s : State) : Out :=
  s.fp2q (planVVV (fregs fm) d a b) fm d a (fun r l => fval fm r b l) (fCopySign)

/-- `frem`: the remainder (R150). -/
def execFrem (fm : EFmt) (d a b : Nat) (s : State) : Out :=
  s.fp2 (planVVV (fregs fm) d a b) fm d a (fun r l => fval fm r b l) (fRem)

/-- `fscale`: a · 2^n for the signed 32-bit n of B (R149). -/
def execFscale (fm : EFmt) (d a b : Nat) (s : State) : Out :=
  s.fp2 { ops := [.v d (fregs fm) false, .v a (fregs fm) true, .v b 1 true], writes := fregs fm } fm d a
    (fun r l => (lane (r.v b) l).toNat) fScale

/-- `fadd` with a scalar B: the sum (R147). -/
def execFaddScalar (fm : EFmt) (d a b : Nat) (s : State) : Out :=
  s.fp2 (planVVS (fregs fm) d a b) fm d a (fun r _ => fscal fm r b) (fAdd)

/-- `fsub` with a scalar B: the difference (R147). -/
def execFsubScalar (fm : EFmt) (d a b : Nat) (s : State) : Out :=
  s.fp2 (planVVS (fregs fm) d a b) fm d a (fun r _ => fscal fm r b) (fSub)

/-- `fmul` with a scalar B: the product (R147). -/
def execFmulScalar (fm : EFmt) (d a b : Nat) (s : State) : Out :=
  s.fp2 (planVVS (fregs fm) d a b) fm d a (fun r _ => fscal fm r b) (fMul)

/-- `fdiv` with a scalar B: the quotient (R147). -/
def execFdivScalar (fm : EFmt) (d a b : Nat) (s : State) : Out :=
  s.fp2 (planVVS (fregs fm) d a b) fm d a (fun r _ => fscal fm r b) (fDiv)

/-- `fmin` with a scalar B: minimum (R148). -/
def execFminScalar (fm : EFmt) (d a b : Nat) (s : State) : Out :=
  s.fp2q (planVVS (fregs fm) d a b) fm d a (fun r _ => fscal fm r b) (fMinMax false false)

/-- `fmax` with a scalar B: maximum (R148). -/
def execFmaxScalar (fm : EFmt) (d a b : Nat) (s : State) : Out :=
  s.fp2q (planVVS (fregs fm) d a b) fm d a (fun r _ => fscal fm r b) (fMinMax true false)

/-- `fminn` with a scalar B: minimumNumber (R148). -/
def execFminnScalar (fm : EFmt) (d a b : Nat) (s : State) : Out :=
  s.fp2q (planVVS (fregs fm) d a b) fm d a (fun r _ => fscal fm r b) (fMinMax false true)

/-- `fmaxn` with a scalar B: maximumNumber (R148). -/
def execFmaxnScalar (fm : EFmt) (d a b : Nat) (s : State) : Out :=
  s.fp2q (planVVS (fregs fm) d a b) fm d a (fun r _ => fscal fm r b) (fMinMax true true)

/-- `fcpys` with a scalar B: a with the sign of b (R147). -/
def execFcpysScalar (fm : EFmt) (d a b : Nat) (s : State) : Out :=
  s.fp2q (planVVS (fregs fm) d a b) fm d a (fun r _ => fscal fm r b) (fCopySign)

/-- `frem` with a scalar B: the remainder (R150). -/
def execFremScalar (fm : EFmt) (d a b : Nat) (s : State) : Out :=
  s.fp2 (planVVS (fregs fm) d a b) fm d a (fun r _ => fscal fm r b) (fRem)

/-- `fscale` with a scalar B: a · 2^n for the signed 32-bit n of B (R149). -/
def execFscaleScalar (fm : EFmt) (d a b : Nat) (s : State) : Out :=
  s.fp2 { ops := [.v d (fregs fm) false, .v a (fregs fm) true, .s b 1 true], writes := fregs fm } fm d a
    (fun r _ => (r.s b).toNat) fScale

/-- `fsqrt`: the square root (R147). -/
def execFsqrt (fm : EFmt) (d a : Nat) (s : State) : Out := s.fp1 fm d a (fSqrt)

/-- `fabs`: a with sign 0 (R147). -/
def execFabs (fm : EFmt) (d a : Nat) (s : State) : Out := s.fp1q fm d a (fAbs)

/-- `fneg`: a with its sign inverted (R147). -/
def execFneg (fm : EFmt) (d a : Nat) (s : State) : Out := s.fp1q fm d a (fNeg)

/-- `frint`: a rounded to an integral value (R151). -/
def execFrint (fm : EFmt) (d a : Nat) (s : State) : Out := s.fp1 fm d a (fRint)

/-- `fclass`: the class word, in a single register of any number (R143, R152). -/
def execFclass (fm : EFmt) (d a : Nat) (s : State) : Out :=
  s.runRegs { ops := [.v d 1 false, .v a (fregs fm) true], writes := 1 } fun r =>
    r.putV d fun l => BitVec.ofNat 32 (fClass fm (fval fm r a l))

/-- `ffma`: a·b + d with one rounding (R153). -/
def execFfma (fm : EFmt) (d a b : Nat) (s : State) : Out := s.fpMad false false fm d a b

/-- `ffms`: a·b − d with one rounding (R153). -/
def execFfms (fm : EFmt) (d a b : Nat) (s : State) : Out := s.fpMad false true fm d a b

/-- `ffnma`: −a·b + d with one rounding (R153). -/
def execFfnma (fm : EFmt) (d a b : Nat) (s : State) : Out := s.fpMad true false fm d a b

/-- `ffnms`: −a·b − d with one rounding (R153). -/
def execFfnms (fm : EFmt) (d a b : Nat) (s : State) : Out := s.fpMad true true fm d a b

/-! ### Comparisons -/

/-- Registers of a comparison operand (R121). -/
def cmpRegs : CmpType → Nat
  | .i64 | .n64 | .f64 => 2
  | .i32 | .n32 | .f16 | .bf16 | .f32 => 1

/-- A condition from below, equal and above. -/
def condHolds (c : Cond) (lt eq : Bool) : Bool :=
  match c with
  | .eq => eq
  | .ne => !eq
  | .lt => lt
  | .le => lt || eq
  | .gt => !(lt || eq)
  | .ge => !lt
  | .uo => false
  | .ord => true

/-- The orderings, for which a quiet NaN raises NV (R123). -/
def condOrders : Cond → Bool
  | .lt | .le | .gt | .ge => true
  | .eq | .ne | .uo | .ord => false

/-- A float comparison in a lane: the condition and the flags (R123, R124). DEDUCED (log 54): a flushed subnormal beside a
NaN sets DN (R93, R124), though the NaN rows of R123's table do not name DN. -/
def fCompare (c : Cond) (fm : EFmt) (a b : Nat) : Bool × Nat :=
  let f := fmtOf fm
  let x := f.flushIn (flushes fm) a
  let y := f.flushIn (flushes fm) b
  let nan := f.isNan x.1 || f.isNan y.1
  let snan := f.isSnan x.1 || f.isSnan y.1
  let dn := x.2 ||| y.2
  if nan then
    (match c with | .ne | .uo => true | _ => false,
     dn ||| if snan || condOrders c then flagNV else 0)
  else (condHolds c (f.less x.1 y.1) (f.same x.1 y.1), dn)

/-- A comparison in lane `l` (R123). -/
def cmpLane (c : Cond) (t : CmpType) (r : WaveRegs) (a b l : Nat) : Bool × Nat :=
  let x := lane (r.v a) l
  let y := lane (r.v b) l
  match t with
  | .i32 => (condHolds c (x.slt y) (decide (x = y)), 0)
  | .n32 => (condHolds c (x.ult y) (decide (x = y)), 0)
  | .i64 => (condHolds c ((r.v2 a l).slt (r.v2 b l)) (decide (r.v2 a l = r.v2 b l)), 0)
  | .n64 => (condHolds c ((r.v2 a l).ult (r.v2 b l)) (decide (r.v2 a l = r.v2 b l)), 0)
  | .f16 => fCompare c .f16 (fval .f16 r a l) (fval .f16 r b l)
  | .bf16 => fCompare c .bf16 (fval .bf16 r a l) (fval .bf16 r b l)
  | .f32 => fCompare c .f32 (fval .f32 r a l) (fval .f32 r b l)
  | .f64 => fCompare c .f64 (fval .f64 r a l) (fval .f64 r b l)

/-- `vcmp`: the mask of the active lanes for which the condition holds, into a scalar pair (R121 to
R124). -/
def execVcmp (cond : Cond) (ty : CmpType) (d a b : Nat) (s : State) : Out :=
  let r := s.regs
  let g := cmpLane cond ty r a b
  s.run { ops := [.s d 2 false, .v a (cmpRegs ty) true, .v b (cmpRegs ty) true], writes := 2 }
    (s.endFloat
      ((r.putS2 d (mkMask fun l => bitOf r.em l && (g l).1)).orFlags fun l => (g l).2)
      fun l => (g l).2)

end Sys2Proof.Machine
end

