-- ==== Sys2Proof/Machine/Convert.lean ====
section
/-! DEFINITION. Conversions: the formats of spec/03_numbers.md R80 and R83, the conversion function of R95
to R98, and VCVT (spec/05_float.md R155 to R159). -/

namespace Sys2Proof.Machine

/-- The float format of a format index (R80); for an integer format, one that is not used. -/
def fmtM : MFmt → FFmt
  | .f64 => fmtF64 | .f32 => fmtF32 | .e8m10 => fmtE8m10 | .bf16 => fmtBf16 | .f16 => fmtF16
  | .e5m2 => { ebits := 5, mbits := 2, bias := 15 }
  | .e4m3 => { ebits := 4, mbits := 3, bias := 7, style := .e4m3 }
  | .e4m3f => { ebits := 4, mbits := 3, bias := 7, style := .finite }
  | .e3m4 => { ebits := 3, mbits := 4, bias := 3, style := .finite }
  | .e2m5 => { ebits := 2, mbits := 5, bias := 1, style := .finite }
  | .e3m2 => { ebits := 3, mbits := 2, bias := 3, style := .finite }
  | .e2m3 => { ebits := 2, mbits := 3, bias := 1, style := .finite }
  | .e2m1 => { ebits := 2, mbits := 1, bias := 1, style := .finite }
  | .i16 | .n16 | .i8 | .n8 | .i4 | .n4 | .i2 | .n2 | .t2 | .b1 | .n1 => fmtF32

/-- One side of a conversion pair (R156): a float format, or an integer of a signedness and width. -/
inductive CvtSide where
  | flt (m : MFmt)
  | int (signed : Bool) (bits : Nat)
  deriving DecidableEq, Repr

/-- Destination and source of each pair of R156. -/
def cvtPair : Nat → CvtSide × CvtSide
  | 0 => (.flt .f32, .flt .f64) | 1 => (.flt .f64, .flt .f32)
  | 2 => (.flt .f16, .flt .f32) | 3 => (.flt .f32, .flt .f16)
  | 4 => (.flt .bf16, .flt .f32) | 5 => (.flt .f32, .flt .bf16)
  | 6 => (.flt .f16, .flt .f64) | 7 => (.flt .f64, .flt .f16)
  | 8 => (.flt .bf16, .flt .f64) | 9 => (.flt .f64, .flt .bf16)
  | 10 => (.flt .bf16, .flt .f16) | 11 => (.flt .f16, .flt .bf16)
  | 12 => (.flt .e8m10, .flt .f32) | 13 => (.flt .f32, .flt .e8m10)
  | 14 => (.flt .e5m2, .flt .f32) | 15 => (.flt .f32, .flt .e5m2)
  | 16 => (.flt .e4m3, .flt .f32) | 17 => (.flt .f32, .flt .e4m3)
  | 18 => (.flt .e4m3f, .flt .f32) | 19 => (.flt .f32, .flt .e4m3f)
  | 20 => (.flt .e3m4, .flt .f32) | 21 => (.flt .f32, .flt .e3m4)
  | 22 => (.flt .e2m5, .flt .f32) | 23 => (.flt .f32, .flt .e2m5)
  | 24 => (.flt .e3m2, .flt .f32) | 25 => (.flt .f32, .flt .e3m2)
  | 26 => (.flt .e2m3, .flt .f32) | 27 => (.flt .f32, .flt .e2m3)
  | 28 => (.flt .e2m1, .flt .f32) | 29 => (.flt .f32, .flt .e2m1)
  | 30 => (.int true 32, .flt .f32) | 31 => (.flt .f32, .int true 32)
  | 32 => (.int false 32, .flt .f32) | 33 => (.flt .f32, .int false 32)
  | 34 => (.int true 64, .flt .f32) | 35 => (.flt .f32, .int true 64)
  | 36 => (.int false 64, .flt .f32) | 37 => (.flt .f32, .int false 64)
  | 38 => (.int true 32, .flt .f64) | 39 => (.flt .f64, .int true 32)
  | 40 => (.int false 32, .flt .f64) | 41 => (.flt .f64, .int false 32)
  | 42 => (.int true 64, .flt .f64) | 43 => (.flt .f64, .int true 64)
  | 44 => (.int false 64, .flt .f64) | 45 => (.flt .f64, .int false 64)
  | 46 => (.int true 16, .flt .f32) | 47 => (.flt .f32, .int true 16)
  | 48 => (.int false 16, .flt .f32) | 49 => (.flt .f32, .int false 16)
  | 50 => (.int true 8, .flt .f32) | 51 => (.flt .f32, .int true 8)
  | 52 => (.int false 8, .flt .f32) | 53 => (.flt .f32, .int false 8)
  | 54 => (.int true 4, .flt .f32) | 55 => (.flt .f32, .int true 4)
  | 56 => (.int false 4, .flt .f32) | 57 => (.flt .f32, .int false 4)
  | 58 => (.int true 16, .int true 32) | 59 => (.int false 16, .int true 32)
  | 60 => (.int true 8, .int true 32) | 61 => (.int false 8, .int true 32)
  | 62 => (.int false 16, .int false 32) | _ => (.int false 8, .int false 32)

/-- Width of a format's element in bits (R80, R83); e8m10 fills a 32-bit container. -/
def mfmtBits : MFmt → Nat
  | .f64 => 64 | .f32 | .e8m10 => 32 | .bf16 | .f16 | .i16 | .n16 => 16
  | .e5m2 | .e4m3 | .e4m3f | .e3m4 | .e2m5 | .i8 | .n8 => 8
  | .e3m2 | .e2m3 => 6 | .e2m1 | .i4 | .n4 => 4 | .i2 | .n2 | .t2 => 2 | .b1 | .n1 => 1

/-- Width of a side's element. -/
def sideBits : CvtSide → Nat
  | .flt m => mfmtBits m
  | .int _ n => n

/-- Container of a side's element in bits (R84): 6-bit elements lie in bytes. -/
def container (sd : CvtSide) : Nat := if sideBits sd = 6 then 8 else sideBits sd

/-- The element of a side from the bits of its container; the low 13 bits of e8m10 are ignored (R81). -/
def fromContainer (sd : CvtSide) (b : Nat) : Nat :=
  match sd with
  | .flt .e8m10 => b / 2 ^ 13 % 2 ^ 19
  | _ => b % 2 ^ sideBits sd

/-- The bits of the container that hold an element (R81, R84). -/
def toContainer (sd : CvtSide) (b : Nat) : Nat :=
  match sd with
  | .flt .e8m10 => b * 2 ^ 13
  | _ => b

/-- A NaN converted between formats (R96, R97). -/
def nanTo (src dst : FFmt) (b : Nat) : FRes :=
  let nv := if src.isSnan b then flagNV else 0
  let n := dst.signBits (src.neg b)
  match dst.style with
  | .ieee =>
    let fr := if src.mbits ≤ dst.mbits then src.frac b * 2 ^ (dst.mbits - src.mbits)
      else src.frac b / 2 ^ (src.mbits - dst.mbits)
    { bits := n + dst.quiet (dst.ones * 2 ^ dst.mbits + fr), flags := nv }
  | .e4m3 => { bits := n + dst.defNan, flags := nv }
  | .finite => { bits := 0, flags := flagNV }

/-- An infinity converted into a float format (R97). -/
def infTo (dst : FFmt) (sat neg : Bool) : FRes :=
  match dst.style with
  | .ieee =>
    if sat then { bits := dst.maxBits neg, flags := flagOF ||| flagIX } else { bits := dst.infBits neg }
  | .e4m3 =>
    if sat then { bits := dst.maxBits neg, flags := flagOF ||| flagIX }
    else { bits := dst.infBits neg, flags := flagNV }
  | .finite => { bits := dst.maxBits neg, flags := flagNV }

/-- A float converted into a float format (R95 to R97). -/
def floatToFloat (src dst : FFmt) (rm : Rnd) (sat : Bool) (b : Nat) : FRes :=
  if src.isNan b then nanTo src dst b
  else if src.isInf b then infTo dst sat (src.neg b)
  else if src.isZero b then { bits := dst.signBits (src.neg b) }
  else dst.round rm false sat (src.neg b) (src.sig b) (src.scale b) false

/-- An integer clamped to a signedness and width, with NV when it lies outside (R98). -/
def clampInt (signed : Bool) (n : Nat) (x : Int) : FRes :=
  let lo : Int := if signed then -(2 ^ (n - 1)) else 0
  let hi : Int := if signed then 2 ^ (n - 1) - 1 else 2 ^ n - 1
  let y := if x < lo then lo else if hi < x then hi else x
  { bits := (y % 2 ^ n).toNat, flags := if x < lo ∨ hi < x then flagNV else 0 }

/-- A float converted into an integer format (R98). -/
def floatToInt (src : FFmt) (signed : Bool) (n : Nat) (rm : Rnd) (b : Nat) : FRes :=
  if src.isNan b then { bits := 0, flags := flagNV }
  else if src.isInf b then
    clampInt signed n (if src.neg b then -(2 ^ 70) else 2 ^ 70)
  else
    let big := decide ((100 : Int) < src.scale b)
    let y := if big then (2 ^ 100, false) else roundAt rm (src.neg b) (src.sig b) false (src.scale b) 0
    let r := clampInt signed n (if src.neg b then -(y.1 : Int) else y.1)
    if r.flags = 0 && y.2 then { r with flags := flagIX } else r

/-- The value of an integer element. -/
def intVal (signed : Bool) (n b : Nat) : Int := if signed then (BitVec.ofNat n b).toInt else (b : Int)

/-- The conversion function of a pair (R158, R159), from element to element. -/
def convertElem (pair : Nat) (rm : Rnd) (sat : Bool) (b : Nat) : FRes :=
  match cvtPair pair with
  | (.flt d, .flt s) => floatToFloat (fmtM s) (fmtM d) rm sat b
  | (.int g n, .flt s) => floatToInt (fmtM s) g n rm b
  | (.flt d, .int g n) => (fmtM d).roundInt rm false sat false (intVal g n b) 0
  | (.int g n, .int h k) => clampInt g n (intVal h k b)

/-- The rounding mode of VCVT (R52, R158). -/
def cvtRnd (r : CvtRnd) (ln : Rnd) : Rnd :=
  match r with
  | .lane => ln | .rne => .rne | .rtz => .rtz | .rup => .rup | .rdn => .rdn | .rna => .rna

/-- The source element in a lane: a pair, a word, its low half, or a packed element (R158). -/
def cvtSource (r : WaveRegs) (sd : CvtSide) (a l pos : Nat) : Nat :=
  let c := container sd
  if c = 64 then (r.v2 a l).toNat
  else fromContainer sd ((lane (r.v a) l).toNat / 2 ^ (c * pos) % 2 ^ c)

/-- A packed element put into a word; the other bits stay (R158). -/
def putElem (w : Word) (c pos x : Nat) : Word :=
  let m : Word := BitVec.ofNat 32 (2 ^ c - 1) <<< (c * pos)
  (w &&& ~~~m) ||| (BitVec.ofNat 32 x <<< (c * pos))

/-- `vcvt` (R155 to R159). -/
def execVcvt (pair : Nat) (d a : Nat) (rnd : CvtRnd) (sat : Bool) (pos : Nat) (s : State) : Out :=
  let ds := (cvtPair pair).1
  let ss := (cvtPair pair).2
  let r := s.regs
  let nd := if sideBits ds = 64 then 2 else 1
  let na := if sideBits ss = 64 then 2 else 1
  let packed := decide (container ds < 16)
  let g := fun l => convertElem pair (cvtRnd rnd (laneRnd r l)) sat
    (cvtSource r ss a l (if container ss < 16 then pos else 0))
  let r1 :=
    if nd = 2 then r.putV2 d fun l => BitVec.ofNat 64 (g l).bits
    else if packed then r.putV d fun l => putElem (lane (r.v d) l) (container ds) pos (g l).bits
    else r.putV d fun l => BitVec.ofNat 32 (toContainer ds (g l).bits)
  s.run { ops := [.v d nd packed, .v a na true] ++ if rnd = .lane then [.fpc] else [], writes := nd }
    (s.endFloat (r1.orFlags fun l => (g l).flags) fun l => (g l).flags)

end Sys2Proof.Machine
end

