-- ==== Sys2Proof/Machine/Atomics.lean ====
section
/-! DEFINITION. Global atomics ATOM (spec/09_memory_instr.md R233 to R235). -/

namespace Sys2Proof.Machine

/-- The operations of atomics (R234). -/
inductive AOp where
  | add | sub | minI | minN | maxI | maxN | and | or | xor | xchg | cas | inc | dec | fadd32 | fadd64
  deriving DecidableEq, Repr

/-- A float sum of an atomic: RNE with gradual underflow, flags discarded (R234). -/
def atomFadd (f : FFmt) (x y : Nat) : Nat :=
  ((f.nan [x, y]).getD (f.add .rne false x y)).bits

/-- The new value of an integer atomic on `w` bits (R234): `old`, the operand and the swap value of
`cas`. -/
def amoInt {w : Nat} (op : AOp) (old d swap : BitVec w) : BitVec w :=
  match op with
  | .add => old + d
  | .sub => old - d
  | .minI => minS old d
  | .minN => minU old d
  | .maxI => maxS old d
  | .maxN => maxU old d
  | .and => old &&& d
  | .or => old ||| d
  | .xor => old ^^^ d
  | .xchg => d
  | .cas => if old = d then swap else old
  | .inc => if d.ule old then 0 else old + 1
  | .dec => if old = 0 || d.ult old then d else old - 1
  | .fadd32 => BitVec.ofNat w (atomFadd fmtF32 old.toNat d.toNat)
  | .fadd64 => BitVec.ofNat w (atomFadd fmtF64 old.toNat d.toNat)

/-- The new value of an atomic on 4 or 8 bytes. -/
def amo (op : AOp) (wd : AWidth) (old d swap : Nat) : Nat :=
  match wd with
  | .w32 => (amoInt op (BitVec.ofNat 32 old) (BitVec.ofNat 32 d) (BitVec.ofNat 32 swap)).toNat
  | .w64 => (amoInt op (BitVec.ofNat 64 old) (BitVec.ofNat 64 d) (BitVec.ofNat 64 swap)).toNat

/-- Registers of one operand. -/
def widthRegs : AWidth → Nat
  | .w32 => 1
  | .w64 => 2

/-- Registers of the operand group (R233). -/
def amoRegs (op : AOp) (wd : AWidth) : Nat :=
  if op = .cas then 2 * widthRegs wd else widthRegs wd

/-- An operand of a lane: one register or a pair. -/
def amoOperand (r : WaveRegs) (wd : AWidth) (d l : Nat) : Nat := laneData r (widthRegs wd) d l

/-- The state after the lanes' atomics in ascending order, and each lane's old value (R234); a poisoned
granule stays as it is (R429). -/
def State.amoLanes (s : State) (op : AOp) (wd : AWidth) (r : WaveRegs) (d : Nat) :
    List Place → State × List (Nat × Nat)
  | [] => (s, [])
  | x :: xs =>
    let old := leNat (s.readTier x.tier x.pa x.req.n)
    let new := amo op wd old (amoOperand r wd d x.req.lane)
      (amoOperand r wd (d + widthRegs wd) x.req.lane)
    let s1 := if s.poisonAt x.tier x.pa then s else s.writeTier x.tier x.pa (leBytes x.req.n new)
    let y := State.amoLanes s1 op wd r d xs
    (y.1, (x.req.lane, old) :: y.2)

/-- A wave with the failure of an access of its own pending (R264, R429). -/
def Wave.pendAccess (w : Wave) (t : TrapRec) : Wave :=
  { w with pend := w.pend ++ [{ trap := { t with async := true }, access := true }] }

/-- The state with POISON pending for the wave's next `wait` when an atomic without a result, or `sig`,
meets a poisoned granule (R429). -/
def State.pendPoison (s : State) (kind : Nat) (ps : List Place) : State :=
  match ps.filter fun x => s.poisonAt x.tier x.pa with
  | [] => s
  | x :: xs =>
    s.setWave (s.wave.pendAccess (accessTrap 0x38 ((x :: xs).map Place.req) kind 0))

/-- An atomic (R233 to R235): acquire and release at package scope, one step over all lanes. -/
def State.atom (s : State) (op : AOp) (wd : AWidth) (ret : Bool) (d a b : Nat) : Out :=
  let n := amoRegs op wd
  let rs := globalReqs s.regs a b (4 * widthRegs wd)
  s.run { ops := [.v d n true, .v a 1 true, .s b 2 true], spec := false,
          keys := [.v a 1 true, .s b 2 true], own := firstStage rs kAtomic }
    (if !rs.isEmpty && (if ret then s.wave.ldFull else s.wave.stFull) then .wait 8 0
       else if rs.isEmpty then s.release .pkg .done
       else ((s.wave.releaseWait (some .pkg))).getD
         (s.accepting kAtomic true false rs fun s ps =>
           s.tagChecked kAtomic ps (s.release .pkg fun s =>
             let y := (s.accessed kAtomic true ps).amoLanes op wd s.regs d ps
             if ret then
               .done (y.1.issueLoad d (widthRegs wd)
                 (fun i l => wrd (laneVal y.2 l / 2 ^ (32 * i))) (fun _ => s.badLanes kAtomic ps) (requests ps))
             else .done ((y.1.pendPoison kAtomic ps).countStore (requests ps)))))

/-- `atom.add` (R234). -/
def execAtomAdd (wd : AWidth) (ret : Bool) (d a b : Nat) (s : State) : Out :=
  s.atom .add wd ret d a b
/-- `atom.sub` (R234). -/
def execAtomSub (wd : AWidth) (ret : Bool) (d a b : Nat) (s : State) : Out :=
  s.atom .sub wd ret d a b
/-- `atom.min.i` (R234). -/
def execAtomMinI (wd : AWidth) (ret : Bool) (d a b : Nat) (s : State) : Out :=
  s.atom .minI wd ret d a b
/-- `atom.min.n` (R234). -/
def execAtomMinN (wd : AWidth) (ret : Bool) (d a b : Nat) (s : State) : Out :=
  s.atom .minN wd ret d a b
/-- `atom.max.i` (R234). -/
def execAtomMaxI (wd : AWidth) (ret : Bool) (d a b : Nat) (s : State) : Out :=
  s.atom .maxI wd ret d a b
/-- `atom.max.n` (R234). -/
def execAtomMaxN (wd : AWidth) (ret : Bool) (d a b : Nat) (s : State) : Out :=
  s.atom .maxN wd ret d a b
/-- `atom.and` (R234). -/
def execAtomAnd (wd : AWidth) (ret : Bool) (d a b : Nat) (s : State) : Out :=
  s.atom .and wd ret d a b
/-- `atom.or` (R234). -/
def execAtomOr (wd : AWidth) (ret : Bool) (d a b : Nat) (s : State) : Out :=
  s.atom .or wd ret d a b
/-- `atom.xor` (R234). -/
def execAtomXor (wd : AWidth) (ret : Bool) (d a b : Nat) (s : State) : Out :=
  s.atom .xor wd ret d a b
/-- `atom.xchg` (R234). -/
def execAtomXchg (wd : AWidth) (ret : Bool) (d a b : Nat) (s : State) : Out :=
  s.atom .xchg wd ret d a b
/-- `atom.cas` (R234). -/
def execAtomCas (wd : AWidth) (ret : Bool) (d a b : Nat) (s : State) : Out :=
  s.atom .cas wd ret d a b
/-- `atom.inc` (R234). -/
def execAtomInc (wd : AWidth) (ret : Bool) (d a b : Nat) (s : State) : Out :=
  s.atom .inc wd ret d a b
/-- `atom.dec` (R234). -/
def execAtomDec (wd : AWidth) (ret : Bool) (d a b : Nat) (s : State) : Out :=
  s.atom .dec wd ret d a b
/-- `atom.fadd.f32` (R234). -/
def execAtomFaddF32 (ret : Bool) (d a b : Nat) (s : State) : Out :=
  s.atom .fadd32 .w32 ret d a b
/-- `atom.fadd.f64` (R234). -/
def execAtomFaddF64 (ret : Bool) (d a b : Nat) (s : State) : Out :=
  s.atom .fadd64 .w64 ret d a b

end Sys2Proof.Machine
end

