-- ==== Sys2Proof/Machine/Lines.lean ====
section
/-! DEFINITION. Scratchpad line states (spec/08_memory_model.md R213, R214), records of OPEN lines (R215),
arrivals (R216, R217, R487) and the return of a failed transfer's lines (spec/19_recovery.md R433). -/

namespace Sys2Proof.Machine

/-- Line `i` of a block. -/
def Block.line (b : Block) (i : Nat) : Line := tget b.lines i {}

/-- A block with line `i` changed. -/
def Block.setLine (b : Block) (i : Nat) (l : Line) : Block := { b with lines := tset b.lines i l }

/-! ### Line states -/

/-- The events by waves that change line states (R214). -/
inductive LineAct where | read | take | store | sfin | sclr | sopen
  deriving DecidableEq, Repr

/-- A number for an event, kept with a stalled wave. -/
def LineAct.code : LineAct → Nat
  | .read => 0 | .take => 1 | .store => 2 | .sfin => 3 | .sclr => 4 | .sopen => 5

/-- The event of a number. -/
def lineActOf : Nat → LineAct
  | 0 => .read | 1 => .take | 2 => .store | 3 => .sfin | 4 => .sclr | _ => .sopen

/-- Whether a line admits an event (R214). -/
inductive Admit where | go | stall | conflict
  deriving DecidableEq, Repr

/-- The line is FILLING and owned by a party. -/
def Line.fillingBy (l : Line) (o : Owner) : Bool :=
  decide (l.st = .filling) &&
    match l.owner, o with
    | .wave a, .wave b => decide (a = b)
    | .xfer a, .xfer b => decide (a.issuer = b.issuer ∧ a.kind = b.kind)
    | _, _ => false

/-- The columns of R214 for an event by a wave. -/
def Line.verdict (l : Line) (act : LineAct) (w : Nat) : Admit :=
  match l.st with
  | .opened => .go
  | .empty =>
    match act with
    | .read | .take => .stall
    | .store | .sfin | .sclr | .sopen => .go
  | .filling =>
    if l.fillingBy (.wave w) then
      match act with
      | .take => .conflict
      | .read | .store | .sfin | .sclr | .sopen => .go
    else
      match act with
      | .read | .take => .stall
      | .store | .sfin | .sclr | .sopen => .conflict
  | .full =>
    match act with
    | .store | .sfin => .stall
    | .read | .take | .sclr | .sopen => .go

/-- A line in a new state, with no owner and no bytes marked. -/
def Line.toState (l : Line) (st : LineSt) : Line := { l with st := st, owner := .none, mask := 0, wrote := [] }

/-- A line after an admitted event by a wave (R214). -/
def Line.after (l : Line) (act : LineAct) (w : Nat) : Line :=
  match act, l.st with
  | .take, .full => l.toState .empty
  | .store, .empty => { l.toState .filling with owner := .wave w }
  | .sfin, .empty | .sfin, .filling | .sfin, .opened => l.toState .full
  | .sclr, .filling | .sclr, .full | .sclr, .opened => l.toState .empty
  | .sopen, .empty | .sopen, .filling | .sopen, .full => l.toState .opened
  | _, _ => l

/-- What stalls at lines (R214): the events of waves by their codes, 6 a capture, 7 a transfer's read, 8 an arrival, 9 a
line of an `mst`. -/
def Line.lets (l : Line) (code w : Nat) : Bool :=
  if code < 6 then decide (l.verdict (lineActOf code) w ≠ .stall)
  else match l.st with
  | .empty => decide (8 ≤ code)
  | .filling => decide (code = 8)
  | .full => decide (code = 6) || decide (code = 7)
  | .opened => decide (7 ≤ code)

/-- A stall at lines (R214): the cycle at which it began, the lines with their events, the wave. -/
structure LineWait where
  since : Nat
  lines : List (Nat × Nat)
  wave  : Nat := 0
  deriving DecidableEq, Repr

/-- The stalls of a block's waves at lines. -/
def State.waveWaits (s : State) (b : Block) : List LineWait :=
  b.waveKeys.filterMap fun k =>
    let w := s.waveAt k
    if decide (w.life = .resident) && !w.halted && !w.accept.isEmpty then
      some { since := w.since, lines := w.accept, wave := k }
    else none

/-- The next lines of the `mst` operations of a block. -/
def State.mstWaits (s : State) (b : Block) : List LineWait :=
  ((b.waveKeys.flatMap fun k => (s.waveAt k).tileOps) ++ b.msts.map Prod.snd).filterMap fun o =>
    if o.kind = .mst && !o.done then o.lines.head?.map fun l => { since := o.since, lines := [(l.1, 9)] } else none

/-- The stalls of a block's copies and of the transfers at it. -/
def State.transferWaits (s : State) (bk : Nat) (b : Block) : List LineWait :=
  (b.entries.filterMap fun n =>
    let e := tget (s.coreAt (b.cores.headD 0)).copyq n {}
    if e.busy && !e.accept.isEmpty then some { since := e.since, lines := e.accept } else none) ++
  (s.transfers.filterMap fun t =>
    if t.blk = bk && !t.accept.isEmpty then some { since := t.since, lines := t.accept } else none)

/-- A stall at one of some lines began before a cycle and could end now: it has its turn first (R214). -/
def State.lineTurn (s : State) (bk since : Nat) (lns : List Nat) : Bool :=
  let b := s.blockAt bk
  (s.waveWaits b ++ s.mstWaits b ++ s.transferWaits bk b).any fun x =>
    decide (x.since < since) && (x.lines.any fun e => lns.contains e.1) &&
      x.lines.all fun e => (b.line e.1).lets e.2 x.wave

/-! ### Records of OPEN lines -/

/-- How an access to an OPEN line is tracked (R215). -/
inductive OpenKind where | r | w | a
  deriving DecidableEq, Repr

/-- The party that an access to an OPEN line meets (R215): a wave with the kind recorded, several waves'
atomics, or an external party. -/
inductive Foe where
  | wave (w kind : Nat)
  | many
  | external (word : Nat)
  deriving DecidableEq, Repr

/-- The lowest recorded reader other than `b`, any wave before an external one (R215). -/
def OpenRec.reader (o : OpenRec) (b : Nat) (ident : Nat → Nat) : Option Foe :=
  let ws := (o.readers.filterMap fun r => r).filter fun w => w ≠ b
  match ws with
  | [] => if o.readers.contains none then some (.external o.ext) else none
  | w :: rest =>
    some (.wave (rest.foldl (fun m x => if ident x < ident m then x else m) w) kRead)

/-- What an access by wave `b` to an OPEN line meets (R215); `ident` gives identity words. The writer is named before
any reader. -/
def OpenRec.check (o : OpenRec) (b : Nat) (k : OpenKind) (ident : Nat → Nat) : Option Foe :=
  let rd := o.reader b ident
  match k, o.writer with
  | .r, .none => none
  | .r, .wave w => if w = b then none else some (.wave w kWrite)
  | .r, .atomics w => if w = b then none else some (.wave w kAtomic)
  | .r, .many => some .many
  | _, .external => some (.external o.ext)
  | .w, .none => rd
  | .w, .wave w => if w = b then rd else some (.wave w kWrite)
  | .w, .atomics w => if w = b then rd else some (.wave w kAtomic)
  | .w, .many => some .many
  | .a, .none => rd
  | .a, .wave w => if w = b then rd else some (.wave w kWrite)
  | .a, .atomics w => if w = b then rd else rd.map fun _ => .wave w kAtomic
  | .a, .many => rd.map fun _ => .many

/-- The record with a reader added (R215). -/
def OpenRec.addReader (o : OpenRec) (x : Option Nat) : OpenRec :=
  if o.readers.contains x then o
  else if o.readers.length < 2 then { o with readers := o.readers ++ [x] }
  else { o with many := true }

/-- The record after an access by wave `b` that meets nothing (R215). -/
def OpenRec.note (o : OpenRec) (b : Nat) (k : OpenKind) : OpenRec :=
  match k with
  | .r => o.addReader (some b)
  | .w => { o with writer := .wave b }
  | .a =>
    match o.writer with
    | .wave w => if w = b then o else { o with writer := .atomics b }
    | .atomics w => if w = b then o else { o with writer := .many }
    | .many => o
    | .none | .external => { o with writer := .atomics b }

/-! ### Arrivals -/

/-- What becomes of an arrival (R214, R217). -/
inductive Arrived where
  | ok (b : Block)
  | held
  | conflict (owner : Owner)

/-- A block with bytes of its scratchpad written; a poisoned word written whole is poisoned no longer
(R429). -/
def Block.writePad (b : Block) (cells : List (Nat × Byte)) : Block :=
  { b with
    scratch := cells.foldl (fun m c => m.write c.1 c.2) b.scratch
    spois := b.spois.filter fun w =>
      !(List.range 4).all fun k => cells.any fun c => c.1 = 4 * w + k }

/-- The bytes of a line that an arrival carries, as a mask. -/
def byteMask (cells : List (Nat × Byte)) : BitVec 128 :=
  cells.foldl (fun m c => m ||| (1#128 <<< (c.1 % 128))) 0

/-- An arrival of bytes at one line (R214, R216, R487): written in place, held at a FULL line, or failing
at a line FILLING under another owner. -/
def Block.arrive (b : Block) (x : Xfer) (i : Nat) (cells : List (Nat × Byte)) : Arrived :=
  let l := b.line i
  match l.st with
  | .full => .held
  | .opened =>
    .ok ((b.writePad cells).setLine i
      { l with orec := { l.orec with writer := .external, ext := x.word } })
  | .empty | .filling =>
    if l.st = .filling && !l.fillingBy (.xfer x) then .conflict l.owner
    else
      let m := (if l.st = .empty then 0 else l.mask) ||| byteMask cells
      let l1 : Line :=
        if m = BitVec.allOnes 128 then l.toState .full
        else { l with st := .filling, mask := m, wrote := (x.id :: l.wrote).eraseDups,
                      owner := if l.st = .empty then .xfer x else l.owner }
      .ok ((b.writePad cells).setLine i l1)

/-- A block after a transfer fails: the lines FILLING under its owner that hold a byte it wrote are EMPTY
again (R433). -/
def Block.giveBack (b : Block) (x : Xfer) : Block :=
  { b with lines := tmap (fun _ l =>
      if l.fillingBy (.xfer x) && l.wrote.contains x.id then l.toState .empty else l) b.lines }

/-- What a transfer's read finds at a line (R214, R215). -/
inductive PadRead where
  | ok (b : Block)
  | stall
  | conflict (f : Foe)

/-- The conflict of a transfer's read with a writer entry (R215). -/
def OpenRec.foeOfRead (o : OpenRec) : Option Foe :=
  match o.writer with
  | .none => none
  | .wave w => some (.wave w kWrite)
  | .atomics w => some (.wave w kAtomic)
  | .many => some .many
  | .external => some (.external o.ext)

/-- A copy's or `rget`'s read of a line (R214, R215): an OPEN line records an external reader. -/
def Block.padRead (b : Block) (word i : Nat) : PadRead :=
  let l := b.line i
  match l.st with
  | .empty | .filling => .stall
  | .full => .ok b
  | .opened =>
    match l.orec.foeOfRead with
    | some f => .conflict f
    | none =>
      let o := l.orec.addReader none
      .ok (b.setLine i { l with orec := { o with ext := word } })

/-- The identity word of a party met at a line (R375, R376); several waves' atomics leave it open
(log 9). -/
def State.foeWord (s : State) : Foe → Word
  | .wave w _ => (s.waveAt w).ident
  | .many => loWord (Config.freeValue s.fresh)
  | .external x => wrd x

/-- The access kind recorded with it (R376). -/
def Foe.kind : Foe → Nat
  | .wave _ k => k
  | .many => kAtomic
  | .external _ => kArrival

/-- The identity word of a line's owner. -/
def State.ownerWord (s : State) : Owner → Word
  | .none => 0
  | .wave w => (s.waveAt w).ident
  | .xfer x => wrd x.word

end Sys2Proof.Machine
end

