-- ==== Sys2Proof/Machine/Scratch.lean ====
section
/-! DEFINITION. Scratchpad access LDS and STS (spec/09_memory_instr.md R236 to R242). -/

namespace Sys2Proof.Machine

/-! ### Checks -/

/-- The scratchpad accesses of the active lanes (R236): a 33-bit sum that never wraps. -/
def padReqs (r : WaveRegs) (a b n : Nat) : List Req :=
  (lanesOf r.em).map fun l => { lane := l, va := (lane (r.v a) l).toNat + (r.s b).toNat, n := n }

/-- First-stage checks of the scratchpad (R236): alignment for a data access, then the size s143. -/
def padStage (r : WaveRegs) (rs : List Req) (data : Bool) (kind : Nat) : Option TrapRec :=
  let mis := rs.filter fun q => data && decide (q.va % q.n ≠ 0)
  let out := rs.filter fun q => (r.ctxS 15).toNat ≤ q.va
  if !mis.isEmpty then some (accessTrap 0x0B mis kind 0)
  else if !out.isEmpty then some (accessTrap 0x09 out kind 0)
  else none

/-- The lines that accesses name, each once, in ascending order. -/
def linesOf (rs : List Req) : List Nat :=
  inOrder (fun a b => decide (a ≤ b)) ((rs.map fun q => q.va / 128).eraseDups)

/-- FILL_CONFLICT (R214, R376). -/
def State.fillTrap (s : State) (rs : List Req) : TrapRec :=
  let ln := match rs with | [] => 0 | q :: _ => q.va / 128
  laneTrap 0x12 (reqMask rs) [wrd (ln * 128), 0, 0, s.ownerWord (s.block.line ln).owner]

/-- MM_CONFLICT at an OPEN line (R215, R376); the other party's region is not recorded (log 9). -/
def State.openTrap (s : State) (rs : List Req) (kind : Nat) (f : Foe) : TrapRec :=
  let ln := match rs with | [] => 0 | q :: _ => q.va / 128
  laneTrap 0x10 (reqMask rs)
    [wrd (ln * 128), 0, wrd (kind + f.kind * 16), s.foeWord f, hiWord (Config.freeValue s.fresh)]

/-- Whether every line of an access admits an event of a wave. -/
def Block.admits (b : Block) (w : Nat) (act : LineAct) (lns : List Nat) : Bool :=
  lns.all fun i => decide ((b.line i).verdict act w = .go)

/-- An older stall at one of these lines has its turn before the acting wave (R214). -/
def State.olderWaits (s : State) (lns : List Nat) : Bool :=
  s.lineTurn s.wave.blk (if s.wave.accept.isEmpty then s.cycle else s.wave.since) lns

/-- The acting wave waits at lines (R214, R237), with what it waits for. -/
def State.lineWait (s : State) (act : LineAct) (lns : List Nat) (obj : Nat) : Res :=
  let code := match act with
    | .store | .sfin => 14
    | .read | .take | .sclr | .sopen => 13
  .stay (s.setWave { s.wave with accept := lns.map fun i => (i, act.code) }) code obj

/-- How an access to an OPEN line is tracked; `sopen` is not. -/
def openKind (act : LineAct) (atomic : Bool) : Option OpenKind :=
  if atomic then some .a
  else match act with
    | .read | .take => some .r
    | .store | .sfin | .sclr => some .w
    | .sopen => none

/-- What the accesses of the active lanes meet at OPEN lines, lane by lane (R215). -/
def State.openFoes (s : State) (k : OpenKind) (rs : List Req) : List (Req × Foe) :=
  rs.filterMap fun q =>
    let l := s.block.line (q.va / 128)
    if l.st = .opened then
      (l.orec.check s.cur k fun w => (s.waveAt w).ident.toNat).map fun f => (q, f)
    else none

/-- The state with accesses to OPEN lines recorded (R215). -/
def State.noteOpen (s : State) (k : OpenKind) (lns : List Nat) : State :=
  let w := s.cur
  s.updBlock s.wave.blk fun b => lns.foldl (fun b i =>
    let l := b.line i
    if l.st = .opened then b.setLine i { l with orec := l.orec.note w k } else b) b

/-- The state with the transitions of an event made, once per line (R237). -/
def State.lineStep (s : State) (act : LineAct) (lns : List Nat) : State :=
  let w := s.cur
  s.updBlock s.wave.blk fun b => lns.foldl (fun b i => b.setLine i ((b.line i).after act w)) b

/-- Every line of an access is OPEN. -/
def State.allOpen (s : State) (lns : List Nat) : Bool :=
  lns.all fun i => decide ((s.block.line i).st = .opened)

/-- When an access to lines is synchronising (R197): when some line is not OPEN, or always. -/
inductive PadSync where | lines | always
  deriving DecidableEq, Repr

/-- Whether an access is synchronising because some line is not OPEN (R197). -/
def State.lineSync (s : State) (lns : List Nat) (k : State → Res) : Res :=
  if s.wave.spec.isSome || s.allOpen lns then k s else s.sync k

/-- The synchronisation of an access to lines. -/
def State.padSync (s : State) (y : PadSync) (lns : List Nat) (k : State → Res) : Res :=
  match y with
  | .lines => s.lineSync lns k
  | .always => s.sync k

/-- Checks at OPEN lines (R215, R211), the synchronisation, then the tracking: under speculation an access is tracked
at its resolution (R220). -/
def State.atOpen (s : State) (act : LineAct) (atomic : Bool) (kind : Nat) (rs : List Req) (y : PadSync)
    (k : State → Res) : Res :=
  match openKind act atomic with
  | none => s.padSync y (linesOf rs) k
  | some ok =>
    if !s.tracks || (s.wave.spec.isSome && decide (act = .store)) then s.padSync y (linesOf rs) k
    else match s.openFoes ok rs with
    | [] => s.padSync y (linesOf rs) fun s => k (if s.wave.spec.isSome then s else s.noteOpen ok (linesOf rs))
    | (q, f) :: rest => .trapIn s.drawn (s.openTrap (q :: rest.map Prod.fst) kind f)

/-- The second stage of an access to lines (R214, R215, R237): at the vote when a line is not OPEN under
speculation, FILL_CONFLICT, a stall, a turn, MM_CONFLICT; then the synchronisation, the tracking, and `k`. -/
def State.atLines (s : State) (act : LineAct) (atomic : Bool) (kind : Nat) (rs : List Req) (y : PadSync)
    (k : State → Res) : Res :=
  let lns := linesOf rs
  let conf := rs.filter fun q => (s.block.line (q.va / 128)).verdict act s.cur = .conflict
  match s.wave.spec with
  | some sp =>
    if !s.allOpen lns then .wait 19 sp.slot
    else s.atOpen act atomic kind rs y k
  | none =>
    if !conf.isEmpty then .trap (s.fillTrap conf)
    else match lns.find? fun i => (s.block.line i).verdict act s.cur = .stall with
    | some i => s.lineWait act lns i
    | none =>
      if s.olderWaits lns then s.lineWait act lns (lns.headD 0)
      else s.atOpen act atomic kind rs y k

/-! ### Data -/

/-- The value a lane reads from the scratchpad, the wave's held stores over it (R232). -/
def State.padAt (s : State) (q : Req) : Nat :=
  leNat (withHeld s.wave true 0 q.va (s.block.scratch.readList q.va q.n))

/-- The lanes whose word `i` of their scratchpad access is poisoned (R429). -/
def State.padBad (s : State) (kind : Nat) (rs : List Req) (i : Nat) : List (Nat × PoisonInfo) :=
  rs.filterMap fun q =>
    if s.block.spois.contains (q.va / 4 + i) then some (q.lane, { addr := BitVec.ofNat 64 q.va, kind := kind })
    else none

/-- The bytes of a scratchpad store in ascending lane order. -/
def padCells (rs : List Req) (val : Nat → Nat) : List (Nat × Byte) :=
  rs.flatMap fun q => (leBytes q.n (val q.lane)).mapIdx fun i b => (q.va + i, b)

/-- Loads of OPEN lines under speculation recorded for their validation (R220, R227), with the values in the
scratchpad. -/
def State.trackPad (s : State) (rs : List Req) : State :=
  s.setWave { s.wave with
    spec := s.wave.spec.map fun sp =>
      { sp with peeks := sp.peeks ++ rs.map fun q => (q, leNat (s.block.scratch.readList q.va q.n)) } }

/-! ### LDS -/

/-- `lds` and `lds.take` (R238). -/
def State.padLoad (s : State) (act : LineAct) (spec : Bool) (sz : ESize) (d a b : Nat) : Out :=
  let n := regsOf sz
  let rs := padReqs s.regs a b (bytesOf sz)
  s.run { ops := [.v d n false, .v a 1 true, .s b 1 true], spec := spec, writes := n,
          keys := [.v a 1 true, .s b 1 true], own := padStage s.regs rs true kRead }
    (if rs.isEmpty then .done s
     else
       if s.wave.ldFull then .wait 8 0
       else s.atLines act false kRead rs .lines fun s =>
         let vs := rs.map fun q => (q.lane, s.padAt q)
         .done (((s.trackPad rs).issueLoad d n (fun i l => loadWord sz false (laneVal vs l) i)
           (s.padBad kRead rs)).lineStep act (linesOf rs)))

/-- `lds` (R238). -/
def execLds (sz : ESize) (d a b : Nat) (s : State) : Out := s.padLoad .read true sz d a b
/-- `lds.take` (R238). -/
def execLdsTake (sz : ESize) (d a b : Nat) (s : State) : Out := s.padLoad .take false sz d a b

/-- The status word of a line for a wave (R239). -/
def Line.status (l : Line) (w : Nat) (valid : Bool) : Word :=
  let st : Nat := match l.st with | .empty => 0 | .filling => 1 | .full => 2 | .opened => 3
  wrd (st + (l.fillingBy (.wave w)).toNat * 4 + valid.toNat * 8)

/-- Whether a try-peek reads a line's data (R238). -/
def Line.readable (l : Line) (w : Nat) : Bool :=
  match l.st with
  | .full | .opened => true
  | .filling => l.fillingBy (.wave w)
  | .empty => false

/-- The end of the acting wave's region under speculation, where nothing is retired or logged: the region
number moves on, and tracked loads of the closed region leave no tag at their validation (R207, R220, R238). -/
def State.endSpecRegion (s : State) : State :=
  let w := s.wave
  s.setWave { w with
    regs := { w.regs with region := w.regs.region + 1 }
    spec := w.spec.map fun sp =>
      { sp with closed := sp.tracked.length } }

/-- A synchronising access that may run under speculation: `lds.try` (R238). -/
def State.trySync (s : State) (k : State → Res) : Res :=
  if s.wave.spec.isSome then k s.endSpecRegion else s.sync k

/-- `lds.try` (R238, R239): it never stalls, and it ends the region in every case. -/
def execLdsTry (sz : ESize) (d a b : Nat) (s : State) : Out :=
  let n := regsOf sz
  let rs := padReqs s.regs a b (bytesOf sz)
  let lns := linesOf rs
  s.run { ops := [.v d (2 * n) false, .v a 1 true, .s b 1 true], writes := n + 1,
          keys := [.v a 1 true, .s b 1 true], own := padStage s.regs rs true kRead }
    (if s.wave.spec.isSome && !s.allOpen lns then .wait 19 ((s.wave.spec.map Spec.slot).getD 0)
       else if rs.isEmpty then s.trySync .done
       else if s.wave.ldFull then .wait 8 0
       else
         let foes := if s.tracks then s.openFoes .r rs else []
         match foes with
         | (q, f) :: rest => .trapIn s.drawn (s.openTrap (q :: rest.map Prod.fst) kRead f)
         | [] => s.trySync fun s =>
           let got := rs.filter fun q => (s.block.line (q.va / 128)).readable s.cur
           let vs := got.map fun q => (q.lane, s.padAt q)
           let st := fun l => match rs.find? fun q => q.lane = l with
             | none => 0
             | some q => (s.block.line (q.va / 128)).status s.cur
                 ((s.block.line (q.va / 128)).readable s.cur)
           let s1 := if s.wave.spec.isSome then s.trackPad rs else if s.tracks then s.noteOpen .r lns else s
           .done (s1.issueLoad d (n + 1)
             (fun i l => if i = n then st l else loadWord sz false (laneVal vs l) i)
             (fun i => if i = n then [] else s.padBad kRead got i)))

/-- `lds.line`: the status alone, and nothing changes (R238, R239). -/
def execLdsLine (d a b : Nat) (s : State) : Out :=
  let rs := padReqs s.regs a b 1
  s.run { ops := [.v d 1 false, .v a 1 true, .s b 1 true], writes := 1,
          keys := [.v a 1 true, .s b 1 true], own := padStage s.regs rs false kRead }
    (if s.wave.spec.isSome && !s.allOpen (linesOf rs) then .wait 19 ((s.wave.spec.map Spec.slot).getD 0)
       else if rs.isEmpty then .done s
       else if s.wave.ldFull then .wait 8 0
       else
         let st := fun l => match rs.find? fun q => q.lane = l with
           | none => 0
           | some q => (s.block.line (q.va / 128)).status s.cur false
         .done ((s.trackPad (rs.map fun q => { q with n := 0 })).issueLoad d 1 (fun _ l => st l) fun _ => []))

/-! ### STS -/

/-- The state with a scratchpad store's bytes written. -/
def State.writePad (s : State) (cells : List (Nat × Byte)) : State :=
  s.updBlock s.wave.blk fun b => b.writePad cells

/-- `sts` (R240, R241); held under speculation. -/
def execSts (sz : ESize) (d a b : Nat) (s : State) : Out :=
  let n := regsOf sz
  let rs := padReqs s.regs a b (bytesOf sz)
  s.run { ops := [.v d n true, .v a 1 true, .s b 1 true],
          keys := [.v a 1 true, .s b 1 true], own := padStage s.regs rs true kWrite }
    (if rs.isEmpty then .done s
     else
       (s.wave.storeWait).getD
         (s.atLines .store false kWrite rs .lines fun s =>
           let cells := padCells rs (laneData s.regs n d)
           if s.wave.spec.isSome then
             .done (s.setWave (s.wave.hold
               { before := s.regs, pad := true, cells := cells.map fun c => (0, c.1, c.2),
                 places := rs.map fun q => { req := q, tier := 0, pa := q.va, w := false } }))
           else
             .done (((s.writePad cells).lineStep .store (linesOf rs)).countStore)))

/-- The state after the lanes' scratchpad atomics in ascending order, and each lane's old value (R237); a
poisoned word stays as it is (R429). -/
def State.padAtomics (s : State) (op : AOp) (wd : AWidth) (r : WaveRegs) (d : Nat) :
    List Req → State × List (Nat × Nat)
  | [] => (s, [])
  | q :: qs =>
    let old := leNat (s.block.scratch.readList q.va q.n)
    let new := amo op wd old (amoOperand r wd d q.lane) (amoOperand r wd (d + widthRegs wd) q.lane)
    let s1 := if (List.range (widthRegs wd)).all fun i => (s.padBad kAtomic [q] i).isEmpty then
      s.updBlock s.wave.blk fun b => { b with scratch := b.scratch.writeList q.va (leBytes q.n new) }
      else s
    let y := State.padAtomics s1 op wd r d qs
    (y.1, (q.lane, old) :: y.2)

/-- A scratchpad atomic (R240, R241): acquire and release at block scope, always with its old value. -/
def State.satom (s : State) (op : AOp) (wd : AWidth) (d a b : Nat) : Out :=
  let n := amoRegs op wd
  let rs := padReqs s.regs a b (4 * widthRegs wd)
  s.run { ops := [.v d n true, .v a 1 true, .s b 1 true], spec := false, writes := widthRegs wd,
          keys := [.v a 1 true, .s b 1 true], own := padStage s.regs rs true kAtomic }
    (if rs.isEmpty then s.release .blk .done
       else if s.wave.ldFull then .wait 8 0
       else ((s.wave.releaseWait (some .blk))).getD (s.atLines .store true kAtomic rs .always fun s =>
         let bad := s.padBad kAtomic rs
         let y := s.padAtomics op wd s.regs d rs
         .done ((y.1.issueLoad d (widthRegs wd)
           (fun i l => wrd (laneVal y.2 l / 2 ^ (32 * i))) bad).lineStep .store (linesOf rs))))

/-- `satom.add` (R241). -/
def execSatomAdd (wd : AWidth) (d a b : Nat) (s : State) : Out := s.satom .add wd d a b
/-- `satom.min.i` (R241). -/
def execSatomMinI (wd : AWidth) (d a b : Nat) (s : State) : Out := s.satom .minI wd d a b
/-- `satom.min.n` (R241). -/
def execSatomMinN (wd : AWidth) (d a b : Nat) (s : State) : Out := s.satom .minN wd d a b
/-- `satom.max.i` (R241). -/
def execSatomMaxI (wd : AWidth) (d a b : Nat) (s : State) : Out := s.satom .maxI wd d a b
/-- `satom.max.n` (R241). -/
def execSatomMaxN (wd : AWidth) (d a b : Nat) (s : State) : Out := s.satom .maxN wd d a b
/-- `satom.and` (R241). -/
def execSatomAnd (wd : AWidth) (d a b : Nat) (s : State) : Out := s.satom .and wd d a b
/-- `satom.or` (R241). -/
def execSatomOr (wd : AWidth) (d a b : Nat) (s : State) : Out := s.satom .or wd d a b
/-- `satom.xchg` (R241). -/
def execSatomXchg (wd : AWidth) (d a b : Nat) (s : State) : Out := s.satom .xchg wd d a b
/-- `satom.cas` (R241). -/
def execSatomCas (wd : AWidth) (d a b : Nat) (s : State) : Out := s.satom .cas wd d a b

/-- `sfin`, `sclr` and `sopen` (R242): no data, no alignment check, counted on ST; `sfin` and `sclr` are releases. The
spec lists an access kind for `sfin` and `sclr` alone (R376): `sopen` reports it too (log 54). -/
def State.lineOp (s : State) (act : LineAct) (a b : Nat) : Out :=
  let rs := padReqs s.regs a b 1
  let scope := if act = .sopen then none else some Scope.blk
  s.run { ops := [.v a 1 true, .s b 1 true], spec := false,
          keys := [.v a 1 true, .s b 1 true], own := padStage s.regs rs false kFin }
    (if rs.isEmpty then ((s.wave.releaseWait scope)).getD (s.sync .done)
       else if s.wave.stFull then .wait 8 0
       else ((s.wave.releaseWait scope)).getD (s.atLines act false kFin rs .always fun s =>
         .done ((s.lineStep act (linesOf rs)).countStore)))

/-- `sfin` (R242). -/
def execSfin (a b : Nat) (s : State) : Out := s.lineOp .sfin a b
/-- `sclr` (R242). -/
def execSclr (a b : Nat) (s : State) : Out := s.lineOp .sclr a b
/-- `sopen` (R242). -/
def execSopen (a b : Nat) (s : State) : Out := s.lineOp .sopen a b

end Sys2Proof.Machine
end

