-- ==== Sys2Proof/Machine/Matrix.lean ====
section
/-! DEFINITION. The matrix engine: `mma` and MATX (spec/06_matrix.md R164 to R190). An operation captures its
operands when it issues, waits in the wave's list of matrix operations, and takes effect at the events of
Machine/MatrixEvents.lean. -/

namespace Sys2Proof.Machine

/-! ### Operand classes -/

/-- The class of a format (R166): 0 F64, 1 F32, 2 F16, 3 F8, 4 F4, 5 I16, 6 I8, 7 I4, 8 I2, 9 I1. -/
def mclass : MFmt → Nat
  | .f64 => 0
  | .f32 | .e8m10 => 1
  | .bf16 | .f16 => 2
  | .e5m2 | .e4m3 | .e4m3f | .e3m4 | .e2m5 | .e3m2 | .e2m3 => 3
  | .e2m1 => 4
  | .i16 | .n16 => 5
  | .i8 | .n8 => 6
  | .i4 | .n4 => 7
  | .i2 | .n2 | .t2 => 8
  | .b1 | .n1 => 9

/-- Bits of an element's container (R84, R167, R168). -/
def mbitsOf (m : MFmt) : Nat := container (.flt m)

/-- K of an `mma` (R166): a row of 64 bytes, or of 128 for f64. -/
def kOf (m : MFmt) : Nat := (if m = .f64 then 1024 else 512) / mbitsOf m

/-- Whether a tile type suits a class (R166). -/
def typeFits (cls : Nat) (ty : TileType) : Bool :=
  match ty with
  | .fp64 => decide (cls = 0)
  | .fp32 => decide (1 ≤ cls ∧ cls ≤ 4)
  | .int32wrap | .int32sat => decide (5 ≤ cls)

/-! ### Element values -/

/-- The value of a float operand element (R169, R170): finite values are ±m·2^e. -/
inductive MVal where
  | nan (sig : Bool)
  | inf (neg : Bool)
  | fin (neg : Bool) (m : Nat) (e : Int)
  deriving DecidableEq, Repr

/-- The value of an element of a float format. -/
def mval (f : FFmt) (b : Nat) : MVal :=
  if f.isNan b then .nan (f.isSnan b)
  else if f.isInf b then .inf (f.neg b)
  else .fin (f.neg b) (f.sig b) (f.scale b)

/-- The value negated (R170: nega). -/
def MVal.negate : MVal → MVal
  | .nan g => .nan g
  | .inf n => .inf (!n)
  | .fin n m e => .fin (!n) m e

/-- The value of an integer or logic element (R83, R169), with its code that sets NV. -/
def mint (m : MFmt) (b : Nat) : Int × Bool :=
  match m with
  | .i16 => (intVal true 16 b, false)
  | .i8 => (intVal true 8 b, false)
  | .i4 => (intVal true 4 b, false)
  | .i2 => (intVal true 2 b, false)
  | .t2 => if b = 2 then (0, true) else (intVal true 2 b, false)
  | .b1 => (if b = 0 then 1 else -1, false)
  | _ => ((b : Int), false)

/-- Element `n` of packed data: the bits of its container (R84, R167, R168). -/
def elemBits (m : MFmt) (data : Array Byte) (n : Nat) : Nat :=
  let c := mbitsOf m
  let x :=
    if c < 8 then (data.getD (n * c / 8) 0).toNat / 2 ^ (n * c % 8) % 2 ^ c
    else leNat ((List.range (c / 8)).map fun i => data.getD (n * (c / 8) + i) 0)
  fromContainer (.flt m) x

/-! ### Group sums -/

/-- A product of two element values. -/
inductive MProd where
  | nan
  | inf (neg : Bool)
  | fin (neg : Bool) (m : Nat) (e : Int)
  deriving DecidableEq, Repr

/-- The exact product and whether it is 0·∞ (R170). -/
def mulVal (x y : MVal) : MProd × Bool :=
  match x, y with
  | .nan _, _ => (.nan, false)
  | _, .nan _ => (.nan, false)
  | .inf a, .inf b => (.inf (a != b), false)
  | .inf a, .fin b m _ => if m = 0 then (.nan, true) else (.inf (a != b), false)
  | .fin a m _, .inf b => if m = 0 then (.nan, true) else (.inf (a != b), false)
  | .fin a m e, .fin b n f => (.fin (a != b) (m * n) (e + f), false)

/-- A signalling NaN. -/
def MVal.signals : MVal → Bool
  | .nan g => g
  | _ => false

/-- A finite product shifted to units of 2^`u`, truncated toward zero, and whether bits were dropped
(R170). -/
def truncTo (neg : Bool) (m : Nat) (e u : Int) : Int × Bool :=
  if u ≤ e then
    let q := m * 2 ^ (e - u).toNat
    (if neg then -(q : Int) else q, false)
  else
    let k := (u - e).toNat
    let q := if bitLen m < k then 0 else m / 2 ^ k
    (if neg then -(q : Int) else q, decide (q * 2 ^ (if bitLen m < k then 0 else k) ≠ m))

/-- The exponent of the leading bit of the largest product; none when every product is zero. -/
def topExp : List MProd → Option Int
  | [] => none
  | .fin _ m e :: ps =>
    if m = 0 then topExp ps
    else
      let t := e + (bitLen m : Int) - 1
      match topExp ps with
      | none => some t
      | some u => some (if u < t then t else u)
  | _ :: ps => topExp ps

/-- The truncated sum of finite products in units of 2^`u`, and whether any was inexact. -/
def truncSum (u : Int) : List MProd → Int × Bool
  | [] => (0, false)
  | .fin n m e :: ps =>
    let t := truncTo n m e u
    let r := truncSum u ps
    (t.1 + r.1, t.2 || r.2)
  | _ :: ps => truncSum u ps

/-- Every product is −0. -/
def allNegZero (ps : List MProd) : Bool :=
  ps.all fun p => match p with | .fin n m _ => n && decide (m = 0) | _ => false

/-- The result of one group of products (R170): `w` is the window, `scale` the two factors. -/
def groupSum (f : FFmt) (w : Nat) (rm : Rnd) (xs : List (MVal × MVal)) (scale : Option (Nat × Nat)) :
    FRes :=
  let ps := xs.map fun x => mulVal x.1 x.2
  let prods := ps.map Prod.fst
  let zinf := ps.any Prod.snd
  let pinf := prods.contains (.inf false)
  let ninf := prods.contains (.inf true)
  let bad := match scale with | some (a, b) => decide (a = 255 ∨ b = 255) | none => false
  if bad then f.invalid
  else if prods.contains .nan || (pinf && ninf) then
    { bits := f.defNan
      flags := if (xs.any fun x => x.1.signals || x.2.signals) || zinf || (pinf && ninf)
        then flagNV else 0 }
  else if pinf || ninf then { bits := f.infBits ninf }
  else
    match topExp prods with
    | none => { bits := f.signBits (allNegZero prods) }
    | some t =>
      let u := t - (w : Int)
      let r := truncSum u prods
      let k : Int := match scale with | some (a, b) => (a : Int) + b - 254 | none => 0
      (f.roundInt rm false false (decide (rm = .rdn)) r.1 (u + k)).or (if r.2 then flagIX else 0)

/-- A group result added to the accumulator (R171). -/
def accumulate (f : FFmt) (rm : Rnd) (acc s : Nat) : FRes :=
  if f.isNan acc then { bits := f.quiet acc, flags := if f.isSnan acc then flagNV else 0 }
  else if f.isNan s then { bits := s }
  else f.add rm false acc s

/-- The rounding mode of a group rounding field (R46). -/
def grpRnd : GrpRnd → Rnd
  | .rne => .rne | .rtz => .rtz | .rup => .rup | .rdn => .rdn

/-- One element of an `mma` of a float class: the groups in ascending order (R170). -/
def floatElem (f : FFmt) (w : Nat) (rm : Rnd) (scale : Option (Nat × Nat)) (acc : Nat)
    (groups : List (List (MVal × MVal))) : FRes :=
  groups.foldl (fun r g =>
    let s := groupSum f w rm g scale
    (accumulate f rm r.bits s.bits).or (r.flags ||| s.flags)) { bits := acc }

/-- One group of an integer class (R172). -/
def intGroup (sat : Bool) (r : FRes) (t : Int) : FRes :=
  let v := (BitVec.ofNat 32 r.bits).toInt + t
  if v < -(2 ^ 31) ∨ 2 ^ 31 - 1 < v then
    let y : Int := if sat then (if v < 0 then -(2 ^ 31) else 2 ^ 31 - 1) else v
    { bits := (y % 2 ^ 32).toNat, flags := r.flags ||| flagOF }
  else { r with bits := (v % 2 ^ 32).toNat }

/-- One element of an `mma` of an integer class (R172). -/
def intElem (sat : Bool) (acc : Nat) (groups : List (List (Int × Int))) : FRes :=
  groups.foldl (fun r g => intGroup sat r (g.foldl (fun t x => t + x.1 * x.2) 0)) { bits := acc }

/-! ### Tiles and slots -/

/-- A tile of a wave. -/
def WaveRegs.tile (r : WaveRegs) (t : Nat) : Tile := tget r.tiles t {}

/-- The registers with a tile changed. -/
def WaveRegs.setTile (r : WaveRegs) (t : Nat) (x : Tile) : WaveRegs := { r with tiles := tset r.tiles t x }

/-- The tiles that share a tile's status: both of an FP64 pair (R174). -/
def WaveRegs.members (r : WaveRegs) (t : Nat) : List Nat :=
  if (r.tile t).ty = .fp64 then [t / 2 * 2, t / 2 * 2 + 1] else [t]

/-- An element of a tile, or of a pair through its even tile (R164). -/
def WaveRegs.elem (r : WaveRegs) (t k : Nat) (pair : Bool) : Nat :=
  let lo := (tget (r.tile t).words k 0).toNat
  if pair then lo + (tget (r.tile (t + 1)).words k 0).toNat * 2 ^ 32 else lo

/-- Whether an element is poisoned, in either word of a pair (R429). -/
def WaveRegs.elemBad (r : WaveRegs) (t k : Nat) (pair : Bool) : Bool :=
  (r.tile t).pois.contains k || (pair && (r.tile (t + 1)).pois.contains k)

/-- A word written into a tile; it clears the element's poison (R429). -/
def Tile.put (x : Tile) (k : Nat) (v : Word) : Tile :=
  { x with words := tset x.words k v, pois := x.pois.filter fun e => e ≠ k }

/-- The words of a tile from a function of row·64 + column. -/
def tileWords (f : Nat → Word) : Tbl Word := (List.range 1024).map fun k => (k, f k)

/-- The flags of a status word (R174). -/
def tileFlags (flags : Nat) : Word := wrd (flags / 2 ^ 8) &&& 0x1D#32

/-- The status word of a tile (R174). -/
def Tile.statusWord (x : Tile) : Word :=
  let ty : Nat := match x.ty with | .fp32 => 0 | .int32wrap => 1 | .int32sat => 2 | .fp64 => 3
  x.status + wrd (ty * 2 ^ 8)

/-- The registers with a status word's flags changed, in both tiles of a pair (R174). -/
def WaveRegs.onStatus (r : WaveRegs) (t : Nat) (f : Word → Word) : WaveRegs :=
  (r.members t).foldl (fun r m =>
    let x := r.tile m
    r.setTile m { x with status := f x.status }) r

/-- The registers with flags raised into a tile's status (R173). -/
def WaveRegs.raise (r : WaveRegs) (t flags : Nat) : WaveRegs :=
  r.onStatus t fun st => st ||| tileFlags flags

/-- The other tile of a pair that dissolves: its words as FP32 with a clear status (R182). -/
def WaveRegs.dissolve (r : WaveRegs) (t : Nat) : WaveRegs :=
  ((r.members t).filter fun m => m ≠ t).foldl (fun r m =>
    r.setTile m { r.tile m with ty := .fp32, status := 0 }) r

/-- The registers with a tile, or a pair for FP64, given a type and words with a clear status (R164,
R182). -/
def WaveRegs.loadTile (r : WaveRegs) (t : Nat) (mode : TileType) (lo hi : Tbl Word) : WaveRegs :=
  if mode = .fp64 then
    (r.setTile t { ty := mode, words := lo }).setTile (t + 1) { ty := mode, words := hi }
  else (r.dissolve t).setTile t { ty := mode, words := lo }

/-- A wave's partition among those of all cores: the waves of a block that is spread over cores share a slot
only on one partition of one core (R15, R26). -/
def Wave.bank (w : Wave) : Nat := w.core * 8 + w.part

/-- The key of a Shelf slot of a partition of a core. -/
def shelfKey (bank slot : Nat) : Nat := bank * 64 + slot

/-- A Shelf slot of a block. -/
def Block.slot (b : Block) (bank slot : Nat) : Shelf := tget b.shelf (shelfKey bank slot) {}

/-- Whether a matrix operation uses a tile (R184): `mst` has captured it at issue. -/
def TileOp.usesTile (o : TileOp) (t : Nat) : Bool :=
  !o.done && (decide (o.kind = .mma) || decide (o.kind = .mld)) && decide (o.tile ≤ t) &&
    decide (t < o.tile + (if o.pair then 2 else 1))

/-- A tile is busy (R184). -/
def Wave.tileBusy (w : Wave) (t : Nat) : Bool := w.tileOps.any fun o => o.usesTile t

/-- Whether a matrix operation uses a slot (R185). -/
def TileOp.usesSlot (o : TileOp) (b : Nat) : Bool :=
  !o.done && (decide (o.kind = .mma) || decide (o.kind = .bload)) && decide (o.slot ≤ b) &&
    decide (b < o.slot + (if o.fm = .f64 then 2 else 1))

/-- An operation in flight on the acting wave's partition uses a slot: an earlier `bload`, or an earlier
`mma` too when `reads` counts (R185). -/
def State.slotBusy (s : State) (b : Nat) (reads : Bool) : Bool :=
  s.block.waveKeys.any fun k =>
    let w := s.waveAt k
    decide (w.part = s.wave.part) && decide (w.core = s.wave.core) &&
      w.tileOps.any fun o => o.usesSlot b && (reads || decide (o.kind = .bload))

/-! ### Issue -/

/-- The checks and waits that every matrix instruction shares after those of R49: a lost partition (R435),
the instruction's first-stage fault, an engine in reset (R434). -/
def State.matx (s : State) (p : Plan) (first : Option TrapRec) (body : Res) : Out :=
  let c := s.engineAt s.wave.core
  s.run { p with
      keys := p.ops, own := if c.lost.contains s.wave.part then some (mkTrap 0x28 [0, 0, 1]) else first }
    (if c.hang.contains s.wave.part then .wait 2 0 else body)

/-- A self-test of the acting wave's partition comes before its next `mma` or `bload` (R186). -/
def State.testFirst (s : State) : Bool :=
  decide (4096 ≤ tget (s.engineAt s.wave.core).mops s.wave.part 0)

/-- Alignment and range of the scratchpad bytes of a matrix operation (R176, R182, R183). -/
def matRange (r : WaveRegs) (addr n kind : Nat) : Option TrapRec :=
  let q : Req := { lane := 0, va := addr, n := n }
  if addr % 128 ≠ 0 then some (waveTrap (accessTrap 0x0B [q] kind 0))
  else if (r.ctxS 15).toNat < addr + n then some (waveTrap (accessTrap 0x09 [q] kind 0))
  else none

/-- SHELF_FORMAT (R376). -/
def State.shelfTrap (s : State) (reason : Nat) : Res := .trap (mkTrap 0x29 [s.fetchWord, wrd reason])

/-- TL is at its maximum (R32, R34). -/
def Wave.tlFull (w : Wave) : Bool := decide (31 ≤ w.tileOps.length)

/-- A capture of `n` bytes of the scratchpad (R177): a stall until every line is FULL and no older stall at one of them
has its turn (R214), POISON for a poisoned word, else `k` on the bytes. -/
def State.capture (s : State) (addr n : Nat) (k : List Byte → Res) : Res :=
  let b := s.block
  let m := (n + 127) / 128
  let lns := (List.range m).map (addr / 128 + ·)
  if (lns.all fun i => decide ((b.line i).st = .full)) && !s.olderWaits lns then
    match b.spois.filter fun w => decide (addr ≤ 4 * w) && decide (4 * w < addr + n) with
    | [] => k (b.scratch.readList addr n)
    | w :: ws =>
      .trap (poisonTrap 0 { addr := BitVec.ofNat 64 (4 * ws.foldl min w) })
  else .stay (s.setWave { s.wave with accept := lns.map fun i => (i, 6) }) 15 (addr / 128 + m * 2 ^ 16)

/-- The acting wave with one more matrix operation (R178). -/
def State.issueOp (s : State) (o : TileOp) : State :=
  s.setWave { s.wave with tileOps := s.wave.tileOps ++ [o] }

/-- The count of `mma` and `bload` since the last self-test of the partition (R186). -/
def State.countOp (s : State) : State :=
  let p := s.wave.part
  s.updEngine s.wave.core fun c => { c with mops := tset c.mops p (tget c.mops p 0 + 1) }

/-- The reason for which an `mma` raises SHELF_FORMAT (R176, R376); of a pair of slots of which one holds no format and
the other a wrong one, the first is reported (log 54). -/
def mmaReason (fm : MFmt) (slots : List Shelf) (ty : TileType) (scl : Bool) : Option Nat :=
  if slots.any fun x => x.fmt.isNone then some 0
  else if slots.any fun x => decide (x.fmt.map mclass ≠ some (mclass fm)) then some 1
  else if !typeFits (mclass fm) ty then some 2
  else if scl && ((slots.head?.bind Shelf.factors).isNone) then some 3
  else none

/-- `mma` (R175 to R179). -/
def execMma (fm : MFmt) (a slot tile : Nat) (rnd : GrpRnd) (scl nega : Bool) (s : State) : Out :=
  let dbl := decide (fm = .f64)
  let w := if dbl then 2 else 1
  let r := s.regs
  let addr := (r.s a).toNat
  let size := if dbl then 2048 else 1024
  let n := size + (if scl then 16 else 0)
  let tiles := (List.range w).map (tile + ·)
  let slots := (List.range w).map (slot + ·)
  s.matx { ops := [.s a 1 true, .slot slot w, .tile tile w], spec := false } (matRange r addr n kRead)
    (if s.testFirst then .wait 2 0
     else if (tiles ++ r.members tile).any s.wave.tileBusy then .wait 6 tile
     else if s.wave.tlFull then .wait 8 0
     else if slots.any fun b => s.slotBusy b false then .wait 7 slot
     else match mmaReason fm (slots.map (s.block.slot s.wave.bank)) (r.tile tile).ty scl with
     | some c => s.shelfTrap c
     | none => s.capture addr n fun bs =>
       .done ((s.issueOp
         { kind := .mma, fm := fm, tile := tile, slot := slot, rnd := rnd,
           nega := nega, pair := dbl, data := bs.take size,
           factors := if scl then some (bs.drop size) else none }).countOp))

/-- `bload` (R182). -/
def execBload (scl : Bool) (slot a : Nat) (fm : MFmt) (s : State) : Out :=
  let dbl := decide (fm = .f64)
  let w := if dbl then 2 else 1
  let addr := (s.regs.s a).toNat
  let size := if dbl then 8192 else 4096
  let n := size + (if scl then 64 else 0)
  s.matx { ops := [.slot slot w, .s a 1 true], spec := false } (matRange s.regs addr n kRead)
    (if s.testFirst then .wait 2 0
     else if s.wave.tlFull then .wait 8 0
     else if (List.range w).any fun i => s.slotBusy (slot + i) true then .wait 7 slot
     else s.capture addr n fun bs =>
       .done ((s.issueOp
         { kind := .bload, fm := fm, slot := slot, pair := dbl, data := bs.take size,
           factors := if scl then some (bs.drop size) else none }).countOp))

/-- The slots that `bfree` clears (R182). -/
def Block.freed (b : Block) (bank slot : Nat) : List Nat :=
  if (b.slot bank slot).fmt = some .f64 then [slot / 2 * 2, slot / 2 * 2 + 1] else [slot]

/-- `bfree` (R182). -/
def execBfree (slot : Nat) (s : State) : Out :=
  let p := s.wave.bank
  let xs := s.block.freed p slot
  s.matx { ops := [.slot slot 1], spec := false } none
    (if xs.any fun b => s.slotBusy b true then .wait 7 slot
     else .done (s.updBlock s.wave.blk fun b =>
       { b with shelf := xs.foldl (fun t x => tset t (shelfKey p x) {}) b.shelf }))

/-- `mzero` (R182). -/
def execMzero (tile : Nat) (mode : TileType) (s : State) : Out :=
  let dbl := decide (mode = .fp64)
  s.matx { ops := [.tile tile (if dbl then 2 else 1)], spec := false } none
    (if (tile :: s.regs.members tile).any s.wave.tileBusy || (dbl && s.wave.tileBusy (tile + 1)) then
       .wait 6 tile
     else .done (s.updRegs fun r => r.loadTile tile mode [] []))

/-- `mld` (R182). -/
def execMld (tile a : Nat) (mode : TileType) (s : State) : Out :=
  let dbl := decide (mode = .fp64)
  let addr := (s.regs.s a).toNat
  let n := if dbl then 8192 else 4096
  s.matx { ops := [.tile tile (if dbl then 2 else 1), .s a 1 true], spec := false }
    (matRange s.regs addr n kRead)
    (if (tile :: s.regs.members tile).any s.wave.tileBusy || (dbl && s.wave.tileBusy (tile + 1)) then
       .wait 6 tile
     else if s.wave.tlFull then .wait 8 0
     else s.capture addr n fun bs =>
       .done (s.issueOp { kind := .mld, tile := tile, mode := mode, pair := dbl, data := bs }))

/-! ### mst -/

/-- Bytes of an output element (R183). -/
def mstBytes : MFmt → Nat
  | .f64 => 8
  | .f32 | .e8m10 => 4
  | .bf16 | .f16 | .i16 | .n16 => 2
  | _ => 1

/-- How `mst` turns an element of a tile type into an output format (R183): none for a pairing that is not
admitted. -/
def mstConvert (ty : TileType) (fm : MFmt) (rm : Rnd) (sat : Bool) : Option (Nat → FRes) :=
  let conv := fun (pair : Nat) (sat : Bool) => some fun x => convertElem pair rm sat x
  match ty, fm with
  | .fp32, .f32 | .fp64, .f64 | .int32wrap, .f32 | .int32sat, .f32 => some fun x => { bits := x }
  | .fp32, .e8m10 =>
    some fun x =>
      let y := convertElem 12 rm sat x
      { y with bits := toContainer (.flt .e8m10) y.bits }
  | .fp32, .bf16 => conv 4 sat
  | .fp32, .f16 => conv 2 sat
  | .fp32, .e5m2 => conv 14 sat
  | .fp32, .e4m3 => conv 16 sat
  | .fp32, .e4m3f => conv 18 false
  | .fp64, .f32 => conv 0 sat
  | .int32wrap, .i16 | .int32sat, .i16 => conv 58 false
  | .int32wrap, .n16 | .int32sat, .n16 => conv 59 false
  | .int32wrap, .i8 | .int32sat, .i8 => conv 60 false
  | .int32wrap, .n8 | .int32sat, .n8 => conv 61 false
  | _, _ => none

/-- The lines of a converted tile from an address, each with its poisoned words (R183, R429). -/
def mstLines (addr eb : Nat) (vals : List FRes) (bad : List Bool) : List (Nat × List Byte × List Nat) :=
  let per := 128 / eb
  (List.range (8 * eb)).map fun i =>
    let vs := (vals.drop (i * per)).take per
    let ps := (bad.drop (i * per)).take per
    (addr / 128 + i, vs.flatMap fun v => leBytes eb v.bits,
      ((List.range 32).filter fun w =>
        (List.range per).any fun j =>
          ps.getD j false && decide (j * eb / 4 ≤ w) && decide (w ≤ (j * eb + eb - 1) / 4)))

/-- `mst` (R183): the tile is captured and converted at issue. Output format 0 names an FP64 pair (R14, R25); with another
format the odd tile of a pair is refused in the second stage, which sees the tile's type (R486, log 26). -/
def execMst (d : Nat) (sat : Bool) (tile : Nat) (rnd : GrpRnd) (fm : MFmt) (s : State) : Out :=
  let r := s.regs
  let addr := (r.s d).toNat
  let eb := mstBytes fm
  let ty := (r.tile tile).ty
  let dbl := decide (ty = .fp64)
  let busy := (r.members tile).any s.wave.tileBusy
  s.matx { ops := [.s d 1 true, .tile tile (if fm = .f64 then 2 else 1)], spec := false }
    (matRange r addr (1024 * eb) kWrite)
    (if busy then .wait 6 tile
     else if s.wave.tlFull then .wait 8 0
     else if dbl && decide (tile % 2 = 1) then .trap (mkTrap 0x02 [s.fetchWord, wrd tile])
     else match mstConvert ty fm (grpRnd rnd) sat with
     | none => s.shelfTrap 4
     | some f =>
       let vals := (List.range 1024).map fun k => f (r.elem tile k dbl)
       let bad := (List.range 1024).map fun k => r.elemBad tile k dbl
       let flags := vals.foldl (fun g v => g ||| v.flags) 0
       .done (((s.updRegs fun r => r.raise tile flags).issueOp
         { kind := .mst, fm := fm, tile := tile, pair := dbl, xid := s.fresh, since := s.cycle,
           lines := mstLines addr eb vals bad }).drawn))

/-! ### Status and elements -/

/-- A matrix instruction on a tile that is not busy (R184), speculable when told (R189). -/
def State.onTile (s : State) (p : Plan) (tile : Nat) (body : Res) : Out :=
  s.matx p none (if (s.regs.members tile).any s.wave.tileBusy then .wait 6 tile else body)

/-- `mstat` (R182). -/
def execMstat (d tile : Nat) (s : State) : Out :=
  s.onTile { ops := [.s d 1 false, .tile tile 1], writes := 1 } tile
    (.done (s.updRegs fun r => r.putS d (r.tile tile).statusWord))

/-- `mstat.clr` (R182). -/
def execMstatClr (d tile : Nat) (s : State) : Out :=
  s.onTile { ops := [.s d 1 false, .tile tile 1], spec := false } tile
    (.done (s.updRegs fun r => (r.putS d (r.tile tile).statusWord).onStatus tile fun _ => 0))

/-- `mstat.set` (R182): bits [4:2] and [0]. -/
def execMstatSet (d tile : Nat) (s : State) : Out :=
  s.onTile { ops := [.s d 1 true, .tile tile 1], spec := false } tile
    (.done (s.updRegs fun r => r.onStatus tile fun _ => r.s d &&& 0x1D#32))

/-- The element position of `mtov` and `vtom` for a lane (R182). -/
def tilePos (sb : Word) (l : Nat) : Option Nat :=
  let c := sb.toNat / 2 ^ 16 % 64 + l
  if c < 64 then some (sb.toNat % 16 * 64 + c) else none

/-- The checks that a tile's FP64 type adds to `mtov` and `vtom` (R182): the tile and the vector operand as even
pairs, in the order of the instruction's operands (log 24). -/
def State.pairChecked (s : State) (ops : List Opnd) (k : Res) : Res :=
  (({ ops := ops } : Plan).hold? s.wave s.fetchWord).getD (s.poisonOr (poisonOf s.regs ops) k)

/-- `mtov` (R182): a poisoned element poisons the lane word (R429). -/
def execMtov (d tile b : Nat) (s : State) : Out :=
  let dbl := decide ((s.regs.tile tile).ty = .fp64)
  let n := if dbl then 2 else 1
  let go := fun (r : WaveRegs) =>
    let val := fun l => match tilePos (r.s b) l with | none => 0 | some k => r.elem tile k dbl
    let bad := (lanesOf r.em).filter fun l =>
      match tilePos (r.s b) l with | none => false | some k => r.elemBad tile k dbl
    let r1 := if dbl then r.putV2 d fun l => BitVec.ofNat 64 (val l) else r.putV d fun l => wrd (val l)
    { r1 with vpois := r1.vpois ++ bad.flatMap fun l =>
        (List.range n).map fun i => (r.vkey (d + i) * 64 + l, {}) }
  s.onTile { ops := [.v d 1 false, .tile tile 1, .s b 1 true], writes := n } tile
    (if dbl then s.pairChecked [.v d 2 false, .tile tile 2] (.done (s.updRegs go)) else .done (s.updRegs go))

/-- The registers with an element of a tile, or of a pair, written. -/
def WaveRegs.putElem (r : WaveRegs) (tile k : Nat) (pair : Bool) (x : DWord) : WaveRegs :=
  let r1 := r.setTile tile ((r.tile tile).put k (loWord x))
  if pair then r1.setTile (tile + 1) ((r1.tile (tile + 1)).put k (hiWord x)) else r1

/-- `vtom` (R182). -/
def execVtom (tile a b : Nat) (s : State) : Out :=
  let dbl := decide ((s.regs.tile tile).ty = .fp64)
  let go := fun (r : WaveRegs) =>
    (lanesOf r.em).foldl (fun q l =>
      match tilePos (r.s b) l with
      | none => q
      | some k => q.putElem tile k dbl (if dbl then r.v2 a l else (lane (r.v a) l).setWidth 64)) r
  s.onTile { ops := [.tile tile 1, .v a 1 true, .s b 1 true], spec := false } tile
    (if dbl then s.pairChecked [.tile tile 2, .v a 2 true] (.done (s.updRegs go)) else .done (s.updRegs go))

end Sys2Proof.Machine
end

