-- ==== Sys2Proof/Machine/Engine.lean ====
section
/-! DEFINITION. Accesses by the parties that are not waves: copies, transfers, controllers and the host
(spec/08_memory_model.md R196, R205, R212, R222), and how a failed transfer reaches its wave
(spec/10_copy_fabric.md R264). -/

namespace Sys2Proof.Machine

/-- The outcome of an access by an engine: what it gives, a wait, a failure with its code of R264 and the
other party, an address that does not exist. -/
inductive Got (α : Type) where
  | ok (s : State) (x : α)
  | stall (s : State)
  | fail (s : State) (err : Nat) (other : Word)
  | nowhere (tier addr : Nat)

/-- One after another. -/
def Got.bind {α β : Type} (g : Got α) (k : State → α → Got β) : Got β :=
  match g with
  | .ok s x => k s x
  | .stall s => .stall s
  | .fail s e o => .fail s e o
  | .nowhere t a => .nowhere t a

/-- A byte range cut at granules of 32 bytes, one access each. -/
def granReqs (va n : Nat) : List Req :=
  if n = 0 then []
  else (List.range ((va + n - 1) / 32 - va / 32 + 1)).map fun i =>
    let a := if i = 0 then va else (va / 32 + i) * 32
    { lane := 0, va := a, n := min (va + n) ((a / 32 + 1) * 32) - a }

/-- A party that accesses memory for a context, with its identity word. -/
structure Actor where
  party : Party
  ident : Word
  core  : Nat
  ctx   : Nat

/-- The error code of a translation fault (R264). -/
def errOf (code : Nat) : Nat := if code = 0x08 then 3 else if code = 0x09 then 4 else 5

/-- Translation and tag check of accesses by an engine (R212, R225): their places. A lack of reader tags is
a tag conflict too. -/
def State.engineCheck (s : State) (p : Actor) (kind : Nat) (write : Bool) (rs : List Req) :
    Got (List Place) :=
  if rs.any fun r => decide (2 ^ 57 < r.va + r.n) then .fail s 4 0xFFFFFFFF#32
  else
    match s.accept p.party p.core p.ctx write false rs with
    | .nowhere t a => .nowhere t a
    | .wait s1 => .stall s1
    | .fail s1 code _ _ => .fail s1 (errOf code) 0xFFFFFFFF#32
    | .ok s1 ps =>
      match s1.clash p.party p.ctx kind ps with
      | some (.conflict t, _) => .fail s1 2 t.ident
      | some (.capacity ts, _) => .fail s1 2 ((lowestTag ts).map Tag.ident |>.getD 0)
      | none => if s1.contends p.party p.ctx kind ps then .stall s1 else .ok s1 ps

/-- The state with the tags of an engine's access recorded (R212) and its requests passed to the L2; a copy has no region,
and its tags hold 0 for one (log 54). -/
def State.engineTouch (s : State) (p : Actor) (kind : Nat) (ps : List Place) : State :=
  (s.recordTags { party := p.party, ident := p.ident, kind := kind, region := 0 } p.ctx ps).l2Touch
    p.core p.ctx true ps

/-- The bytes at places. -/
def State.placeBytes (s : State) (ps : List Place) : List Byte :=
  ps.flatMap fun x => s.readTier x.tier x.pa x.req.n

/-- The cells that a list of bytes fills at places. -/
def placeCells : List Place → List Byte → List (Nat × Nat × Byte)
  | [], _ => []
  | x :: xs, bs =>
    ((bs.take x.req.n).mapIdx fun i b => (x.tier, x.pa + i, b)) ++ placeCells xs (bs.drop x.req.n)

/-- A read of the global space by an engine; poisoned data fails with err 13 (R429). -/
def State.engineRead (s : State) (p : Actor) (va n : Nat) : Got (List Byte) :=
  (s.engineCheck p kCopyRead false (granReqs va n)).bind fun s ps =>
    if ps.any fun x => s.poisonAt x.tier x.pa then .fail s 13 0xFFFFFFFF#32
    else .ok (s.engineTouch p kCopyRead ps) (s.placeBytes ps)

/-- A write of the global space by an engine. -/
def State.engineWrite (s : State) (p : Actor) (va : Nat) (bs : List Byte) : Got Unit :=
  (s.engineCheck p kCopyWrite true (granReqs va bs.length)).bind fun s ps =>
    .ok ((s.engineTouch p kCopyWrite ps).writeCells (placeCells ps bs)) ()

/-- Pieces of a byte range, cut at lines of 128 bytes. -/
def linePieces (a n : Nat) : List (Nat × Nat) :=
  if n = 0 then []
  else (List.range ((a + n - 1) / 128 - a / 128 + 1)).map fun i =>
    let b := if i = 0 then a else (a / 128 + i) * 128
    (b, min (a + n) ((b / 128 + 1) * 128) - b)

/-- A read of a block's scratchpad by a transfer with an identity word, line by line (R214, R215). -/
def State.padFetch (s : State) (bk word : Nat) : List (Nat × Nat) → Got (List Byte)
  | [] => .ok s []
  | (a, n) :: rest =>
    let b := s.blockAt bk
    match b.padRead word (a / 128) with
    | .stall => .stall s
    | .conflict f => .fail s.drawn 2 (s.foeWord f)
    | .ok b1 =>
      if b.spois.any fun w => decide (a < 4 * w + 4) && decide (4 * w < a + n) then
        .fail s 13 0xFFFFFFFF#32
      else
        (State.padFetch (s.updBlock bk fun _ => b1) bk word rest).bind fun s bs =>
          .ok s (b.scratch.readList a n ++ bs)

/-- Bytes at consecutive addresses as cells. -/
def cellsAt (a : Nat) (bs : List Byte) : List (Nat × Byte) := bs.mapIdx fun i b => (a + i, b)

/-- An arrival of bytes within one line at a block (R214, R217). -/
def State.padArrive (s : State) (bk : Nat) (x : Xfer) (a : Nat) (bs : List Byte) : Got Unit :=
  match (s.blockAt bk).arrive x (a / 128) (cellsAt a bs) with
  | .ok b => .ok (s.updBlock bk fun _ => b) ()
  | .held => .stall s
  | .conflict o => .fail s 1 (s.ownerWord o)

/-! ### Failures of transfers -/

/-- A pending trap put among the others: copies in the order of their issue (R373). -/
def insertPend (t : PendTrap) : List PendTrap → List PendTrap
  | [] => [t]
  | u :: us =>
    if t.rank = 3 && decide (u.rank = 3) && decide (t.handle / 256 < u.handle / 256) then t :: u :: us
    else u :: insertPend t us

/-- The asynchronous trap of a transfer's failure (R264, R376). -/
def copyTrap (handle err status : Nat) (peer other : Word) : TrapRec :=
  { code := if err = 7 then 0x31 else 0x30, async := true
    info := [0, 0, wrd handle, wrd status, peer, if err ≤ 2 then other else 0] }

/-- The state with the failure of an `rget` or `rput` delivered to its wave (R264, R278): an asynchronous trap, to a
draining wave at once (R41). -/
def State.failTransfer (s : State) (w err status : Nat) (peer other : Word) : State :=
  s.updWave w fun v =>
    if v.alive then
      { v with pend := insertPend { trap := copyTrap 0 err status peer other, held := v.final, access := true } v.pend }
    else v

/-- The state with a copy's failure delivered to its wave (R264): an asynchronous trap, or the launch's
record when the wave has exited. -/
def State.failWave (s : State) (w : Nat) (handle err status : Nat) (peer other : Word) : State :=
  let wv := s.waveAt w
  if wv.alive && !wv.final then
    s.updWave w fun v =>
      { v with pend := insertPend { trap := copyTrap handle err status peer other, handle := handle } v.pend }
  else
    s.updLaunch wv.launch fun l => { l with copyFail := l.copyFail <|> some (handle, status) }

/-- The rank of the context that a wave belongs to. -/
def State.rankOf (s : State) (ctx : Nat) : Nat := (s.ctxAt ctx).rank

/-- Whether traffic can reach a peer (R274): its link is up, or a third rank of the job with its link up
gives a detour. -/
def State.reaches (s : State) (ctx peer : Nat) : Bool :=
  !s.lostRanks.contains peer &&
    (!s.linksDown.contains peer ||
      (s.ctxAt ctx).peers.any fun r =>
        decide (r ≠ peer) && !s.linksDown.contains r && !s.lostRanks.contains r)

end Sys2Proof.Machine
end

