-- ==== Sys2Proof/Machine/Report.lean ====
section
/-! DEFINITION. What the package writes for its owner: the error log (spec/19_recovery.md R431) and the event
rings of contexts (spec/17_host.md R410). The rings lie in HBM4 and in the context's space. -/

namespace Sys2Proof.Machine

/-- Classes of the error log (R431). -/
inductive ErrClass where
  | corrected | poisoned | matrixReset | bankFenced | partitionLost | portDown | detour | linkLost | rankLost
  deriving DecidableEq, Repr

/-- The number of a class (R431). -/
def ErrClass.code : ErrClass → Nat
  | .corrected => 1 | .poisoned => 2 | .matrixReset => 3 | .bankFenced => 4 | .partitionLost => 5
  | .portDown => 6 | .detour => 7 | .linkLost => 8 | .rankLost => 9

/-- No context (R431). -/
def noCtx : Nat := 0xFFFFFFFF

/-- The state with bytes of HBM4 written that lie below its size. -/
def State.writeDevice (s : State) (pa : Nat) (bs : List Byte) : State :=
  if exists? 0 pa bs.length then s.writeCells (bs.mapIdx fun i b => (0, pa + i, b)) else s

/-- The state with a record of the error log written (R431); a size of 0 disables the ring. -/
def State.errRecord (s : State) (cl : ErrClass) (die unit ctx phys extra : Nat) : State :=
  if s.errSize = 0 then s
  else
    let a := s.errBase.toNat + 32 * (s.errCnt % s.errSize)
    let bs := leBytes 8 s.cycle ++ leBytes 2 cl.code ++ leBytes 1 die ++ leBytes 1 unit ++
      leBytes 4 ctx ++ leBytes 8 phys ++ leBytes 8 extra
    { s.writeDevice a bs with errCnt := (s.errCnt + 1) % 2 ^ 32 }

/-- The state with a CORRECTED record of its own for an address. -/
def State.newCorr (s : State) (die ctx phys : Nat) : State :=
  if s.errSize = 0 then s
  else { s.errRecord .corrected die 0 ctx phys 0 with corrs := tset s.corrs phys (s.errCnt, s.cycle, 0) }

/-- The state with a corrected error counted (R428, R431): merged into the last record of its address, when that is no
older than 2^20 clocks and still in the ring, else in a record of its own. -/
def State.corrRecord (s : State) (die ctx phys : Nat) : State :=
  match tfind? s.corrs phys with
  | some (n, at_, k) =>
    if s.cycle ≤ at_ + 2 ^ 20 && decide ((s.errCnt + 2 ^ 32 - n) % 2 ^ 32 ≤ s.errSize) then
      { s.writeDevice (s.errBase.toNat + 32 * (n % s.errSize) + 24) (leBytes 8 (k + 1)) with
        corrs := tset s.corrs phys (n, at_, k + 1) }
    else s.newCorr die ctx phys
  | none => s.newCorr die ctx phys

/-- The die of a logical core (R340). -/
def State.dieOf (s : State) (core : Nat) : Nat := (tget s.remap core 0).toNat / 256 % 16

/-- A partition as a party identity word (R375). -/
def partIdent (core part : Nat) : Nat := core * 2 ^ 22 + part * 2 ^ 19

/-! ### The host party in a context's space -/

/-- A byte range cut at pages of 4 KiB, the smallest page of the host (R392): address and bytes of each part. -/
def pieces (a n : Nat) : List (Nat × Nat) :=
  if n = 0 then []
  else (List.range ((a + n - 1) / 4096 - a / 4096 + 1)).map fun i =>
    let b := if i = 0 then a else (a / 4096 + i) * 4096
    (b, min (a + n) ((b / 4096 + 1) * 4096) - b)

/-- The translation of an address of a context's space for what acts as the host party (R402): the valid, tier and write
bits hold, private memory is no bar. -/
def State.look (s : State) (p : Party) (ctx va : Nat) (write : Bool) : XOut :=
  if 2 ^ 57 ≤ va then .prot else s.translate p ctx va write true

/-- Where a translation ends, when it does so at a place. -/
def XOut.place : XOut → Option (Nat × Nat)
  | .ok t pa _ _ _ _ => some (t, pa)
  | .prot | .ro | .fail _ | .wait _ _ | .nowhere _ _ => none

/-- What a translation waits for. -/
def XOut.waits : XOut → Option (FrbKind × Nat)
  | .wait k page => some (k, page)
  | .ok .. | .prot | .ro | .fail _ | .nowhere _ _ => none

/-- What the translations of ranges wait for (R369). -/
def State.waitsFor (s : State) (p : Party) (ctx : Nat) (write : Bool) (rs : List (Nat × Nat)) : List (FrbKind × Nat) :=
  ((rs.flatMap fun r => pieces r.1 r.2).filterMap fun x => (s.look p ctx x.1 write).waits).eraseDups

/-- The bytes of a range as a party reads them; none when a part of it does not translate. -/
def State.readAs (s : State) (p : Party) (ctx va n : Nat) : Option (List Byte) :=
  (pieces va n).foldr (fun x acc =>
    match (s.look p ctx x.1 false).place, acc with
    | some a, some bs => some (s.readTier a.1 a.2 x.2 ++ bs)
    | _, _ => none) (some [])

/-- The party that waits for the pages of a context's writes. -/
def postParty (ctx : Nat) : Party := .remote ctx 1

/-- The cells that a write to a context's space fills, as far as its pages translate. -/
def State.postCells (s : State) (p : Post) : List (Nat × Nat × Byte) :=
  (pieces p.addr p.bytes.length).flatMap fun x =>
    match (s.look (postParty p.ctx) p.ctx x.1 true).place with
    | some a => ((p.bytes.drop (x.1 - p.addr)).take x.2).mapIdx fun i b => (a.1, a.2 + i, b)
    | none => []

/-- The places of a write to a context's space, one for each part. -/
def State.postPlaces (s : State) (p : Post) : List Place :=
  (pieces p.addr p.bytes.length).filterMap fun x =>
    ((s.look (postParty p.ctx) p.ctx x.1 true).place).map fun a =>
      { req := { lane := 0, va := x.1, n := x.2 }, tier := a.1, pa := a.2, w := true }

/-- The state with a write done, as far as its pages translate, or waiting for its pages (R369). -/
def State.postNow (s : State) (p : Post) : State :=
  if p.dev then s.writeDevice p.addr p.bytes
  else if s.frbWaits (postParty p.ctx) then { s with posts := s.posts ++ [p] }
  else
    match s.waitsFor (postParty p.ctx) p.ctx true [(p.addr, p.bytes.length)] with
    | [] => ((s.l2Touch 48 p.ctx true (s.postPlaces p)).writeCells (s.postCells p)).dropFrb (postParty p.ctx)
    | x :: xs => { s.takeFrb (postParty p.ctx) 48 p.ctx true (x :: xs) with posts := s.posts ++ [p] }

/-- A write of the package for a context: it comes after the context's earlier ones (R403, R410). -/
def State.post (s : State) (p : Post) : State :=
  if s.posts.any fun x => x.ctx = p.ctx then { s with posts := s.posts ++ [p] } else s.postNow p

/-- The state in which the writes that wait have been tried again. -/
def State.retryPosts (s : State) : State := s.posts.foldl State.post { s with posts := [] }

/-- A write of the package to a context's space. -/
def State.hostWrite (s : State) (ctx va : Nat) (bs : List Byte) : State :=
  s.post { ctx := ctx, addr := va, bytes := bs }

/-- A write of a context waits. -/
def State.posting (s : State) (ctx : Nat) : Bool := s.posts.any fun x => x.ctx = ctx

/-- A report of the event ring (R410): type, the cycle of the reading it comes from (otherwise the current
one), finding number, detail, nodes. -/
structure Report where
  type   : Nat
  stamp  : Option Nat := none
  find   : Nat := 0
  detail : Nat := 0
  more   : Bool := false
  nodes  : List (Nat × Nat) := []
  deriving DecidableEq, Repr

/-- The 64 bytes of a report. -/
def Report.bytes (r : Report) (cycle : Nat) : List Byte :=
  let ns := r.nodes.take 5
  leBytes 2 r.type ++ leBytes 1 ns.length ++ leBytes 1 r.more.toNat ++ leBytes 4 r.find ++
    leBytes 8 cycle ++ leBytes 8 r.detail ++
    (List.range 5).flatMap fun i =>
      leBytes 4 (ns.getD i (0, 0)).1 ++ leBytes 4 (ns.getD i (0, 0)).2

/-- The state with a report written to a context's event ring, then the count at its start (R410). -/
def State.report (s : State) (ctx : Nat) (r : Report) : State :=
  let c := s.ctxAt ctx
  let slots := (c.evSize - 64) / 64
  if slots = 0 then s
  else
    let base := c.evBase.toNat
    let s1 := s.hostWrite ctx (base + 64 + 64 * (c.evCount % slots)) (r.bytes (r.stamp.getD s.cycle))
    let s2 := s1.hostWrite ctx base (leBytes 8 (c.evCount + 1))
    s2.updCtx ctx fun c => { c with evCount := c.evCount + 1 }

end Sys2Proof.Machine
end

