-- ==== Sys2Proof/Machine/MatrixEvents.lean ====
section
/-! DEFINITION. Completions of matrix operations (spec/06_matrix.md R170 to R173, R178, R182, R183), the
self-test (R186) and the reset of a partition's engine (R187; spec/19_recovery.md R434, R435). -/

namespace Sys2Proof.Machine

/-! ### Completions -/

/-- A wave's matrix operations without the leading ones that are done: TL falls in issue order (R33). -/
def dropDoneOps : List TileOp → List TileOp
  | [] => []
  | o :: os => if o.done then dropDoneOps os else o :: os

/-- The first operation of a kind that is not done, marked as done, and the list after it. -/
def takeOp (k : TileOpKind) : List TileOp → Option (TileOp × List TileOp)
  | [] => none
  | o :: os =>
    if o.kind = k && !o.done then some (o, { o with done := true } :: os)
    else (takeOp k os).map fun x => (x.1, o :: x.2)

/-- Elements of a packed operand as values. -/
def mvals (m : MFmt) (data : List Byte) (n : Nat) : Array MVal :=
  let d := data.toArray
  ((List.range n).map fun i => mval (fmtM m) (elemBits m d i)).toArray

/-- Elements of a packed integer operand with the NV code. -/
def mints (m : MFmt) (data : List Byte) (n : Nat) : Array (Int × Bool) :=
  let d := data.toArray
  ((List.range n).map fun i => mint m (elemBits m d i)).toArray

/-- The pairs of an output element's products, group by group (R170). -/
def groupsOf {α : Type} (a b : Array α) (z : α) (k i j : Nat) : List (List (α × α)) :=
  (List.range (k / 16)).map fun g => (List.range 16).map fun h =>
    (a.getD (i * k + 16 * g + h) z, b.getD ((16 * g + h) * 64 + j) z)

/-- The 1,024 results of an `mma` of a float class (R170, R171). -/
def mmaFloat (o : TileOp) (bf : MFmt) (bdata : List Byte) (bfac : List Byte) (acc : Nat → Nat) :
    List FRes :=
  let k := kOf o.fm
  let z := MVal.fin false 0 0
  let a := (mvals o.fm o.data (16 * k)).map fun x => if o.nega then x.negate else x
  let b := mvals bf bdata (64 * k)
  let f := if o.pair then fmtF64 else fmtF32
  (List.range 1024).map fun e =>
    let sc := o.factors.map fun fs =>
      ((fs.getD (e / 64) 0).toNat, (bfac.getD (e % 64) 0).toNat)
    floatElem f (if o.pair then 127 else 63) (grpRnd o.rnd) sc (acc e) (groupsOf a b z k (e / 64) (e % 64))

/-- The 1,024 results of an `mma` of an integer class (R172); the NV of t2 codes is not among them. -/
def mmaInt (o : TileOp) (sat : Bool) (bf : MFmt) (bdata : List Byte) (acc : Nat → Nat) : List FRes :=
  let k := kOf o.fm
  let a := (mints o.fm o.data (16 * k)).map fun x => if o.nega then -x.1 else x.1
  let b := (mints bf bdata (64 * k)).map Prod.fst
  (List.range 1024).map fun e => intElem sat (acc e) (groupsOf a b (0 : Int) k (e / 64) (e % 64))

/-- Some operand element is the t2 code that sets NV (R83, R169). -/
def badCode (m : MFmt) (data : List Byte) (n : Nat) : Bool := (mints m data n).any Prod.snd

/-- The columns of a B operand of which a 32-bit unit of its Shelf slots holds elements (R167, R427). -/
def unitColumns (m : MFmt) (u : Nat) : List Nat :=
  let c := mbitsOf m
  let first := 32 * u / c
  (((List.range ((32 * u + 31) / c + 1 - first)).map fun i => first + i).filter fun e => e < 64 * kOf m).map (· % 64)

/-- The result of an `mma` on the registers (R170 to R173); `lo` and `hi` are its Shelf slots. Result
elements that a poisoned element enters are poisoned (R429). -/
def WaveRegs.mmaDone (r : WaveRegs) (o : TileOp) (lo hi : Shelf) : WaveRegs :=
  let bf := lo.fmt.getD o.fm
  let bdata := if o.pair then lo.data ++ hi.data else lo.data
  let k := kOf o.fm
  let acc := fun e => r.elem o.tile e o.pair
  let isInt := decide (5 ≤ mclass o.fm)
  let res := if isInt then mmaInt o (decide ((r.tile o.tile).ty = .int32sat)) bf bdata acc
    else mmaFloat o bf bdata (lo.factors.getD []) acc
  let code := isInt && (badCode o.fm o.data (16 * k) || badCode bf bdata (64 * k))
  let flags := res.foldl (fun g x => g ||| x.flags) (if code then flagNV else 0)
  let arr := res.toArray
  let cols := ((lo.pois ++ hi.pois.map fun u => u + 1024).flatMap (unitColumns bf)).eraseDups
  let bad := fun e => r.elemBad o.tile e o.pair || cols.contains (e % 64)
  let pois := (List.range 1024).filter bad
  let put := fun (r : WaveRegs) (t : Nat) (f : Nat → Word) =>
    r.setTile t { r.tile t with words := tileWords f, pois := pois }
  let r1 := put r o.tile fun e => wrd ((arr.getD e { bits := 0 }).bits)
  let r2 := if o.pair then put r1 (o.tile + 1) fun e => wrd ((arr.getD e { bits := 0 }).bits / 2 ^ 32) else r1
  r2.raise o.tile flags

/-- Whether a wave's engine stands in a reset (R434). -/
def State.engineHung (s : State) (w : Wave) : Bool := (s.engineAt w.core).hang.contains w.part

/-- The state after a wave's first operation of a kind has completed with an effect. -/
def State.completeOp (s : State) (w : Nat) (k : TileOpKind) (f : State → TileOp → State) : Out :=
  let v := s.waveAt w
  if s.engineHung v then .next s
  else match takeOp k v.tileOps with
  | none => .next s
  | some (o, os) => .next ((f s o).updWave w fun v => { v with tileOps := dropDoneOps os })

/-- MMA_COMPLETE (R170 to R173, R178). -/
def execMmaComplete (w : Nat) (s : State) : Out :=
  s.completeOp w .mma fun s o =>
    let v := s.waveAt w
    let b := s.blockAt v.blk
    s.updWave w fun v => v.everyRegs fun r =>
      r.mmaDone o (b.slot v.bank o.slot) (if o.pair then b.slot v.bank (o.slot + 1) else {})

/-- BLOAD_COMPLETE (R182). -/
def execBloadComplete (w : Nat) (s : State) : Out :=
  s.completeOp w .bload fun s o =>
    let p := (s.waveAt w).bank
    let half := fun i : Nat =>
      ({ fmt := some o.fm, data := (o.data.drop (4096 * i)).take 4096, factors := o.factors } : Shelf)
    s.updBlock (s.waveAt w).blk fun b =>
      let t := tset b.shelf (shelfKey p o.slot) (half 0)
      { b with shelf := if o.pair then tset t (shelfKey p (o.slot + 1)) (half 1) else t }

/-- Words of raw tile data: every `step`-th word from word `off`. -/
def rawWords (data : List Byte) (off step : Nat) : Tbl Word :=
  let d := data.toArray
  tileWords fun k => wrd (leNat ((List.range 4).map fun i => d.getD (4 * (k * step + off) + i) 0))

/-- MLD_COMPLETE (R182). -/
def execMldComplete (w : Nat) (s : State) : Out :=
  s.completeOp w .mld fun s o => s.updWave w fun v => v.everyRegs fun r =>
    if o.pair then r.loadTile o.tile o.mode (rawWords o.data 0 2) (rawWords o.data 1 2)
    else r.loadTile o.tile o.mode (rawWords o.data 0 1) []

/-- The transfer of an `mst` (R213, R375). -/
def mstXfer (v : Wave) (o : TileOp) : Xfer :=
  { issuer := v.ident.toNat, kind := 2, word := v.ident.toNat + 0xC0, id := o.xid }

/-- A block with one line of an `mst` written (R183): an OPEN line in place, an EMPTY one as it becomes
FULL; none while it waits, for the line or for an older stall at it that has its `turn` (R214). -/
def Block.mstLine (b : Block) (x : Xfer) (turn : Nat → Bool) (l : Nat × List Byte × List Nat) : Option Block :=
  let st := (b.line l.1).st
  if (st = .empty || decide (st = .opened)) && !turn l.1 then
    match b.arrive x l.1 (cellsAt (128 * l.1) l.2.1) with
    | .ok b1 => some { b1 with spois := b1.spois ++ l.2.2.map fun w => 32 * l.1 + w }
    | _ => none
  else none

/-- The first `mst` among operations whose next line can be written, with the block after it. -/
def mstStep (v : Wave) (b : Block) (turn : Nat → Nat → Bool) : List TileOp → Option (List TileOp × Block)
  | [] => none
  | o :: os =>
    let later := (mstStep v b turn os).map fun x => (o :: x.1, x.2)
    if o.kind = .mst && !o.done then
      match o.lines with
      | [] => later
      | l :: ls =>
        match b.mstLine (mstXfer v o) (turn o.since) l with
        | some b1 => some ({ o with lines := ls, done := ls.isEmpty } :: os, b1)
        | none => later
    else later

/-- A wave of a block that is not on its way to be saved: what is left of an `mst` in the block's record resumes after the
restore (R188). -/
def Wave.resumes (w : Wave) : Bool :=
  match w.life with
  | .resident | .draining | .exited | .removed => true
  | .parking | .parked | .saved => false

/-- MST_LINE_WRITE (R183): one line of an `mst` of a wave, or, resumed after a restore, of one in the block's
record (R188). -/
def execMstLineWrite (w : Nat) (resumed : Bool) (s : State) : Out :=
  let v := s.waveAt w
  let b := s.blockAt v.blk
  let turn := fun since i => s.lineTurn v.blk since [i]
  if s.engineHung v then .next s
  else if resumed then
    if !v.resumes then .next s
    else match mstStep v b turn ((b.msts.filter fun m => m.1 = w).map Prod.snd) with
    | none => .next s
    | some (os, b1) => .next (s.updBlock v.blk fun _ =>
        { b1 with msts := (b.msts.filter fun m => m.1 ≠ w) ++
            (os.filter fun o => !o.done).map fun o => (w, o) })
  else
    match mstStep v b turn v.tileOps with
    | none => .next s
    | some (os, b1) => .next ((s.updBlock v.blk fun _ => b1).updWave w fun v =>
        { v with tileOps := dropDoneOps os })

/-! ### Self-test and reset -/

/-- The state with a bank of a partition fenced and logged (R186). -/
def State.fenceBank (s : State) (core part bank : Nat) : State :=
  let old := tget (s.engineAt core).fences part []
  if old.contains bank then s
  else (s.updEngine core fun c => { c with fences := tset c.fences part (old ++ [bank]) }).errRecord
    .bankFenced (s.dieOf core) part noCtx (partIdent core part) 0

/-- The state with a partition lost when both of its banks are fenced (R435). -/
def State.checkLost (s : State) (core part : Nat) : State :=
  if (tget (s.engineAt core).fences part []).length < 2 || (s.engineAt core).lost.contains part then s
  else (s.updEngine core fun c => { c with lost := c.lost ++ [part] }).errRecord
    .partitionLost (s.dieOf core) part noCtx (partIdent core part) 0

/-- MATRIX_SELF_TEST (R186): the count starts again; a bank that fails is fenced. -/
def execMatrixSelfTest (core part : Nat) (badBank : Option Nat) (s : State) : Out :=
  let s1 := s.updEngine core fun c => { c with mops := tset c.mops part 0 }
  .next (match badBank with
    | none => s1
    | some k => (s1.fenceBank core part k).checkLost core part)

/-- Clocks of the reset of an engine (R434). -/
def resetClocks : Nat := 4096

/-- MATRIX_HANG (R434): the partition's engine is being reset. -/
def execMatrixHang (core part : Nat) (s : State) : Out :=
  .next (s.updEngine core fun c =>
    if c.hang.contains part then c
    else { c with hang := c.hang ++ [part], hangEnd := tset c.hangEnd part (s.cycle + resetClocks) })

/-- The reset of a partition's engine has ended (R434). -/
def State.resetOver (s : State) (core part : Nat) : Bool :=
  let c := s.engineAt core
  c.hang.contains part && decide (tget c.hangEnd part 0 ≤ s.cycle)

/-- A tile has a matrix operation in flight, an `mst` that still writes its lines among them (R187). -/
def Wave.tileInFlight (w : Wave) (t : Nat) : Bool :=
  w.tileOps.any fun o => !o.done && decide (o.kind ≠ .bload) && decide (o.tile ≤ t) &&
    decide (t < o.tile + (if o.pair then 2 else 1))

/-- A tile is live (R187). -/
def Wave.tileLive (w : Wave) (t : Nat) : Bool :=
  let x := w.regs.tile t
  w.tileInFlight t || decide (x.ty ≠ .fp32) || decide (x.status ≠ 0) || !x.pois.isEmpty ||
    x.words.any fun e => decide (e.2 ≠ 0)

/-- The live tiles of a wave as bits (R187, R376). -/
def Wave.liveTiles (w : Wave) : Nat :=
  (List.range 8).foldl (fun m t => if w.tileLive t then m + 2 ^ t else m) 0

/-- The live slots of a block on a partition as bits (R187, R376). -/
def Block.liveSlots (b : Block) (bank : Nat) : Nat :=
  (List.range 32).foldl (fun m i => if (b.slot bank i).fmt.isSome then m + 2 ^ i else m) 0

/-- A wave that a reset of a partition of a logical core's physical core concerns. -/
def State.onPart (s : State) (w : Wave) (core part : Nat) : Bool :=
  decide (s.engineKey w.core = s.engineKey core) && decide (w.part = part) && w.alive && decide (w.life ≠ .saved)

/-- MATRIX_LOST after a reset (R187, R376): the wave's own lost tiles and its block's lost slots. -/
def lostTrap (tiles slots : Nat) : PendTrap :=
  { trap := { mkTrap 0x28 [wrd tiles, wrd slots, 0] with async := true } }

/-- The waves of the blocks that lose a live tile or slot, with what they lose (R187). -/
def State.lostWaves (s : State) (core part : Nat) : List (Nat × Nat × Nat) :=
  s.blocks.flatMap fun x =>
    let b := x.2
    let ks := b.waveKeys
    let here := ks.filter fun k => s.onPart (s.waveAt k) core part
    let slots := (here.map fun k => b.liveSlots (s.waveAt k).bank).foldl (· ||| ·) 0
    if !here.isEmpty && (here.any (fun k => decide ((s.waveAt k).liveTiles ≠ 0)) || decide (slots ≠ 0)) then
      (ks.filter fun k => (s.waveAt k).alive && decide ((s.waveAt k).life ≠ .saved)).map fun k =>
        (k, if here.contains k then (s.waveAt k).liveTiles else 0, slots)
    else []

/-- The state after the reset of a partition's engine (R187): tiles and slots cleared, the lost operations
off TL, MATRIX_LOST pending. A draining wave returns to its handler (R41). What remains of an `mst` in a block's
record (R188) is on no wave's TL and goes on (log 54). -/
def State.resetPart (s : State) (core part : Nat) : State :=
  let lost := s.lostWaves core part
  let blks := ((s.waves.filter fun w => s.onPart w.2 core part).map fun w => w.2.blk).eraseDups
  let s1 := { s with waves := tmap (fun k w =>
    let w1 := if s.onPart w core part then
      ({ w with tileOps := [] } : Wave).everyRegs fun r => { r with tiles := [] }
    else w
    match lost.find? fun x => x.1 = k with
    | none => w1
    | some (_, t, sl) => { w1 with pend := w1.pend ++ [lostTrap t sl] }) s.waves }
  blks.foldl (fun s k => s.updBlock k fun b =>
    { b with shelf := b.shelf.filter fun e =>
        !(decide (s.engineKey (e.1 / 512) = s.engineKey core) && decide (e.1 / 64 % 8 = part)) }) s1

/-- MATRIX_RESET_DONE (R187, R434, R435): the self-test that follows may fence banks. -/
def execMatrixResetDone (core part : Nat) (badBanks : List Nat) (s : State) : Out :=
  if !s.resetOver core part then .next s
  else
  let s1 := (s.resetPart core part).errRecord .matrixReset (s.dieOf core) part noCtx (partIdent core part) 0
  let s2 := s1.updEngine core fun c =>
    { c with hang := c.hang.filter fun p => p ≠ part, mops := tset c.mops part 0 }
  .next ((badBanks.foldl (fun s k => s.fenceBank core part k) s2).checkLost core part)

end Sys2Proof.Machine
end

