-- ==== Sys2Proof/Machine/Sys.lean ====
section
/-! DEFINITION. The SYS instructions (spec/16_contexts.md R383 to R390), the storage service behind `sys`
(spec/17_host.md R411 to R413), and overlays at run time (spec/02_encoding.md R73, R76). -/

namespace Sys2Proof.Machine

/-- `nop` (R384). -/
def execNop (s : State) : Out := s.run {} (.done s)

/-- `trap n` (R384): completing. -/
def execTrap (n : Nat) (s : State) : Out := s.run {} (.after s (mkTrap 0x05 [wrd n]))

/-- `brkpt n` (R384): completing. -/
def execBrkpt (n : Nat) (s : State) : Out := s.run {} (.after s (mkTrap 0x04 [wrd n]))

/-! ### Leaving a handler -/

/-- The return of mode 0 (R385); a wave whose final exit had taken effect goes on draining. -/
def State.tretTo (s : State) : Res :=
  let w := s.wave
  let r := w.regs.leave w.live
  .jump (s.setWave { w with regs := r, life := if w.final then .draining else w.life }) r.pc

/-- `tret` (R385). -/
def execTret (s : State) : Out := s.run { priv := true, spec := false } s.tretTo

/-- `tret.park` (R380, R385): with a request pending the wave parks, and its CP count is dropped; at a quantum's end it
shows reason 28 (R351). -/
def execTretPark (s : State) : Out :=
  s.run { priv := true, spec := false }
    (if s.wave.preq.isSome then
       .stay (s.setWave { s.wave with life := .parking, copies := [] })
         (if s.wave.preq.any fun q => q.source = 1 then 28 else 26) 0
     else s.tretTo)

/-- `tret.kill`: the block is removed (R385), with the code of the trap that the handler serves (R376). -/
def execTretKill (s : State) : Out :=
  s.run { priv := true, spec := false }
    (.stay (s.removeBlock s.wave.blk s.cur (s.regs.tcode.toNat % 256)) 0 0)

/-! ### Service calls -/

/-- The number of the storage service (R413). -/
def storageService : Nat := 0x100

/-- The services installed for a context: the storage service for one that holds a lease (R386, R413). -/
def Ctx.serves (c : Ctx) (n : Nat) : Bool :=
  c.services.contains n || (decide (n = storageService) && !c.leases.isEmpty)

/-- The message of `sys` (R386): context, identity, sB, `em`, W, then four words of each active lane. -/
def State.sysMessage (s : State) (a b : Nat) : List Nat :=
  let r := s.regs
  [s.launch.ctx, s.wave.ident.toNat, (r.s b).toNat, r.em.toNat, s.wave.width] ++
    (lanesOf r.em).flatMap fun l => (List.range 4).map fun i => (lane (r.v (a + i)) l).toNat

/-- A storage command as a lane gives it (R413). -/
structure StorageArg where
  op    : Nat
  lease : Nat
  nblk  : Nat
  blk   : Nat
  buf   : Nat
  rsvd  : Nat
  deriving DecidableEq, Repr

/-- The command in a lane's four argument words (R413). -/
def storageArg (r : WaveRegs) (a l : Nat) : StorageArg :=
  let x := (lane (r.v a) l).toNat
  { op := x % 256, lease := x / 2 ^ 8 % 64, nblk := x / 2 ^ 16 + 1, blk := (lane (r.v (a + 1)) l).toNat,
    buf := (r.v2 (a + 2) l).toNat, rsvd := x / 2 ^ 14 % 4 }

/-- Two ranges of blocks overlap. -/
def rangesMeet (a n b m : Nat) : Bool := decide (a < b + m) && decide (b < a + n)

/-- The translations of the pages of a storage command's buffer (R413); a Read writes it. -/
def State.bufferPages (s : State) (x : StorageArg) (c : StorageCmd) : List XOut :=
  if x.op = 1 || x.op = 2 then
    (List.range ((c.count * Config.blockBytes c.drive c.nsid + 4095) / 4096)).map fun i =>
      s.translate (.wave s.cur) c.ctx (x.buf + 4096 * i) (x.op = 1) false
  else []

/-- A translation that has been found. -/
def XOut.found : XOut → Bool
  | .ok .. => true
  | .prot | .ro | .fail _ | .wait _ _ | .nowhere _ _ => false

/-- A REVOKE that has arrived and not yet been taken up covers a range of a lease (R412): commands from the clock after
its arrival on are refused. -/
def State.revokeAtHand (s : State) (ctx lease first count : Nat) : Bool :=
  let arg := fun i => (pairOf (tget s.admNow (2 + 2 * i) 0) (tget s.admNow (3 + 2 * i) 0)).toNat
  s.admBusy && decide ((tget s.admNow 0 0).toNat % 256 = 8) && decide (s.admAt < s.cycle) && decide (arg 0 = ctx) &&
    decide (arg 1 = lease) && rangesMeet (arg 2) (arg 3) first count

/-- The status of a storage command that is not issued (R411 to R413), or the command. Rights are bit 0
for reading and bit 1 for writing (log 13); a Flush needs neither, and a Deallocate the right to write (log 54). -/
def State.storageLease (s : State) (l : Nat) (x : StorageArg) : Nat ⊕ StorageCmd :=
  let c := s.ctxOf
  if x.rsvd ≠ 0 || x.op = 0 || 4 < x.op then .inl 5
  else
    match tfind? c.leases x.lease with
    | none => .inl 1
    | some le =>
      let need : Nat := if x.op = 1 then 1 else if x.op = 3 then 0 else 2
      let whole := decide (x.op = 3)
      if (need = 1 && le.rights % 2 = 0) || (need = 2 && le.rights / 2 % 2 = 0) then .inl 1
      else if !whole && le.count < x.blk + x.nblk then .inl 1
      else
        let first := if whole then le.first else le.first + x.blk
        let count := if whole then le.count else x.nblk
        if (s.revokes.any fun v => v.ctx = s.launch.ctx && v.lease = x.lease &&
            rangesMeet v.first v.count first count) || s.revokeAtHand s.launch.ctx x.lease first count then .inl 2
        else .inr { wave := s.cur, lane := l, ctx := s.launch.ctx, lease := x.lease, first := first, count := count,
                    write := decide (x.op ≠ 1), addr := x.buf, drive := le.drive, nsid := le.nsid }

/-- The status of a storage command that is not issued, its buffer looked at too (R413), or the command. The buffer word
of a Flush or Deallocate is not looked at, though it be nonzero (log 54). -/
def State.storageCheck (s : State) (l : Nat) (x : StorageArg) : Nat ⊕ StorageCmd :=
  match s.storageLease l x with
  | .inl st => .inl st
  | .inr c =>
    if (x.op = 1 || x.op = 2) && (decide (x.buf % 4096 ≠ 0) || !(s.bufferPages x c).all XOut.found) then .inl 4
    else .inr c

/-- What the service cores wait for before they issue a lane's storage command: its buffer's translations, as R369 has it
(R413). -/
def State.storageWaits (s : State) (l : Nat) (x : StorageArg) : List (FrbKind × Nat) :=
  match s.storageLease l x with
  | .inl _ => []
  | .inr c =>
    if x.buf % 4096 ≠ 0 then []
    else (s.bufferPages x c).filterMap fun y => match y with | .wait k p => some (k, p) | _ => none

/-- The state with what the buffers of storage commands wait for asked for; it is the service cores that wait, whose
entries are in no core's buffer. -/
def State.awaitBuffers (s : State) (a : Nat) (ls : List Nat) : State :=
  ls.foldl (fun s l =>
    let x := storageArg s.regs a l
    s.takeFrb (.wave s.cur) 48 s.launch.ctx (x.op = 1)
      ((s.storageWaits l x).eraseDups.filter fun y =>
        !s.frb.any fun e => e.party = .wave s.cur && e.kind = y.1 && e.page = y.2 && e.answer.isNone)) s

/-- Bytes of the buffer of a storage command. -/
def StorageCmd.size (c : StorageCmd) : Nat := c.count * Config.blockBytes c.drive c.nsid

/-- A granule of a range of a context's space is poisoned, as a party reads it. -/
def State.rangePoison (s : State) (p : Party) (ctx va n : Nat) : Bool :=
  (pieces va n).any fun x =>
    match (s.look p ctx x.1 false).place with
    | some a => (List.range x.2).any fun i => s.poisonAt a.1 (a.2 + i)
    | none => false

/-- What goes to the drive (R411, R413): op, attach point, namespace, first block, blocks; of a Write, whether its data is
poisoned (EP = 1, R429) and the data. -/
def State.storageMessage (s : State) (x : StorageArg) (c : StorageCmd) : List Nat :=
  let le := tfind? s.ctxOf.leases x.lease
  let p := Party.wave s.cur
  let data := if x.op = 2 then
    (s.rangePoison p c.ctx c.addr c.size).toNat :: ((s.readAs p c.ctx c.addr c.size).getD []).map BitVec.toNat else []
  [x.op, c.drive, (le.map Lease.nsid).getD 0, c.first, c.count] ++ data

/-- The storage service takes the active lanes' commands in ascending order (R413). -/
def State.storageIssue (s : State) (a : Nat) : List Nat → State
  | [] => s
  | l :: ls =>
    let x := storageArg s.regs a l
    let s1 := match s.storageCheck l x with
      | .inl st => s.setWave { s.wave with sysRes := s.wave.sysRes ++ [(l, st, 0)] }
      | .inr c => { s with storage := s.storage ++ [c],
                           outbox := s.outbox ++ [.storage l s.cur (s.storageMessage x c)] }
    State.storageIssue s1 a ls

/-- `sys` (R302, R386): one message, and a wait at the instruction for the reply. -/
def execSys (d a b : Nat) (s : State) : Out :=
  s.run { ops := [.v d 4 false, .v a 4 true, .s b 1 true], spec := false }
    (if s.regs.em = 0 then .done s
     else if s.wave.sysWait.isSome then .wait 22 0
     else
       let n := (s.regs.s b).toNat
       let ls := lanesOf s.regs.em
       let s1 := s.setWave { s.wave with sysWait := some (n, d), sysRes := [] }
       if n = storageService && s.ctxOf.serves n then
         if s.frbWaits (.wave s.cur) then .wait 22 0
         else if ls.any fun l => !(s.storageWaits l (storageArg s.regs a l)).isEmpty then
           .stay (s.awaitBuffers a ls) 22 0
         else .stay ((s1.storageIssue a ls).dropFrb (.wave s.cur)) 22 0
       else if s.ctxOf.serves n then
         .stay { s1 with outbox := s1.outbox ++ [.sysCall s.cur (s.sysMessage a b)] } 22 0
       else .stay s1 22 0)

/-! ### System registers -/

/-- The registers that any wave reads (R387). -/
def sysAny (n : Nat) : Bool := [18, 21, 22, 23, 24].contains n

/-- The registers that a privileged wave writes (R387). -/
def sysWritable (n : Nat) : Bool :=
  [1, 2, 3, 12, 13, 14, 15, 16, 17, 18, 21].contains n || (decide (32 ≤ n) && decide (n < 80)) ||
    (decide (96 ≤ n) && decide (n < 104))

/-- Half `h` of a 64-bit value. -/
def halfOf (x : DWord) (h : Nat) : Word := if h % 2 = 0 then loWord x else hiWord x

/-- A 64-bit value with half `h` replaced. -/
def setHalf (x : DWord) (h : Nat) (v : Word) : DWord :=
  if h % 2 = 0 then pairOf v (hiWord x) else pairOf (loWord x) v

/-- Entry `i` of the mask stack, counted from the bottom (R387). -/
def WaveRegs.fromBottom (r : WaveRegs) (i : Nat) : Option (Mask × Pc) := r.stack.reverse[i]?

/-- The counters in the layout of R53. -/
def Wave.counters (w : Wave) : Nat :=
  w.loads.length * 2 ^ 15 + w.stores.length * 2 ^ 10 + w.copies.length * 2 ^ 5 + w.tileOps.length

/-- The value of a system register (R387). -/
def State.sysRead (s : State) (n : Nat) : Word :=
  let w := s.wave
  let r := w.regs
  if n = 0 then r.tcode
  else if n = 1 then r.tpc
  else if n < 4 then halfOf r.tem n
  else if n < 12 then r.tinfo.getD (n - 4) 0
  else if n = 12 then r.trapen
  else if n = 13 then wrd r.stack.length
  else if n = 14 then r.wdctl
  else if n = 15 then wrd r.progcnt
  else if n < 18 then halfOf r.exited n
  else if n = 18 then wrd r.wbase
  else if n < 21 then halfOf w.savebase (n + 1)
  else if n = 21 then r.ctxS 16
  else if n = 22 then wrd s.launch.predl
  else if n = 23 then wrd s.launch.ctx
  else if n = 24 then wrd w.counters
  else if n < 64 then
    match r.fromBottom ((n - 32) / 2) with | none => 0 | some e => halfOf e.1 n
  else if n < 80 then
    match r.fromBottom (n - 64) with | none => 0 | some e => pcWord e.2
  else tget r.sregs (n - 96 + 120) 0

/-- `rdsys` (R387). -/
def execRdsys (d n : Nat) (s : State) : Out :=
  s.run { priv := !sysAny n, ops := [.s d 1 false] ++ (if 96 ≤ n then [.user (n - 96)] else [])
          writes := 1, sysreg := n }
    (.done (s.updRegs fun r => r.putS d (s.sysRead n)))

/-- The stack with a new depth (R291): a lower one discards entries, a higher one exposes zeros. -/
def setDepth (st : List (Mask × Pc)) (d : Nat) : List (Mask × Pc) :=
  let n := min d 16
  if n ≤ st.length then st.drop (st.length - n) else List.replicate (n - st.length) (0, 0) ++ st

/-- The stack with the entry `i` from the bottom changed, if there is one. -/
def setFromBottom (st : List (Mask × Pc)) (i : Nat) (f : Mask × Pc → Mask × Pc) : List (Mask × Pc) :=
  ((st.reverse).modify i f).reverse

/-- The bound of the private limit (R23). -/
def privBound (privstride width : Nat) : Nat := min (2 ^ 24) (privstride / (4 * width))

/-- The registers after a write of a system register (R387); `width` and `bound` are the wave's. A write of half a mask of
the stack leaves the pc recorded with its entry, which MSPCi alone writes (R291; log 54). -/
def WaveRegs.sysWrite (r : WaveRegs) (width bound n : Nat) (v : Word) : WaveRegs :=
  if n = 1 then { r with tpc := v &&& 0x3FFFC#32 }
  else if n < 4 then { r with tem := setHalf r.tem n v }
  else if n = 12 then { r with trapen := v &&& 1#32 }
  else if n = 13 then { r with stack := setDepth r.stack v.toNat }
  else if n = 14 then { r with wdctl := v &&& 0x7F#32 }
  else if n = 15 then { r with progcnt := v.toNat }
  else if n < 18 then
    let x := r.exited ||| (setHalf 0 n v &&& widthMask width)
    { r with exited := x, em := r.em &&& ~~~x }
  else if n = 18 then { r with wbase := v.toNat % 64 }
  else if n = 21 then { r with ctxs := tset r.ctxs 16 (wrd (min v.toNat bound)) }
  else if n < 64 then
    { r with stack := setFromBottom r.stack ((n - 32) / 2) fun e => (setHalf e.1 n v, e.2) }
  else if n < 80 then
    { r with stack := setFromBottom r.stack (n - 64) fun e => (e.1, v.setWidth 18) }
  else { r with sregs := tset r.sregs (n - 96 + 120) v, spois := terase r.spois (n - 96 + 120) }

/-- `wrsys` (R387): a register that is only read raises PRIVILEGE. -/
def execWrsys (a n : Nat) (s : State) : Out :=
  s.run { priv := true, ops := [.s a 1 true], spec := false, sysreg := n }
    (if !sysWritable n then .trap (mkTrap 0x03 [s.fetchWord, wrd n])
     else .done (s.updRegs fun r =>
       r.sysWrite s.wave.width (privBound s.launch.privstr s.wave.width) n (r.s a)))

/-! ### Pre-emption points, the window, the cycle counter -/

/-- The tiles with a matrix operation in flight (R378). -/
def Wave.busyTiles (w : Wave) : Nat :=
  (List.range 8).foldl (fun m t =>
    if w.tileOps.any fun o => !o.done && decide (o.kind ≠ .bload) && decide (o.tile ≤ t) &&
        decide (t < o.tile + (if o.pair then 2 else 1)) then m + 2 ^ t else m) 0

/-- PREEMPT of a wave (R376 to R378): the live tiles, whether its deadline has passed, the source. -/
def Wave.preemptTrap (w : Wave) (q : PreReq) (mask cycle : Nat) : PendTrap :=
  let late := decide (q.deadline ≤ cycle)
  let own := if late then 2 ^ w.ntiles - 1 else mask % 2 ^ w.ntiles
  { trap := { mkTrap 0x3C [wrd ((own ||| w.busyTiles) + late.toNat * 256 + q.source * 512)] with
      async := true } }

/-- A PREEMPT is pending already. -/
def Wave.preempting (w : Wave) : Bool := w.pend.any fun t => t.trap.code = 0x3C

/-- `ppoint m` (R377, R384): with a request pending, PREEMPT is taken at the boundary after it. -/
def execPpoint (m : Nat) (s : State) : Out :=
  let w := s.wave
  s.run {} (match w.preq with
    | some q =>
      if w.regs.priv || w.spec.isSome || w.preempting then .done s
      else .done (s.setWave { w with pend := w.pend ++ [w.preemptTrap q m s.cycle] })
    | none => .done s)

/-- `wbase n` (R18, R384). -/
def execWbase (n : Nat) (s : State) : Out :=
  s.runRegs { writes := 1 } fun r => { r with wbase := n }

/-- `rdcyc` (R384). -/
def execRdcyc (d : Nat) (s : State) : Out :=
  s.runRegs { ops := [.s d 2 false], writes := 2 } fun r => r.putS2 d (BitVec.ofNat 64 s.cycle)

/-! ### Overlays -/

/-- A slot of the acting wave's core. -/
def State.slotAt (s : State) (i : Nat) : ImemSlot := tget (s.coreAt s.wave.core).slots i {}

/-- The overlay that a slot holds or, last, is loading (R388, R389). -/
def ImemSlot.holds (x : ImemSlot) : Option Nat :=
  match x.loading.getLast? with
  | some l => some l.1
  | none => x.ov

/-- The bytes at a virtual address, read for the acting wave's overlay image: precise faults as for a
load, then `k`. -/
def State.imageRead (s : State) (va n : Nat) (k : State → List Byte → List Nat → Res) : Res :=
  let rs : List Req := (List.range ((n + 255) / 256)).map fun i => { lane := 0, va := va + 256 * i, n := 1 }
  match s.accept (.wave s.cur) s.wave.core s.launch.ctx false false rs with
  | .nowhere t a => .fault (.noPhysical t a)
  | .fail s1 code qs resp =>
    .trapIn s1 (waveTrap (accessTrap code qs kRead resp))
  | .wait s1 => .stay s1 11 0
  | .ok s1 ps =>
    let bs := ps.flatMap fun x => s1.readTier x.tier x.pa 256
    let bad := (List.range (n / 4)).filter fun i =>
      match ps[i / 64]? with
      | some x => s1.poisonAt x.tier (x.pa + 4 * (i % 64))
      | none => false
    k s1 (bs.take n) bad

/-- A little-endian field of the directory (R73). -/
def field (bs : List Byte) (off n : Nat) : Nat := leNat ((bs.drop off).take n)

/-- Bytes as instruction words. -/
def toWords : Nat → List Byte → List Word
  | 0, _ => []
  | n + 1, bs => BitVec.ofNat 32 (leNat (bs.take 4)) :: toWords n (bs.drop 4)

/-- PROTECTION of an overlay instruction. -/
def ovTrap (x : Word) : Res := .trap (jumpTrap x)

/-- Words of the directory read by the acting wave; a poisoned one is trapped, as the instruction computes with it
(R429). -/
def State.directoryRead (s : State) (va n : Nat) (k : State → List Byte → Res) : Res :=
  s.imageRead va n fun s bs bad =>
    match bad with
    | [] => k s bs
    | i :: _ => s.poisonOr (some (poisonTrap 0 { addr := BitVec.ofNat 64 (va + 4 * i) })) (k s bs)

/-- The directory entry of overlay `n` of the acting wave's launch, checked against its kernel record
(R73): offset, size, first entry and number of entries. -/
def State.directory (s : State) (n : Nat) (x : Word)
    (k : State → Nat → Nat → Nat → Nat → Res) : Res :=
  let l := s.launch
  s.directoryRead l.ovimg 16 fun s h =>
    if field h 0 4 ≠ l.ovs.length then ovTrap x
    else s.directoryRead (l.ovimg + 16 + 16 * n) 16 fun s e =>
      if ((l.ovs[n]?).map Prod.fst).getD 0 < field e 4 4 then ovTrap x
      else k s (field e 0 4) (field e 4 4) (field e 8 4) (field e 12 2)

/-- `ovload` (R388): the load takes effect in its slot with OVERLAY_LOAD_COMPLETE (R76). -/
def execOvload (t a : Nat) (s : State) : Out :=
  let x := s.regs.s a
  let n := x.toNat
  s.run { priv := decide (t = s.launch.hs), ops := [.s a 1 true], spec := false }
    (if s.launch.ovs.length ≤ n then ovTrap x
     else s.directory n x fun s off size _ _ =>
       s.imageRead (s.launch.ovimg + off) size fun s bs bad =>
         .done (s.updCore s.wave.core fun c =>
           let sl := tget c.slots t {}
           let sl1 := { sl with loading := sl.loading ++ [(n, toWords (size / 4) bs, bad)] }
           { c with slots := tset c.slots t sl1 }))

/-- The number of the overlay that a wave executes; the handler image has none (log 9). -/
def State.ownOverlay (s : State) : Nat :=
  match (s.slotAt (s.regs.pc.toNat / 2 ^ 16)).ov with
  | some n => if n < 256 then n else Config.handlerOverlay.toNat
  | none => 0

/-- `ovcall` (R389). An offset of the directory that is no multiple of 4 goes to the pc as it is (log 54). -/
def execOvcall (d a : Nat) (s : State) : Out :=
  let x := s.regs.s a
  let n := x.toNat / 2 ^ 8 % 256
  let e := x.toNat % 256
  s.run { ops := [.s d 1 false, .s a 1 true], spec := false, writes := 1 }
    (match (List.range 4).find? fun i =>
        decide ((s.slotAt i).ov = some n) && (s.slotAt i).loading.isEmpty ||
          (s.slotAt i).loading.any fun l => l.1 = n with
     | none => ovTrap x
     | some i =>
       if !(s.slotAt i).loading.isEmpty then .wait 23 i
       else s.directory n x fun s _ size first cnt =>
         if cnt ≤ e then ovTrap x
         else s.directoryRead (s.launch.ovimg + 16 + 16 * s.launch.ovs.length + 4 * (first + e)) 4 fun s b =>
           let off := field b 0 4
           if size ≤ off then ovTrap x
           else
             let link := wrd (s.ownOverlay * 2 ^ 24 + (nextPc s.regs.pc).toNat)
             .jump (s.updRegs fun r => r.putS d link) (BitVec.ofNat 18 (i * 2 ^ 16 + off)))

/-- `ovret` (R389). -/
def execOvret (a : Nat) (s : State) : Out :=
  let x := s.regs.s a
  s.run { ops := [.s a 1 true], spec := false }
    (if (s.slotAt (x.toNat / 2 ^ 16 % 4)).holds = some (x.toNat / 2 ^ 24) &&
        decide (x.toNat / 2 ^ 18 % 64 = 0) && decide (x.toNat % 4 = 0) then .jump s (x.setWidth 18)
     else ovTrap x)

end Sys2Proof.Machine
end

