-- ==== Sys2Proof/Machine/Quorum.lean ====
section
/-! DEFINITION. Quorums, collective branches with their speculation, and ordered tickets
(spec/13_collective.md R309 to R332; spec/08_memory_model.md R220). -/

namespace Sys2Proof.Machine

/-! ### Words -/

/-- The member count of an entry (R309). -/
def Quorum.members (e : Quorum) : Nat := e.word.toNat % 2 ^ 18

/-- The clocks of an entry's timeout (R309): µs at 1.4 GHz, 0 acting as 1,048,575. -/
def Quorum.timeout (e : Quorum) : Nat :=
  let t := e.word.toNat / 2 ^ 18 % 2 ^ 20
  (if t = 0 then 1048575 else t) * 1400

/-- The current membership (R311). -/
def Quorum.current (e : Quorum) : Nat := e.members - e.departed

/-- The site word of a collective at the acting wave's pc (R312, R376). -/
def State.site (s : State) (kind : Nat) : Nat :=
  kind * 2 ^ 22 + s.ownOverlay * 2 ^ 14 + s.regs.pc.toNat / 4 % 2 ^ 14

/-- A wave as a member: its identity word, and above it the number by which its package knows it. -/
def State.memberOf (s : State) (k : Nat) : Nat := (s.waveAt k).ident.toNat + k * 2 ^ 32

/-- The entry of a quorum of a context. -/
def State.quorumAt (s : State) (ctx q : Nat) : Quorum := tget (s.ctxAt ctx).quorums q {}

/-- The state with an entry of a context's quorum table changed. -/
def State.setQuorum (s : State) (ctx q : Nat) (e : Quorum) : State :=
  s.updCtx ctx fun c => { c with quorums := tset c.quorums q e }

/-- The state with member state of a wave changed. -/
def State.setMember (s : State) (k slot : Nat) (m : QMember) : State :=
  s.updWave k fun w => { w with quor := tset w.quor slot m }

/-- Member state of the acting wave. -/
def State.member (s : State) (slot : Nat) : QMember := tget s.wave.quor slot {}

/-! ### Messages -/

/-- The state with a message to the agreement unit of a quorum's home (R313). -/
def State.sendHome (s : State) (v : Vote) : State :=
  let home := (s.quorumAt v.ctx v.entry).home
  if home = (s.ctxAt v.ctx).rank then { s with votes := s.votes ++ [v] }
  else { s with outbox := s.outbox ++ [.vote home [v]] }

/-- The home is this package. -/
def State.isHome (s : State) (ctx q : Nat) : Bool := decide ((s.quorumAt ctx q).home = (s.ctxAt ctx).rank)

/-- The state with the votes gathered at an ordinal sent to the home, in one message, once every current member of this
package has voted (R313). -/
def State.sendGathered (s : State) (ctx q k : Nat) : State :=
  let e := s.quorumAt ctx q
  let vs := tget e.gather k []
  if vs.isEmpty || decide (vs.length + e.left < e.bound) then s
  else
    let s1 := s.setQuorum ctx q { e with gather := terase e.gather k, due := terase e.due k }
    { s1 with outbox := s1.outbox ++ [.vote e.home vs] }

/-- The state with a vote or a proxy cast: to the home's agreement unit, elsewhere gathered by the package's own
(R313), which keeps the time of the ordinal from the first of them until they leave (R323, log 34). -/
def State.sendVote (s : State) (v : Vote) : State :=
  if s.isHome v.ctx v.entry then s.sendHome v
  else
    let e := s.quorumAt v.ctx v.entry
    (s.setQuorum v.ctx v.entry { e with
      gather := tset e.gather v.ordinal (tget e.gather v.ordinal [] ++ [v])
      due := if (tfind? e.due v.ordinal).isSome then e.due else tset e.due v.ordinal (s.cycle + e.timeout)
      }).sendGathered v.ctx v.entry v.ordinal

/-- The state after a member of this package has left a quorum that has its home elsewhere: its votes are withdrawn from
those gathered, and an ordinal may be complete without it (R313, R327). -/
def State.leaveGather (s : State) (v : Vote) : State :=
  if s.isHome v.ctx v.entry then s
  else
    let e := s.quorumAt v.ctx v.entry
    let g := (tmap (fun _ vs => vs.filter fun x => decide (x.member ≠ v.member)) e.gather).filter fun x => !x.2.isEmpty
    (g.map Prod.fst).foldl (fun s k => s.sendGathered v.ctx v.entry k)
      (s.setQuorum v.ctx v.entry
        { e with gather := g, due := e.due.filter fun x => (tfind? g x.1).isSome, left := e.left + 1 })

/-- The state with a result to a member (R313). -/
def State.sendResult (s : State) (ctx q member : Nat) (r : VoteRes) : State :=
  let rank := member / 2 ^ 28 % 16
  if rank = (s.ctxAt ctx).rank then { s with results := s.results ++ [(member / 2 ^ 32, q, r)] }
  else { s with outbox := s.outbox ++ [.voteResult rank ctx member q r] }

/-- The state with a result to the members of votes. -/
def State.sendResults (s : State) (ctx q : Nat) (ms : List Nat) (r : VoteRes) : State :=
  ms.foldl (fun s m => s.sendResult ctx q m r) s

/-! ### The home -/

/-- Members of the votes of an ordinal. -/
def Ordinal.voters (o : Ordinal) : List Nat := o.votes.map Prod.fst

/-- The state after an ordinal that all current members have voted at is resolved (R313). -/
def State.tryResolve (s : State) (ctx q k : Nat) : State :=
  let e := s.quorumAt ctx q
  match tfind? e.ords k with
  | none => s
  | some o =>
    if o.mismatch || o.votes.isEmpty || decide (o.votes.length < e.current) then s
    else
      let any := o.votes.any fun v => v.2.2.1
      let all := o.votes.all fun v => v.2.2.1
      let e1 : Quorum := { e with
        ords := terase e.ords k
        proxied := if o.site.isNone then tset e.proxied k (any, all, none) else e.proxied }
      (s.setQuorum ctx q e1).sendResults ctx q o.voters (.resolved k any all o.site)

/-- An ordinal with one more vote; the site of a vote that is no proxy is fixed or checked (R312, R326), and
the timer starts (R323). -/
def Ordinal.add (o : Ordinal) (v : Vote) (due : Nat) : Ordinal :=
  let proxy := decide (v.kind = .proxy)
  let bad := !proxy && o.site.any fun x => x ≠ v.site
  { votes := o.votes ++ [(v.member, v.site, v.value, proxy)]
    site := if proxy then o.site else o.site <|> some v.site
    mismatch := o.mismatch || bad
    deadline := if o.mismatch || bad then 0 else if o.deadline = 0 then due else o.deadline }

/-- A vote or a proxy at the home (R312, R313, R322, R326). A vote at an ordinal that proxies alone have resolved comes
from a collective that consumes its result: the first one fixes the site, and each is answered with it. -/
def State.takeVote (s : State) (v : Vote) : State :=
  let e := s.quorumAt v.ctx v.entry
  match tfind? e.proxied v.ordinal with
  | some (any, all, x) =>
    let site := x.getD v.site
    (s.setQuorum v.ctx v.entry { e with proxied := tset e.proxied v.ordinal (any, all, some site) }).sendResult
      v.ctx v.entry v.member (.resolved v.ordinal any all (some site))
  | none =>
  let o := tget e.ords v.ordinal {}
  let o1 := o.add v (s.cycle + e.timeout)
  let s1 := s.setQuorum v.ctx v.entry { e with ords := tset e.ords v.ordinal o1 }
  if o1.mismatch then
    s1.sendResults v.ctx v.entry (if o.mismatch then [v.member] else o1.voters)
      (.mismatch v.ordinal (o1.site.getD 0))
  else s1.tryResolve v.ctx v.entry v.ordinal

/-- A departure at the home (R327). -/
def State.takeLeave (s : State) (v : Vote) : State :=
  let e := s.quorumAt v.ctx v.entry
  let ords := tmap (fun _ o =>
    if o.mismatch then o else { o with votes := o.votes.filter fun x => x.1 ≠ v.member }) e.ords
  let s1 := s.setQuorum v.ctx v.entry { e with departed := e.departed + 1, ords := ords }
  (ords.map Prod.fst).foldl (fun s k => s.tryResolve v.ctx v.entry k) s1

/-- A loss at the home (R321): it poisons the quorum here and tells the other ranks. -/
def State.takeLoss (s : State) (v : Vote) : State := s.poisonQuorum v.ctx v.entry v.member v.code

/-- The state in which the home knows a member of another rank by a message of it (R321). -/
def State.noteMember (s : State) (v : Vote) (gone : Bool) : State :=
  if v.member / 2 ^ 28 % 16 = (s.ctxAt v.ctx).rank then s
  else
    let e := s.quorumAt v.ctx v.entry
    s.setQuorum v.ctx v.entry { e with
      seen := e.seen.filter (fun m => m.1 ≠ v.member) ++ [(v.member, gone)] }

/-- The members of a quorum on this package whose cast bit is set at an ordinal (R311, R323). -/
def State.castHere (s : State) (ctx q k : Nat) : List Nat :=
  (s.waves.filter fun w => w.2.alive && decide ((s.launchAt w.2.launch).ctx = ctx) &&
    (List.range 4).any fun i =>
      decide (w.2.slotByte i = q) && decide ((tget w.2.quor i {}).ord = k) && (tget w.2.quor i {}).cast).map Prod.fst

/-- The state in which this package knows of a timeout (R323): the cast votes that it gathers are withdrawn, and every
member here with its cast bit set at the ordinal is told. -/
def State.timeoutHere (s : State) (ctx q k n cur : Nat) : State :=
  let e := s.quorumAt ctx q
  let g := (tmap (fun j vs => if j = k then vs.filter fun v => decide (v.kind = .proxy) else vs) e.gather).filter
    fun x => !x.2.isEmpty
  let s1 := s.setQuorum ctx q { e with gather := g, due := terase e.due k }
  { s1 with results := s1.results ++ (s.castHere ctx q k).map fun w => (w, q, VoteRes.timeout k n cur) }

/-- The state after the timer of an ordinal has run out at the home (R323): cast votes are withdrawn, proxies kept, and
every package tells its members. -/
def State.timeOut (s : State) (ctx q k : Nat) : State :=
  let e := s.quorumAt ctx q
  let o := tget e.ords k {}
  let s1 := (s.setQuorum ctx q
    { e with ords := tset e.ords k { o with votes := o.votes.filter fun v => v.2.2.2, deadline := 0 } }).timeoutHere
      ctx q k o.votes.length e.current
  { s1 with outbox := s1.outbox ++ (s1.ctxAt ctx).peers.map fun p =>
      .voteResult p ctx 0 q (.timeout k o.votes.length e.current) }

/-- The state after the time of votes that another package gathered has run out, which the home learns with them (R323):
the ordinal times out unless it has resolved or is mismatched. -/
def State.takeExpiry (s : State) (v : Vote) : State :=
  match tfind? (s.quorumAt v.ctx v.entry).ords v.ordinal with
  | some o => if o.mismatch then s else s.timeOut v.ctx v.entry v.ordinal
  | none => s

/-- The answer to a vote at a poisoned quorum, for another rank that may not know of it (R321). -/
def State.tellPoisoned (s : State) (v : Vote) (p : Nat × Nat) : State :=
  let rank := v.member / 2 ^ 28 % 16
  if rank = (s.ctxAt v.ctx).rank then s
  else { s with outbox := s.outbox ++ [.voteResult rank v.ctx 0 v.entry (.abort v.entry p.1 p.2)] }

/-- VOTE_ARRIVAL (R313): a message reaches the home agreement unit; a poisoned quorum resolves nothing (R321). -/
def execVoteArrival (v : Vote) (s : State) : Out :=
  let s1 := { s with votes := s.votes.erase v }
  .next (match v.kind, (s1.quorumAt v.ctx v.entry).poison with
    | .lost, _ => s1.takeLoss v
    | .leave, _ => (s1.noteMember v true).takeLeave v
    | .cast, some p | .proxy, some p => s1.tellPoisoned v p
    | .expire, some _ => s1
    | .cast, none | .proxy, none => (s1.noteMember v false).takeVote v
    | .expire, none => s1.takeExpiry v)

/-- The ordinals of an entry whose timers have run out at the home. -/
def Quorum.expired (e : Quorum) (cycle : Nat) : List Nat :=
  (e.ords.filter fun o => decide (o.2.deadline ≠ 0) && decide (o.2.deadline ≤ cycle)).map Prod.fst

/-- The ordinals of an entry whose gathered votes have waited for their time (R323). -/
def Quorum.stale (e : Quorum) (cycle : Nat) : List Nat := (e.due.filter fun o => decide (o.2 ≤ cycle)).map Prod.fst

/-- The state with the votes gathered at an ordinal sent to the home, with word that their time has run out (R323). -/
def State.sendStale (s : State) (ctx q k : Nat) : State :=
  let e := s.quorumAt ctx q
  let vs := tget e.gather k []
  let s1 := s.setQuorum ctx q { e with gather := terase e.gather k, due := terase e.due k }
  { s1 with outbox := s1.outbox ++ [.vote e.home (vs ++
      [{ ctx := ctx, entry := q, ordinal := k, kind := .expire, member := (s.ctxAt ctx).rank * 2 ^ 28, site := 0
         value := false, code := 0 }])] }

/-- COLLECTIVE_TIMEOUT (R323). -/
def execCollectiveTimeout (ctx entry : Nat) (s : State) : Out :=
  let s1 := ((s.quorumAt ctx entry).expired s.cycle).foldl (fun s k => s.timeOut ctx entry k) s
  .next (((s1.quorumAt ctx entry).stale s.cycle).foldl (fun s k => s.sendStale ctx entry k) s1)

/-! ### Resolution under speculation -/

/-- The direction that a result gives a collective of a kind (R313, R326). -/
def resTaken : VoteRes → Nat → Bool
  | .resolved _ any all _, kind => if kind = 0 then any else if kind = 1 then all else false
  | .mismatch _ _, _ => false
  | .timeout _ _ _, _ => false
  | .abort _ _ _, _ => false

/-- The ordinal of a result. -/
def resOrdinal : VoteRes → Nat
  | .resolved k _ _ _ => k
  | .mismatch k _ => k
  | .timeout k _ _ => k
  | .abort _ _ _ => 0

/-- A member without its speculation, at a pc after its collective branch (R318). -/
def Wave.goTo (w : Wave) (cycle : Nat) (pc : Pc) : Wave :=
  let v := w.rollBack.awake cycle
  Wave.watched { v with regs := { v.regs with
      pc := pc, retired := v.regs.retired + 1, progcnt := progress v.regs v.regs v.live } }

/-- Validation of the speculative loads in order (R220): each value read again, its tag recorded; none when
a value differs or a tag cannot be recorded. The tags of the first `closed` are retired with their region at once. -/
def State.validate (s : State) (closed : Nat) : List (Place × Nat) → Option State
  | [] => some s
  | (x, v) :: rest =>
    if leNat (s.readTier x.tier x.pa x.req.n) ≠ v then none
    else if (s.clash (.wave s.cur) s.launch.ctx kRead [x]).isSome || s.contends (.wave s.cur) s.launch.ctx kRead [x] then
      none
    else State.validate (if closed = 0 then s.recordTags (s.waveTag kRead) s.launch.ctx [x] else s) (closed - 1) rest

/-- Validation of the speculative loads of OPEN lines (R220, R227): each line still OPEN, each value read again and its
reader recorded; none when that cannot be. -/
def State.validatePeeks (s : State) : List (Req × Nat) → Option State
  | [] => some s
  | (q, v) :: rest =>
    if !s.allOpen [q.va / 128] || decide (leNat (s.block.scratch.readList q.va q.n) ≠ v) then none
    else if q.n = 0 || !s.tracks then State.validatePeeks s rest
    else if !(s.openFoes .r [q]).isEmpty then none
    else State.validatePeeks (s.noteOpen .r [q.va / 128]) rest

/-- What becomes of a held store at the resolution (R220): performed, run again without speculation as its line is no
longer OPEN, or stopped by MM_CONFLICT. -/
inductive Held where
  | ok (s : State)
  | again
  | conflict (t : TrapRec)

/-- A held store performed (R220). -/
def State.performHeld (s : State) (h : HeldStore) : Held :=
  let rs := h.places.map Place.req
  if h.pad then
    if !s.allOpen (linesOf rs) then .again
    else if !s.tracks then .ok ((s.writePad (h.cells.map fun c => (c.2.1, c.2.2))).countStore)
    else match s.openFoes .w rs with
    | (q, f) :: rest => .conflict (s.openTrap (q :: rest.map Prod.fst) kWrite f)
    | [] => .ok (((s.noteOpen .w (linesOf rs)).writePad (h.cells.map fun c => (c.2.1, c.2.2))).countStore)
  else if !s.tracks then .ok ((s.writeCells h.cells).countStore (requests h.places))
  else match s.clash (.wave s.cur) s.launch.ctx kWrite h.places with
  | some (c, qs) => .conflict (clashTrap c qs kWrite)
  | none => if s.contends (.wave s.cur) s.launch.ctx kWrite h.places then .again else
    .ok (((s.recordTags (s.waveTag kWrite) s.launch.ctx h.places).writeCells h.cells).countStore (requests h.places))

/-- The member rolled back to a held store, which then runs without speculation (R220, R318): `n` held
stores before it stand. -/
def Wave.backTo (w : Wave) (h : HeldStore) (n cycle : Nat) : Wave :=
  let loads := (w.loads.filter fun ld => !ld.after n).map fun ld => { ld with spec := none }
  { w.awake cycle with regs := h.before, spec := none, loads := loads }

/-- The held stores performed in order (R318); true when one of them stopped it: the member is back at that store,
where MM_CONFLICT is taken. -/
def State.performAll (s : State) (n : Nat) : List HeldStore → State × Bool
  | [] => (s, false)
  | h :: hs =>
    match s.performHeld h with
    | .ok s1 => State.performAll s1 (n + 1) hs
    | .again => (s.setWave (s.wave.backTo h n s.cycle), true)
    | .conflict t => ((s.drawn.setWave (s.wave.backTo h n s.cycle)).takeTrap t, true)

/-- The end of a speculation whose path was right (R318): a deferred trap is raised at its instruction, or in privileged
mode a WATCHDOG held until `tret` (R373). -/
def State.endSpec (s : State) (sp : Spec) : State :=
  let w := s.wave
  let s1 := s.setWave { w.awake s.cycle with
    spec := none, loads := w.loads.map fun ld => { ld with spec := none } }
  match sp.deferred with
  | none => s1
  | some t =>
    if !w.regs.priv then s1.enterTrap t true
    else if t.code = 0x1A then s1.setWave { s1.wave with pend := w.pend ++ [{ trap := t }] }
    else s1.removeBlock w.blk s.cur t.code

/-- A collective branch resolved with a direction while the acting wave speculates past it (R318). -/
def State.resolveSpec (s : State) (sp : Spec) (taken : Bool) : State :=
  let pc := if taken then sp.taken else sp.fall
  let back := s.setWave (s.wave.goTo s.cycle pc)
  if taken ≠ sp.hint then back
  else match (s.validate sp.closed sp.tracked).bind fun s => s.validatePeeks sp.peeks with
  | none => back
  | some s1 =>
    match s1.performAll 0 sp.held with
    | (s2, true) => s2
    | (s2, false) => s2.endSpec sp

/-- There is room for the held stores of a speculation on ST (R34, R220) and among the core's requests (R13). -/
def State.specRoom (s : State) (w : Wave) (sp : Spec) : Bool :=
  decide (w.stores.length + sp.held.length ≤ 31) &&
    decide (s.coreRequests w.core + (sp.held.map fun h => if h.pad then 0 else requests h.places).sum ≤ 2048)

/-- The acting wave, when it speculates past a collective of which it holds a result: rolled back to it for
a mismatch or a timeout, or where its site is not the ordinal's, which a proxy's vote did not say (R326); resolved
otherwise (R318, R322, R323). -/
def State.useResult (s : State) : State :=
  let w := s.wave
  match w.spec with
  | none => s
  | some sp =>
    let m := tget w.quor sp.slot {}
    match m.res with
    | [] => s
    | .resolved k any all site :: rest =>
      if !s.specRoom w sp then s
      else
        let dir := resTaken (.resolved k any all site) (m.mine / 2 ^ 22)
        if site ≠ some m.mine then s.setWave (w.rollBack.awake s.cycle)
        else (s.setMember s.cur sp.slot { m with res := rest, taken := dir }).resolveSpec sp dir
    | _ => s.setWave (w.rollBack.awake s.cycle)

/-- The slot by which a member takes a result: it names the quorum, and a vote of the member stands at the
ordinal, or its question about the site. -/
def Wave.resultSlot (w : Wave) (q ord : Nat) : Option Nat :=
  (List.range 4).find? fun i =>
    let m := tget w.quor i {}
    decide (w.slotByte i = q) &&
      (decide (m.asking = some ord) || (decide (m.ord = ord) && (m.cast || m.proxy)))

/-- Member state after a result arrives (R313, R322, R323). A timeout keeps proxies: a consumed one is a proxy again
(log 34). -/
def QMember.arrived (m : QMember) (r : VoteRes) : QMember :=
  match r with
  | .resolved k _ _ _ | .mismatch k _ =>
    if m.asking = some k then { m with asking := none, res := r :: m.res }
    else { m with ord := k + 1, cast := false, used := false, res := m.res ++ [r] }
  | .timeout k _ _ =>
    { m with
      cast := false, used := false, proxy := m.proxy || m.used, pord := if m.used then k else m.pord
      res := m.res ++ [r] }
  | .abort _ _ _ => m

/-- A result reaches a member on quorum `q` (R313, R318, R322, R323). -/
def State.memberResult (s : State) (k q : Nat) (r : VoteRes) : State :=
  let w := s.waveAt k
  match w.resultSlot q (resOrdinal r) with
  | none => s
  | some i =>
    if (s.quorumAt (s.launchAt w.launch).ctx q).poison.isSome || !w.alive then s
    else s.setMember k i ((tget w.quor i {}).arrived r)

/-- What a message of the home brings about (R313, R321 to R323): `k` is the member that it is for, or 0 when it is for
every member of the context here. -/
def State.homeResult (s : State) (ctx k q : Nat) (r : VoteRes) : State :=
  match r with
  | .abort e ident code => s.poisonLocal ctx e ident code
  | .timeout n c m => if k = 0 then s.timeoutHere ctx q n c m else s.memberResult k q r
  | .resolved .. | .mismatch .. => s.memberResult k q r

/-- The result whose delivery is due, removed from those on their way. -/
def State.tookResult (s : State) (k q : Nat) (r : VoteRes) : State :=
  { s with results := s.results.erase (k, q, r) }

/-- VOTE_RESULT (R313, R318): a result reaches a member; one that speculates past the collective is resolved,
once there is room for its held stores. -/
def execVoteResult (w : Nat) (q : EntryId) (res : VoteRes) (s : State) : Out :=
  let held := (s.waveAt w).spec.any fun sp => (tget (s.waveAt w).quor sp.slot {}).res.head? = some res
  let s1 := if held then s else (s.tookResult w q.entry res).homeResult q.ctx w q.entry res
  .next { ({ s1 with cur := w } : State).useResult with cur := s.cur }

/-! ### Collectives -/

/-- QUORUM_ABORT of a collective on a poisoned quorum (R316, R376). -/
def poisonedTrap (q : Nat) (p : Nat × Nat) : TrapRec := mkTrap 0x20 [wrd q, wrd p.1, wrd p.2]

/-- The acting wave's vote cast (R314, R316): a release at job scope. -/
def State.castVote (s : State) (slot q site : Nat) (kind : VoteKind) (value : Bool) : State :=
  let m := s.member slot
  let v : Vote :=
    { ctx := s.launch.ctx, entry := q, ordinal := m.ord, kind := kind, member := s.memberOf s.cur
      site := site, value := value, code := 0 }
  (s.setMember s.cur slot
    (if kind = .proxy then { m with proxy := true, pord := m.ord } else { m with cast := true })).sendVote v

/-- Member state after its first result has been taken. -/
def QMember.take (m : QMember) (r : VoteRes) : QMember :=
  { m with res := m.res.drop 1, proxy := m.proxy && decide (m.pord ≠ resOrdinal r) }

/-- The state in which the acting wave asks the home for the site of an ordinal that proxies alone have resolved, by a
vote at it (R326). -/
def State.askSite (s : State) (slot q site : Nat) (r : VoteRes) : State :=
  let m := s.member slot
  (s.setMember s.cur slot { m.take r with asking := some (resOrdinal r), mine := site }).sendHome
    { ctx := s.launch.ctx, entry := q, ordinal := resOrdinal r, kind := .cast, member := s.memberOf s.cur
      site := site, value := false, code := 0 }

/-- A result that the acting wave's collective consumes (R313, R322, R323, R326): `go` with its direction, or
a precise trap. A proxy's vote becomes the collective's own here, which ends the region (R314). -/
def State.consume (s : State) (slot q site : Nat) (r : VoteRes) (go : State → Bool → Res)
    (wait : State → Res) : Res :=
  let m := s.member slot
  let pre := fun k : State → Res => if m.proxy && decide (m.pord = resOrdinal r) then s.releaseAll .job k else k s
  let s1 := s.setMember s.cur slot (m.take r)
  match r with
  | .resolved _ _ _ none => pre fun s => wait (s.askSite slot q site r)
  | .resolved k _ _ (some x) =>
    if x ≠ site then .trapIn s1 (mkTrap 0x21 [wrd q, wrd k, wrd x, wrd site])
    else
      let dir := resTaken r (site / 2 ^ 22)
      pre fun s => go (s.setMember s.cur slot { m.take r with taken := dir }) dir
  | .mismatch k x => .trapIn s1 (mkTrap 0x21 [wrd q, wrd k, wrd x, wrd site])
  | .timeout k n c => .trapIn s1 (mkTrap 0x22 [wrd q, wrd k, wrd n, wrd c])
  | .abort _ _ _ => .wait 19 q

/-- A collective of the acting wave on a slot (R316, R325): its faults; a held result; otherwise the vote or
the proxy of the member, and `wait` for the result. -/
def State.collective (s : State) (kind slot : Nat) (value : Bool) (go : State → Bool → Res)
    (wait : State → Res) : Res :=
  let q := s.wave.slotByte slot
  let m := s.member slot
  let site := s.site kind
  if q = 255 then .trap (jumpTrap 0)
  else match (s.quorumAt s.launch.ctx q).poison with
  | some p => .trap (poisonedTrap q p)
  | none =>
    if m.asking.isSome then wait (s.setMember s.cur slot { m with mine := site })
    else match m.res with
    | r :: _ => s.consume slot q site r go wait
    | [] =>
      if m.cast then wait (s.setMember s.cur slot { m with mine := site })
      else if m.proxy then
        s.releaseAll .job fun s =>
          wait (s.setMember s.cur slot { m with proxy := false, cast := true, used := true, mine := site })
      else
        s.releaseAll .job fun s =>
          wait ((s.setMember s.cur slot { m with mine := site }).castVote slot q site .cast value)

/-- The acting wave runs ahead from the hinted target of its collective branch (R317). -/
def State.speculate (s : State) (slot : Nat) (hint : Bool) (taken : Pc) : Res :=
  let w := s.wave
  let fall := nextPc w.regs.pc
  let v := w.advance w.regs s.cycle 0 (if hint then taken else fall)
  .stay (s.setWave (Wave.watched { v with
    spec := some { base := w.regs, slot := slot, taken := taken, fall := fall, hint := hint } })) 0 0

/-- A collective branch (R315, R316): s`p` is read only for a vote of its own. -/
def State.cbr (s : State) (kind : Nat) (hint : Bool) (slot p off : Nat) : Out :=
  let m := s.member slot
  let votes := m.res.isEmpty && !m.cast && !m.proxy && m.asking.isNone
  let t := target s.regs.pc off
  s.run { ops := [.s p 1 votes], spec := false }
    (s.collective kind slot (decide (s.regs.s p ≠ 0))
      (fun s taken => .jump s (if taken then t else nextPc s.regs.pc))
      fun s => s.speculate slot hint t)

/-- `cbr.any` (R315, R316). -/
def execCbrAny (hint : Bool) (q p off : Nat) (s : State) : Out := s.cbr 0 hint q p off
/-- `cbr.all` (R315, R316). -/
def execCbrAll (hint : Bool) (q p off : Nat) (s : State) : Out := s.cbr 1 hint q p off

/-- `qbar` (R325): it stalls until its ordinal resolves. -/
def execQbar (q : Nat) (s : State) : Out :=
  s.run { spec := false }
    (s.collective 2 q false (fun s _ => .done s) fun s => .stay s 19 (s.wave.slotByte q))

/-- `cvote` (R326). -/
def execCvote (a q : Nat) (s : State) : Out :=
  let e := s.wave.slotByte q
  let m := s.member q
  s.run { priv := true, ops := [.s a 1 true], spec := false }
    (if e = 255 then .trap (jumpTrap 0)
     else if m.proxy || m.cast then .done s
     else match (s.quorumAt s.launch.ctx e).poison with
     | some p => .trap (poisonedTrap e p)
     | none => s.releaseAll .job fun s => .done (s.castVote q e 0 .proxy (decide (s.regs.s a ≠ 0))))

/-- The departure of a wave by one slot (R327). -/
def State.leaveSlot (s : State) (k slot : Nat) : State :=
  let w := s.waveAt k
  let q := w.slotByte slot
  if q = 255 then s
  else
    let s1 := s.updWave k fun w => { w with
      quor := terase w.quor slot
      regs := { w.regs with
        ctxs := tset w.regs.ctxs 11 (w.regs.ctxS 11 ||| (0xFF#32 <<< (8 * slot))) } }
    let v : Vote := { ctx := (s.launchAt w.launch).ctx, entry := q, ordinal := 0, kind := .leave
                      member := s.memberOf k, site := 0, value := false, code := 0 }
    (s1.leaveGather v).sendHome v

/-- `qleave` (R327). -/
def execQleave (q : Nat) (s : State) : Out := s.run { spec := false } (.done (s.leaveSlot s.cur q))

/-- The word of `qstat` (R328). -/
def State.qstatWord (s : State) (slot : Nat) : Word :=
  let q := s.wave.slotByte slot
  let m := s.member slot
  if q = 255 then 0x400000FF#32
  else
    wrd ((s.quorumAt s.launch.ctx q).poison.isSome.toNat * 2 ^ 31 + m.proxy.toNat * 2 ^ 29 +
      m.cast.toNat * 2 ^ 28 + m.taken.toNat * 2 ^ 27 + m.ord % 2 ^ 16 * 2 ^ 8 + q)

/-- `qstat` (R328). -/
def execQstat (d q : Nat) (s : State) : Out :=
  s.run { ops := [.s d 1 false], spec := false }
    (.done (s.updRegs fun r => r.putS d (s.qstatWord q)))

/-! ### Tickets -/

/-- The lowest id of a list. -/
def lowest : List Nat → Option Nat
  | [] => none
  | x :: xs => some ((lowest xs).elim x (min x))

/-- The counter after the passes recorded from it on have taken effect (R330). -/
def runPasses (recorded : List Nat) (c : Nat) : Nat → Nat
  | 0 => c
  | n + 1 => if recorded.contains c then runPasses recorded (c + 1) n else c

/-- A launch after block `b` passes its ticket, or has the pass recorded (R39, R330). -/
def Launch.pass (l : Launch) (b : Nat) : Launch :=
  if l.ordc = b then { l with ordc := runPasses l.recorded (b + 1) (l.recorded.length + 1) }
  else if l.ordc < b then { l with recorded := l.recorded ++ [b] }
  else l

/-- A ticket instruction (R329 to R331): its faults, then `k` with the block's id. -/
def State.ticket (s : State) (k : Nat → Res) : Out :=
  let l := s.launch
  let b := s.wave.blk % 2 ^ 32
  s.run { spec := false }
    (if !l.ordered then .trap (jumpTrap 0)
     else match lowest (l.broken.filter fun x => decide (x < b)) with
     | some x =>
       if s.earlierWoken 18 fun _ w => decide (x < w.blk % 2 ^ 32) then .wait 18 b
       else .trap (mkTrap 0x23 [wrd x, wrd b])
     | none => k b)

/-- `tkwait` (R330): an acquire once the ticket is current. -/
def execTkwait (s : State) : Out :=
  s.ticket fun b =>
    if s.launch.ordc = b && !s.earlierWoken 18 (fun _ w => decide (w.blk = s.wave.blk)) then s.sync .done else .wait 18 b

/-- `tkpass` (R330): a release at package scope. -/
def execTkpass (s : State) : Out :=
  s.ticket fun b =>
    if b < s.launch.ordc then .done s
    else if s.launch.ordc = b && !s.earlierWoken 18 (fun _ w => decide (w.blk = s.wave.blk)) then
      s.releaseAll .pkg fun s => .done ((s.updLaunch s.wave.launch fun l => l.pass b).updBlock s.wave.blk
        fun x => { x with passed := true })
    else .wait 18 b

end Sys2Proof.Machine
end

