-- ==== Sys2Proof/Machine/Crypto.lean ====
section
/-! DEFINITION. The algorithms that the spec names: AES-256-GCM (spec/10_copy_fabric.md R267,
spec/16_contexts.md R382) and SHA-384 (spec/17_host.md R417, spec/19_recovery.md R438), from FIPS 197,
SP 800-38D and FIPS 180-4 (log 11). Byte strings are lists of numbers below 256. -/

namespace Sys2Proof.Machine

/-! ### AES-256 -/

/-- Multiplication by x in GF(2^8). -/
def xtime (a : Nat) : Nat := if 128 ≤ a then (a * 2 ^^^ 0x11B) % 256 else a * 2

/-- The product in GF(2^8), over `n` bits of the second factor. -/
def gmul : Nat → Nat → Nat → Nat
  | 0, _, _ => 0
  | n + 1, a, b => (if b % 2 = 1 then a else 0) ^^^ gmul n (xtime a) (b / 2)

/-- The `n`-th power by repeated squaring over `k` bits of the exponent. -/
def gpow : Nat → Nat → Nat → Nat
  | 0, _, _ => 1
  | k + 1, a, n =>
    let r := gpow k (gmul 8 a a) (n / 2)
    if n % 2 = 1 then gmul 8 a r else r

/-- A byte rotated left. -/
def rotl8 (a k : Nat) : Nat := (a * 2 ^ k ||| a / 2 ^ (8 - k)) % 256

/-- The substitution of a byte. -/
def subByte (a : Nat) : Nat :=
  let b := gpow 8 a 254
  b ^^^ rotl8 b 1 ^^^ rotl8 b 2 ^^^ rotl8 b 3 ^^^ rotl8 b 4 ^^^ 0x63

/-- Byte-wise exclusive or. -/
def xorBytes (a b : List Nat) : List Nat := List.zipWith (· ^^^ ·) a b

/-- The key schedule: words from `i` on, over `n` more, the latest eight words at hand, newest first. -/
def expandKey : Nat → Nat → Nat → List (List Nat) → List (List Nat)
  | 0, _, _, _ => []
  | n + 1, i, rc, ws =>
    let prev := ws.headD []
    let t :=
      if i % 8 = 0 then
        let r := (prev.drop 1 ++ prev.take 1).map subByte
        xorBytes r [rc, 0, 0, 0]
      else if i % 8 = 4 then prev.map subByte
      else prev
    let w := xorBytes (ws.getD 7 []) t
    w :: expandKey n (i + 1) (if i % 8 = 0 then xtime rc else rc) (w :: ws.take 7)

/-- The 15 round keys of 16 bytes. -/
def roundKeys (key : List Nat) : List (List Nat) :=
  let first := (List.range 8).map fun i => (key.drop (4 * i)).take 4
  let ws := first ++ expandKey 52 8 1 first.reverse
  (List.range 15).map fun r => ((ws.drop (4 * r)).take 4).flatten

/-- ShiftRows on 16 bytes in column order. -/
def shiftRows (st : List Nat) : List Nat :=
  (List.range 16).map fun i => st.getD ((i + 4 * (i % 4)) % 16) 0

/-- MixColumns. -/
def mixColumns (st : List Nat) : List Nat :=
  (List.range 16).map fun i =>
    let c := i / 4 * 4
    let at' := fun k => st.getD (c + (i + k) % 4) 0
    gmul 8 (at' 0) 2 ^^^ gmul 8 (at' 1) 3 ^^^ at' 2 ^^^ at' 3

/-- The rounds after the first key, the last one without MixColumns. -/
def aesRounds : List (List Nat) → List Nat → List Nat
  | [], st => st
  | [k], st => xorBytes (shiftRows (st.map subByte)) k
  | k :: ks, st => aesRounds ks (xorBytes (mixColumns (shiftRows (st.map subByte))) k)

/-- AES-256 of one block under expanded keys. -/
def aesBlock (ks : List (List Nat)) (b : List Nat) : List Nat :=
  match ks with
  | [] => b
  | k :: rest => aesRounds rest (xorBytes b k)

/-! ### GCM -/

/-- The number that bytes hold, most significant first. -/
def beNat (bs : List Nat) : Nat := bs.foldl (fun x b => x * 256 + b) 0

/-- The `n` bytes of a number, most significant first. -/
def beBytes (n x : Nat) : List Nat := (List.range n).map fun i => x / 256 ^ (n - 1 - i) % 256

/-- The product of GHASH, over `n` bits of the first factor from its top. -/
def ghMul : Nat → Nat → Nat → Nat
  | 0, _, _ => 0
  | n + 1, x, v =>
    (if x / 2 ^ n % 2 = 1 then v else 0) ^^^
      ghMul n x (if v % 2 = 1 then (v / 2) ^^^ (0xE1 * 2 ^ 120) else v / 2)

/-- GHASH of blocks of 16 bytes, the last padded with zeros. -/
def ghash (h : Nat) : Nat → List Nat → Nat → Nat
  | 0, _, y => y
  | n + 1, bs, y =>
    let b := bs.take 16
    let x := beNat (b ++ List.replicate (16 - b.length) 0)
    ghash h n (bs.drop 16) (ghMul 128 (y ^^^ x) h)

/-- Counter mode over `n` blocks. -/
def ctrMode (ks : List (List Nat)) (iv : List Nat) : Nat → Nat → List Nat → List Nat
  | 0, _, _ => []
  | n + 1, c, bs =>
    xorBytes (bs.take 16) (aesBlock ks (iv ++ beBytes 4 c)) ++ ctrMode ks iv n (c + 1) (bs.drop 16)

/-- The tag of a ciphertext, without additional data. -/
def gcmTag (ks : List (List Nat)) (iv c : List Nat) : List Nat :=
  let h := beNat (aesBlock ks (List.replicate 16 0))
  let y := ghash h ((c.length + 15) / 16) c 0
  let s := ghMul 128 (y ^^^ (c.length * 8)) h
  xorBytes (beBytes 16 s) (aesBlock ks (iv ++ beBytes 4 1))

/-- Encryption: the ciphertext and the 16-byte tag. -/
def gcmSeal (key iv pt : List Nat) : List Nat × List Nat :=
  let ks := roundKeys key
  let c := ctrMode ks iv ((pt.length + 15) / 16) 2 pt
  (c, gcmTag ks iv c)

/-- Decryption: the plaintext when the tag matches. -/
def gcmOpen (key iv ct tag : List Nat) : Option (List Nat) :=
  let ks := roundKeys key
  if gcmTag ks iv ct = tag then some (ctrMode ks iv ((ct.length + 15) / 16) 2 ct) else none

/-- The IV of R267: the 32-bit salt, then the 64-bit counter, most significant byte first. -/
def gcmIv (salt counter : Nat) : List Nat := beBytes 4 salt ++ beBytes 8 counter

/-! ### SHA-384 -/

/-- The first 80 primes. -/
def primes80 : List Nat :=
  (List.range 410).filter fun n =>
    decide (2 ≤ n) && (List.range 19).all fun d => decide (n % (d + 2) ≠ 0) || decide (n = d + 2)

/-- The integer `k`-th root of `n` by binary digits from bit `b` down. -/
def iroot (k n : Nat) : Nat → Nat → Nat
  | 0, r => r
  | b + 1, r => iroot k n b (if (r + 2 ^ b) ^ k ≤ n then r + 2 ^ b else r)

/-- The round constants. -/
def shaK : List Nat := primes80.map fun p => iroot 3 (p * 2 ^ 192) 68 0 % 2 ^ 64

/-- The initial hash value of SHA-384. -/
def sha384Init : List Nat := ((primes80.drop 8).take 8).map fun p => iroot 2 (p * 2 ^ 128) 70 0 % 2 ^ 64

/-- A 64-bit word rotated right. -/
def rotr64 (x k : Nat) : Nat := x / 2 ^ k + x % 2 ^ k * 2 ^ (64 - k)

/-- The message schedule: `n` more words, the latest 16 at hand, newest first. -/
def shaSched : Nat → List Nat → List Nat
  | 0, _ => []
  | n + 1, ws =>
    let at' := fun k => ws.getD (k - 1) 0
    let s0 := rotr64 (at' 15) 1 ^^^ rotr64 (at' 15) 8 ^^^ at' 15 / 2 ^ 7
    let s1 := rotr64 (at' 2) 19 ^^^ rotr64 (at' 2) 61 ^^^ at' 2 / 2 ^ 6
    let w := (s1 + at' 7 + s0 + at' 16) % 2 ^ 64
    w :: shaSched n (w :: ws.take 15)

/-- One round on the eight working values. -/
def shaRound (v : List Nat) (k w : Nat) : List Nat :=
  match v with
  | [a, b, c, d, e, f, g, h] =>
    let s1 := rotr64 e 14 ^^^ rotr64 e 18 ^^^ rotr64 e 41
    let ch := (e &&& f) ^^^ ((2 ^ 64 - 1 - e) &&& g)
    let t1 := h + s1 + ch + k + w
    let s0 := rotr64 a 28 ^^^ rotr64 a 34 ^^^ rotr64 a 39
    let maj := (a &&& b) ^^^ (a &&& c) ^^^ (b &&& c)
    [(t1 + s0 + maj) % 2 ^ 64, a, b, c, (d + t1) % 2 ^ 64, e, f, g]
  | v => v

/-- The hash value after a block of 128 bytes. -/
def shaBlock (h bs : List Nat) : List Nat :=
  let ws := (List.range 16).map fun i => beNat ((bs.drop (8 * i)).take 8)
  let all := ws ++ shaSched 64 ws.reverse
  let v := (List.zip shaK all).foldl (fun v x => shaRound v x.1 x.2) h
  List.zipWith (fun x y => (x + y) % 2 ^ 64) h v

/-- The hash value after `n` blocks. -/
def shaBlocks : Nat → List Nat → List Nat → List Nat
  | 0, h, _ => h
  | n + 1, h, bs => shaBlocks n (shaBlock h (bs.take 128)) (bs.drop 128)

/-- SHA-384 of a byte string. -/
def sha384 (m : List Nat) : List Nat :=
  let pad := (128 - (m.length + 17) % 128) % 128
  let bs := m ++ [0x80] ++ List.replicate pad 0 ++ beBytes 16 (m.length * 8)
  ((shaBlocks (bs.length / 128) sha384Init bs).take 6).flatMap (beBytes 8)

end Sys2Proof.Machine
end

