-- ==== Sys2Proof/Machine/Reduce.lean ====
section
/-! DEFINITION. Reduction regions at the destination rank (spec/10_copy_fabric.md R268 to R270). -/

namespace Sys2Proof.Machine

/-- Bytes of an element of a reduction op (R268). -/
def redBytes (op : Nat) : Nat := if op = 1 then 8 else 4

/-- The reduction of two elements (R268): add.f32, add.f64, add.i32, max.i32. -/
def redOp (op x y : Nat) : Nat :=
  if op = 0 then atomFadd fmtF32 x y
  else if op = 1 then atomFadd fmtF64 x y
  else if op = 2 then (x + y) % 2 ^ 32
  else (maxS (BitVec.ofNat 32 x) (BitVec.ofNat 32 y)).toNat

/-- A chain of elements from the first up (R269). -/
def redChain (op : Nat) : List Nat → Option Nat
  | [] => none
  | x :: xs => some (xs.foldl (redOp op) x)

/-- The leaves of elements whose first has index `e0` (R269): chunks of 16 elements of the job's vector. -/
def redLeaves (op e0 : Nat) (xs : List Nat) : List Nat :=
  if xs.isEmpty then []
  else (List.range ((e0 + xs.length - 1) / 16 - e0 / 16 + 1)).filterMap fun i =>
    let lo := if i = 0 then e0 else (e0 / 16 + i) * 16
    let hi := min (e0 + xs.length) ((e0 / 16 + i + 1) * 16)
    redChain op ((xs.drop (lo - e0)).take (hi - lo))

/-- Nodes of the next level: pairs combined, a lone last one passed on (R269). -/
def redLevel (op : Nat) : List Nat → List Nat
  | x :: y :: rest => redOp op x y :: redLevel op rest
  | xs => xs

/-- The root over `n` levels (R269: INDEX). -/
def redTree (op : Nat) : Nat → List Nat → Option Nat
  | _, [] => none
  | _, [x] => some x
  | 0, x :: _ => some x
  | n + 1, xs => redTree op n (redLevel op xs)

/-- A contribution without the elements beyond its vector, as the last leaf ends at N − 1 (R269, log 54). -/
def withinTotal (c : Contribution) : Contribution := { c with elems := c.elems.take (c.total - c.word5) }

/-- The result of a region whose contributions cover the vector, in arrival order (R269). -/
def sumResult (cs : List Contribution) : Option Nat :=
  match cs with
  | [] => none
  | c :: _ =>
    if c.index then
      let xs := (inOrder (fun a b => decide (a.word5 ≤ b.word5)) cs).flatMap Contribution.elems
      redTree c.op 64 (redLeaves c.op 0 xs)
    else redChain c.op (cs.filterMap fun d => redChain d.op (redLeaves d.op d.word5 d.elems))

/-- Two contributions have an element in common. -/
def overlap (a b : Contribution) : Bool :=
  !a.elems.isEmpty && !b.elems.isEmpty && decide (a.word5 < b.word5 + b.elems.length) &&
    decide (b.word5 < a.word5 + a.elems.length)

/-- The party that applies a contribution: the local copy, or the other rank's. -/
def State.contrActor (s : State) (c : Contribution) : Actor :=
  if c.entry < 64 then
    { party := .copy c.core c.entry, core := c.core, ctx := c.ctx
      ident := (tget (s.coreAt c.core).copyq c.entry {}).ident }
  else { party := .remote c.ident 0, core := 48, ctx := c.ctx, ident := wrd c.ident }

/-- The elements of a contribution as accesses at its destination. -/
def contrReqs (c : Contribution) : List Req :=
  let n := redBytes c.op
  (List.range c.elems.length).map fun i => { lane := 0, va := c.dst + i * n, n := n }

/-- Elements applied one by one as atomics (R268, R212). -/
def State.applyElems (s : State) (op : Nat) : List Place → List Nat → State
  | x :: ps, e :: es =>
    let old := leNat (s.readTier x.tier x.pa x.req.n)
    State.applyElems (s.writeTier x.tier x.pa (leBytes x.req.n (redOp op old e))) op ps es
  | _, _ => s

/-- What a controller makes of a contribution: done with its error code, held, refused for want of room,
waiting for a translation. -/
inductive Taken where
  | done (s : State) (err : Nat) (other : Word)
  | held (s : State)
  | refused
  | wait (s : State)
  | nowhere (tier addr : Nat)

/-- The state with a region of a context changed. -/
def State.setRegion (s : State) (ctx r : Nat) (g : Region) : State :=
  s.updCtx ctx fun c => { c with regions := tset c.regions r g }

/-- The controller that a contribution goes to (R268, log 9). -/
def controllerOf (c : Contribution) : Nat := Config.controller c.ctx c.dst

/-- Early contributions that a controller holds (R268). -/
def State.earlyHeld (s : State) (ctl : Nat) : Nat :=
  (s.ctxs.map fun c => (c.2.regions.map fun g =>
    (g.2.waiting.filter fun d => controllerOf d = ctl).length).sum).sum

/-- An ELEM contribution whose turn it is, applied in full (R268); at a poisoned granule it fails with nothing
applied (R264, R429). -/
def State.applyElem (s : State) (c : Contribution) : Taken :=
  match s.engineCheck (s.contrActor c) kAtomic true (contrReqs c) with
  | .nowhere t a => .nowhere t a
  | .stall s1 => .wait s1
  | .fail s1 e o => .done s1 e o
  | .ok s1 ps =>
    if ps.any fun x => s1.poisonAt x.tier x.pa then .done s1 13 0xFFFFFFFF#32
    else
    let s2 := (s1.l2Touch (s1.contrActor c).core c.ctx true ps).applyElems c.op ps c.elems
    let g := tget (s2.ctxAt c.ctx).regions c.region {}
    .done (s2.setRegion c.ctx c.region { g with expect := (g.expect + 1) % 2 ^ 16 }) 0 0

/-- An ELEM contribution (R268): in sequence, early, or stale. -/
def State.takeElem (s : State) (c : Contribution) : Taken :=
  let g := tget (s.ctxAt c.ctx).regions c.region {}
  let d := (c.word5 % 2 ^ 16 + 2 ^ 16 - g.expect) % 2 ^ 16
  if d = 0 then s.applyElem c
  else if 32768 ≤ d then .done s 9 0
  else if 512 ≤ s.earlyHeld (controllerOf c) then .refused
  else .held (s.setRegion c.ctx c.region { g with waiting := g.waiting ++ [c] })

/-- A SUM contribution (R269): one that disagrees or overlaps fails; the last one writes the result, adds 1
to the signal word and clears the region; with the signal word poisoned it fails, and both are withheld (R429, R432). Of
one that reaches beyond the vector the elements within it count (log 54). -/
def State.takeSum (s : State) (c : Contribution) : Taken :=
  let g := tget (s.ctxAt c.ctx).regions c.region {}
  let parts := g.parts ++ [c]
  if g.parts.any fun p => decide (p.op ≠ c.op ∨ p.total ≠ c.total ∨ p.dst ≠ c.dst) || overlap p c then
    .done s 11 0
  else if (parts.map fun p => (withinTotal p).elems.length).sum < c.total then
    .done (s.setRegion c.ctx c.region { g with parts := parts }) 0 0
  else
    let out := granReqs c.dst (redBytes c.op)
    match s.engineCheck (s.contrActor c) kAtomic true (out ++ granReqs (c.dst + 8) 8) with
    | .nowhere t a => .nowhere t a
    | .stall s1 => .wait s1
    | .fail s1 e o => .done s1 e o
    | .ok s1 ps =>
      if (ps.drop out.length).any fun x => s1.poisonAt x.tier x.pa then .done s1 13 0xFFFFFFFF#32
      else
      let s2 := match sumResult (parts.map withinTotal) with
        | none => s1
        | some v => s1.writeCells (placeCells (ps.take out.length) (leBytes (redBytes c.op) v))
      let sig := ps.drop out.length
      let old := leNat (s2.placeBytes sig)
      .done ((s2.writeCells (placeCells sig (leBytes 8 (old + 1)))).setRegion c.ctx c.region
        { g with parts := [] }) 0 0

/-- A contribution at its controller (R268, R269). -/
def State.contribute (s : State) (c : Contribution) : Taken :=
  if c.mode = 0 then s.takeElem c else s.takeSum c

/-- How far a contribution is ahead of a region, modulo 2^16 (R268). -/
def Region.ahead (g : Region) (c : Contribution) : Nat := (c.word5 % 2 ^ 16 + 2 ^ 16 - g.expect) % 2 ^ 16

/-- The held contribution of a region whose turn has come, or which is behind by now (R268). -/
def Region.next (g : Region) : Option Contribution :=
  g.waiting.find? fun c => decide (g.ahead c = 0) || decide (32768 ≤ g.ahead c)

end Sys2Proof.Machine
end

