-- ==== Sys2Proof/Machine/Copy.lean ====
section
/-! DEFINITION. The copy engine: COPY instructions (spec/10_copy_fabric.md R255 to R271) and the events
COPY_SERVICE, REDUCE_CONTRIBUTION and ELEM_RESEND. -/

namespace Sys2Proof.Machine

/-! ### Descriptors -/

/-- Word `i` of a copy's descriptor. -/
def CopyEntry.word (e : CopyEntry) (i : Nat) : Nat := (e.words.getD i 0).toNat
/-- Source address (R257). -/
def CopyEntry.src (e : CopyEntry) : Nat := e.word 0 + e.word 1 * 2 ^ 32
/-- Destination address (R257). -/
def CopyEntry.dst (e : CopyEntry) : Nat := e.word 2 + e.word 3 * 2 ^ 32
/-- Source space (R257). -/
def CopyEntry.sspace (e : CopyEntry) : Nat := e.word 7 / 2 ^ 28
/-- Destination space (R257). -/
def CopyEntry.dspace (e : CopyEntry) : Nat := e.word 7 / 2 ^ 24 % 16
/-- Peer rank (R257). -/
def CopyEntry.peer (e : CopyEntry) : Nat := e.word 7 / 2 ^ 20 % 16
/-- The kind field (R258). -/
def CopyEntry.field (e : CopyEntry) : Nat := e.word 7 % 2 ^ 20
/-- The op of the control word (R265). -/
def CopyEntry.op (e : CopyEntry) : Nat := e.ctl.toNat / 2 ^ 29
/-- The key slot of the control word (R265). -/
def CopyEntry.slot (e : CopyEntry) : Nat := e.ctl.toNat / 2 ^ 16 % 32
/-- The element width of op 1 in bytes (R265). -/
def CopyEntry.ew (e : CopyEntry) : Nat := e.ctl.toNat / 2 ^ 10 % 4 + 1
/-- The conversion pair (R265). -/
def CopyEntry.pair (e : CopyEntry) : Nat := e.ctl.toNat % 64
/-- The saturate bit (R265). -/
def CopyEntry.sat (e : CopyEntry) : Bool := decide (e.ctl.toNat / 2 ^ 9 % 2 = 1)
/-- The rounding code (R265). -/
def CopyEntry.rnd (e : CopyEntry) : Nat := e.ctl.toNat / 2 ^ 6 % 8
/-- The rounding mode: code 0 is RNE (R265, R52). -/
def CopyEntry.rm (e : CopyEntry) : Rnd := if e.rnd = 0 then .rne else rndOf (e.rnd - 1)
/-- The handle (R263). -/
def CopyEntry.handle (e : CopyEntry) (n : Nat) : Nat := e.seq * 256 + n
/-- The status word (R263). -/
def CopyEntry.status (e : CopyEntry) : Nat := e.err * 2 ^ 16 + e.flags + e.state

/-- The copy takes a control word (R265). -/
def CopyEntry.controlled (e : CopyEntry) : Bool := decide (e.kind = .dcpx) || decide (e.kind = .dcpg)
/-- The copy converts elements (R262, R265). -/
def CopyEntry.converts (e : CopyEntry) : Bool := e.controlled && decide (e.op = 0)
/-- The copy expands 2:4 data (R266). -/
def CopyEntry.expands (e : CopyEntry) : Bool := decide (e.kind = .dcpx) && decide (e.op = 1)
/-- The copy decrypts or encrypts (R267). -/
def CopyEntry.crypts (e : CopyEntry) : Bool :=
  decide (e.kind = .dcpx) && (decide (e.op = 2) || decide (e.op = 3))

/-- Container bits of the source and the destination of a conversion (R84). -/
def CopyEntry.bits (e : CopyEntry) : Nat × Nat :=
  (container (cvtPair e.pair).2, container (cvtPair e.pair).1)

/-- Rows of a copy (R261, R262). -/
def CopyEntry.nrows (e : CopyEntry) : Nat :=
  match e.kind with
  | .dcp2 => e.word 7 % 2 ^ 16
  | .dcpg => e.rows.length
  | .dcp | .dcpx | .dcpr => 1

/-- Source and destination of row `r` (R261, R262). -/
def CopyEntry.rowAt (e : CopyEntry) (r : Nat) : Nat × Nat :=
  match e.kind with
  | .dcp2 => (e.src + r * e.word 5, e.dst + r * e.word 6)
  | .dcpg => (e.src + e.rows.getD r 0, e.dst + r * e.word 5)
  | .dcp | .dcpx | .dcpr => (e.src, e.dst)

/-- Source bytes of a row. -/
def CopyEntry.rowSrc (e : CopyEntry) : Nat :=
  if e.converts then (e.word 4 * e.bits.1 + 7) / 8
  else if e.expands then e.word 4 * (2 * e.ew + 1)
  else if e.crypts then e.word 4 + (if e.op = 2 then 16 else 0)
  else if e.kind = .dcpr then e.word 4 * redBytes (e.field / 2 ^ 16)
  else e.word 4

/-- Destination bytes of a row. -/
def CopyEntry.rowDst (e : CopyEntry) : Nat :=
  if e.converts then (e.word 4 * e.bits.2 + 7) / 8
  else if e.expands then e.word 4 * 4 * e.ew
  else if e.crypts then e.word 4 + (if e.op = 3 then 16 else 0)
  else e.word 4

/-- A range lies below the block's scratchpad size (R259). -/
def fits (limit a n : Nat) : Bool := decide (n = 0) || decide (a + n ≤ limit)

/-- The pairs for which the saturate bit has meaning (R156). -/
def satPair (p : Nat) : Bool := [0, 2, 4, 6, 8, 11, 12, 14, 16].contains p

/-- A control word without an undefined or misplaced code (R259, R265). -/
def CopyEntry.ctlOk (e : CopyEntry) : Bool :=
  let c := e.ctl.toNat
  let op := e.op
  decide (c / 2 ^ 12 % 16 = 0) && decide (c / 2 ^ 21 % 256 = 0) &&
    (if e.kind = .dcpg then decide (op = 0 ∨ op = 7) else decide (op ≤ 3)) &&
    (decide (op = 2 ∨ op = 3) || decide (e.slot = 0)) &&
    (if op = 1 then decide (e.ew ≤ 2) else decide (e.ew = 1)) &&
    (decide (op ≠ 0) || (decide (e.rnd < 6) && (!e.sat || satPair e.pair))) &&
    (decide (op ≠ 1) || decide (e.dspace = 1)) &&
    (!e.crypts || (decide (1 ≤ e.word 4) && decide (e.word 4 ≤ 65536)))

/-- The fields that R258 shows as 0, and codes, of each instruction. -/
def CopyEntry.fieldsOk (e : CopyEntry) (lanes : Bool) : Bool :=
  match e.kind with
  | .dcp => decide (e.word 5 = 0) && decide (e.word 6 = 0) && decide (e.field = 0) && decide (e.dspace ≤ 2)
  | .dcp2 => decide (e.field / 2 ^ 16 = 0) && decide (e.dspace ≤ 1)
  | .dcpg => decide (e.field = 0) && decide (e.dspace ≤ 1) && (!lanes || e.ctlOk)
  | .dcpx => decide (e.word 5 = 0) && decide (e.field = 0) && decide (e.dspace ≤ 1) && e.ctlOk
  | .dcpr =>
    decide (e.field / 2 ^ 16 ≤ 3) && decide (e.field / 2 ^ 12 % 16 ≤ 1) &&
      decide (e.dspace = 0 ∨ e.dspace = 2) &&
      (decide (e.field / 2 ^ 12 % 16 = 1) || decide (e.word 6 = 0))

/-- A valid descriptor (R259): `limit` is s143, `ranks` s138. -/
def CopyEntry.valid (e : CopyEntry) (limit ranks : Nat) (lanes : Bool) : Bool :=
  decide (e.sspace ≤ 1) && e.fieldsOk lanes &&
    (decide (e.sspace ≠ 1) || decide (e.word 1 = 0)) && (decide (e.dspace ≠ 1) || decide (e.word 3 = 0)) &&
    (if e.dspace = 2 then decide (e.peer < ranks) else decide (e.peer = 0)) &&
    (List.range e.nrows).all fun r =>
      (decide (e.sspace ≠ 1) || fits limit (e.rowAt r).1 e.rowSrc) &&
        (decide (e.dspace ≠ 1) || fits limit (e.rowAt r).2 e.rowDst)

/-- The copy makes a contribution in ELEM mode, one of no elements too: its turn in the sequence passes (R268). -/
def CopyEntry.contributes (e : CopyEntry) : Bool := decide (e.kind = .dcpr) && decide (e.field / 2 ^ 12 % 16 = 0)

/-- The least power of two at or above `n`. -/
def powAbove (n : Nat) : Nat := 2 ^ bitLen (n - 1)

/-- Whether a SUM contribution is refused under INDEX (R270). -/
def unalignedIndex (e0 n total : Nat) : Bool :=
  let c0 := e0 / 16
  let c1 := (e0 + n + 15) / 16
  let t := (total + 15) / 16
  let p := powAbove (c1 - c0)
  !(decide (e0 % 16 = 0) && (decide ((e0 + n) % 16 = 0) || decide (e0 + n = total)) &&
    decide (c0 % p = 0) && (decide (c1 - c0 = p) || decide (c1 = t)))

/-- How a copy ends at its issue, if it does (R259, R262, R267, R270): 0 completes at once, else its error
code. -/
def State.copyVerdict (s : State) (e : CopyEntry) (lanes : Bool) : Option Nat :=
  let r := s.regs
  if !e.valid (r.ctxS 15).toNat (r.ctxS 10).toNat lanes then some 15
  else if e.crypts then
    match tfind? s.ctxOf.keys e.slot with
    | none => some 12
    | some k => if k.closing || (if e.op = 2 then k.recv else k.send) = 2 ^ 64 - 1 then some 12 else none
  else if e.nrows = 0 || (decide (e.word 4 = 0) && !e.contributes) then some 0
  else if e.kind = .dcpr && decide (e.field / 2 ^ 12 % 16 = 1) && !s.launch.arrival &&
      unalignedIndex (e.word 5) (e.word 4) (e.word 6) then some 10
  else none

/-! ### Ends of copies -/

/-- The state with an entry changed. -/
def State.updEntry (s : State) (core n : Nat) (f : CopyEntry → CopyEntry) : State :=
  s.updCore core fun c => { c with copyq := tset c.copyq n (f (tget c.copyq n {})) }

/-- An entry of a core. -/
def State.entryAt (s : State) (core n : Nat) : CopyEntry := tget (s.coreAt core).copyq n {}

/-- The copies of a wave without the leading ones that have ended (R33). -/
def State.dropDone (s : State) : List (Nat × Nat × Nat) → List (Nat × Nat × Nat)
  | [] => []
  | (c, n, q) :: rest =>
    let e := s.entryAt c n
    if e.busy && decide (e.seq = q) then (c, n, q) :: rest else State.dropDone s rest

/-- The state with the CP count of a wave brought up to date (R33). -/
def State.settleCopies (s : State) (w : Nat) : State :=
  s.updWave w fun v => { v with copies := s.dropDone v.copies }

/-- The actor of an entry. -/
def State.copyActor (s : State) (core n : Nat) : Actor :=
  let e := s.entryAt core n
  { party := .copy core n, ident := e.ident, core := core, ctx := (s.launchAt (s.blockAt e.blk).launch).ctx }

/-- The destination lies at another rank (R257, R273). -/
def State.copyRemote (s : State) (core n : Nat) : Bool :=
  let e := s.entryAt core n
  decide (e.dspace = 2) && decide (e.peer ≠ s.rankOf (s.copyActor core n).ctx)

/-- A message of a copy to its peer. -/
def State.copyMessage (s : State) (core n : Nat) (stage : ReqStage) (a : Nat) (bs : List Byte) : Outgoing :=
  let e := s.entryAt core n
  .remote e.peer
    { stage := stage, ctx := (s.copyActor core n).ctx, kind := .write, ident := e.ident.toNat, seq := e.id
      lanes := [{ lane := 0, addr := a, data := 0, swap := 0, op := 0, wide := false, ret := false }]
      bytes := bs.map BitVec.toNat }

/-- An entry whose copy has ended in a state. -/
def CopyEntry.ended (e : CopyEntry) (state : Nat) : CopyEntry :=
  { e with busy := false, state := state, waiting := false, closing := none, resend := false, buf := [], held := none, accept := [] }

/-- A copy that has completed (R219, R256). -/
def State.finishCopy (s : State) (core n : Nat) : State :=
  let w := (s.entryAt core n).wave
  (((s.retireTags (.copy core n)).updEntry core n fun e => e.ended 2).dropFrb (.copy core n)).settleCopies w

/-- A copy's transfer as the owner of lines (R213, R375). -/
def CopyEntry.xfer (e : CopyEntry) (issuer : Nat) : Xfer :=
  { issuer := issuer, kind := 0, word := e.ident.toNat, id := e.id }

/-- A copy that has failed (R264, R433). -/
def State.failCopy (s : State) (core n err : Nat) (other : Word) : State :=
  let e := s.entryAt core n
  let x := e.xfer (s.waveAt e.wave).ident.toNat
  let s1 := (s.retireTags (.copy core n)).updEntry core n fun e => { e.ended 3 with err := err, other := other }
  let s2 := (if e.dspace = 1 then s1.updBlock e.blk fun b => b.giveBack x else s1).dropFrb (.copy core n)
  let st := (s2.entryAt core n).status
  (s2.failWave e.wave (e.handle n) err st
    (if e.dspace = 2 then wrd e.peer else 0xFFFFFFFF#32) other).settleCopies e.wave

/-- A copy that ends with a code: 0 is success. -/
def State.endCopy (s : State) (core n err : Nat) (other : Word) : State :=
  if err = 0 then s.finishCopy core n else s.failCopy core n err other

/-- A copy that writes memory comes to its end with a code: one that has written at a peer completes when the peer has
retired its tags (R207, R212). -/
def State.closeCopy (s : State) (core n err : Nat) (other : Word) : State :=
  let e := s.entryAt core n
  if s.copyRemote core n && decide (e.done ≠ 0) && s.reaches (s.copyActor core n).ctx e.peer then
    ({ s with outbox := s.outbox ++ [s.copyMessage core n .ended 0 []] } : State).updEntry core n
      fun e => { e with waiting := true, closing := some (err, other) }
  else s.endCopy core n err other

/-! ### Issue -/

/-- The identity word of a copy (R375). -/
def copyIdent (w : Word) (n : Nat) : Word := w + wrd (n * 256 + 64)

/-- The acting wave's copy takes an entry (R261). -/
def State.takeEntry (s : State) (n a : Nat) (e : CopyEntry) (verdict : Option Nat) : State :=
  let b := s.block
  let core := b.cores.headD 0
  let q := b.copyCount % 2 ^ 24
  let e1 := { e with
    blk := s.wave.blk, busy := true, seq := q, wave := s.cur, ident := copyIdent s.wave.ident n,
    id := s.fresh
    counter := ((tfind? s.ctxOf.keys e.slot).map KeySlot.send).getD 0 }
  let s1 := (s.updBlock s.wave.blk fun b => { b with copyCount := b.copyCount + 1 }).updEntry core n
    fun _ => e1
  let s2 := (s1.updRegs fun r => r.putS (a + 7) (wrd (e1.handle n))).drawn
  let s3 := s2.setWave { s2.wave with copies := s2.wave.copies ++ [(core, n, q)] }
  let s4 := if verdict = none && e.crypts && decide (e.op = 3) then
    s3.updCtx s3.launch.ctx fun c =>
      { c with keys := tmap (fun k x => if k = e.slot then { x with send := x.send + 1 } else x) c.keys }
    else s3
  match verdict with
  | none => s4
  | some c => s4.endCopy core n c 0

/-- A copy instruction (R255, R261): `e` is what it asks for, `lanes` whether it gathers a row; its own first-stage
checks read `keys`: a block without entries, then `first` (log 54). -/
def State.copyOp (s : State) (a : Nat) (ops keys : List Opnd) (first : Option TrapRec) (lanes : Bool)
    (e : CopyEntry) : Out :=
  let b := s.block
  let core := b.cores.headD 0
  s.run { ops := ops, spec := false, keys := if b.entries.isEmpty then [] else keys,
          own := if b.entries.isEmpty then some (mkTrap 0x09 [0, 0, 0xFFFFFFFF#32]) else first }
    (if 31 ≤ s.wave.copies.length then .wait 8 0
     else match b.entries.find? fun n => !(s.entryAt core n).busy with
     | none => .wait 21 0
     | some n => .done (s.takeEntry n a e (s.copyVerdict e lanes)))

/-- The descriptor words from sA (R257). -/
def WaveRegs.descriptor (r : WaveRegs) (a : Nat) : List Word := (List.range 8).map fun i => r.s (a + i)

/-- `dcp` (R258, R261). -/
def execDcp (a : Nat) (s : State) : Out :=
  s.copyOp a [.s a 8 true] [] none false { kind := .dcp, words := s.regs.descriptor a }

/-- `dcp2` (R258, R261). -/
def execDcp2 (a : Nat) (s : State) : Out :=
  s.copyOp a [.s a 8 true] [] none false { kind := .dcp2, words := s.regs.descriptor a }

/-- The control word of a gather: that of the lowest active lane, and the lanes that differ (R262). -/
def WaveRegs.gatherCtl (r : WaveRegs) (d : Nat) : Word × Mask :=
  match lanesOf r.em with
  | [] => (0, 0)
  | l :: _ =>
    (lane (r.v d) l, mkMask fun k => bitOf r.em k && decide (lane (r.v d) k ≠ lane (r.v d) l))

/-- `dcpg` (R262): NONUNIFORM when the control word differs between active lanes. -/
def execDcpg (d a b : Nat) (s : State) : Out :=
  let r := s.regs
  let g := r.gatherCtl d
  let ls := lanesOf r.em
  s.copyOp a [.v d 1 true, .s a 8 true, .v b 1 true] [.v d 1 true]
    (if g.2 ≠ 0 then some (laneTrap 0x0D g.2 []) else none) (!ls.isEmpty)
    { kind := .dcpg, words := r.descriptor a, ctl := g.1, rows := ls.map fun l => (lane (r.v b) l).toNat }

/-- `dcpx` (R265 to R267). -/
def execDcpx (a : Nat) (s : State) : Out :=
  s.copyOp a [.s a 8 true] [] none false
    { kind := .dcpx, words := s.regs.descriptor a, ctl := s.regs.s (a + 6) }

/-- `dcpr` (R268 to R270). -/
def execDcpr (a : Nat) (s : State) : Out :=
  s.copyOp a [.s a 8 true] [] none false { kind := .dcpr, words := s.regs.descriptor a }

/-- The status word of a handle for the acting wave's block (R263). A handle whose reserved bits [7:6] are set names no
copy and reads as stale (log 54). -/
def State.copyStatus (s : State) (h : Nat) : Word :=
  let b := s.block
  let e := s.entryAt (b.cores.headD 0) (h % 64)
  if b.entries.contains (h % 64) && decide (e.blk = s.wave.blk) && decide (0 < b.copyCount) &&
      decide (h = e.handle (h % 64)) && decide (e.ident ≠ 0) then wrd e.status
  else 4

/-- `dstat` (R263): one that would read a failed copy delivers its pending trap instead (R264). In a block without copy
entries every handle is foreign, and it reads 4 without a trap (log 54). -/
def execDstat (d a : Nat) (s : State) : Out :=
  let h := (s.regs.s a).toNat
  let v := s.copyStatus h
  s.run { ops := [.s d 1 false, .s a 1 true], spec := false }
    (s.deliverOr (fun t => decide (t.rank = 3) && !t.access && decide (t.handle = h) &&
        decide (v.toNat % 8 = 3))
      (.done (s.updRegs fun r => r.putS d v)))

/-! ### Service -/

/-- The piece of a copy at a count of destination bytes written (R256, R487): the row's next 128 bytes of destination, or
what is left of it. The number of its first element or group, the number of them, and the bytes it reads (R261, R262, R265,
R266). -/
structure Piece where
  first : Nat
  count : Nat
  reads : List (Nat × Nat)
  deriving DecidableEq, Repr

/-- The piece at a count of destination bytes. -/
def CopyEntry.piece (e : CopyEntry) (k : Nat) : Piece :=
  let row := e.rowAt (k / e.rowDst)
  let j := k % e.rowDst
  let n := min 128 (e.rowDst - j)
  if e.converts then
    let i := 8 * j / e.bits.2
    let cnt := min (8 * 128 / e.bits.2) (e.word 4 - i)
    { first := i, count := cnt, reads := [(row.1 + i * e.bits.1 / 8, (cnt * e.bits.1 + 7) / 8)] }
  else if e.expands then
    let g := j / (4 * e.ew)
    let cnt := n / (4 * e.ew)
    { first := g, count := cnt
      reads := [(row.1 + 2 * g * e.ew, 2 * cnt * e.ew), (row.1 + 2 * e.word 4 * e.ew + g, cnt)] }
  else { first := j, count := n, reads := [(row.1 + j, n)] }

/-- Elements of a conversion packed from the lowest (R84), with their flags. -/
def packElems (c : Nat) : List FRes → Nat × Nat
  | [] => (0, 0)
  | r :: rs =>
    let y := packElems c rs
    (r.bits + y.1 * 2 ^ c, r.flags ||| y.2)

/-- The four elements of a group from its two values and its metadata byte (R266); none for metadata that is not
strictly increasing. -/
def expandGroup (ew m : Nat) (bs : List Byte) : Option (List Byte) :=
  let i1 := m % 4
  let i2 := m / 4 % 4
  if 16 ≤ m || i2 ≤ i1 then none
  else some ((List.range 4).flatMap fun i =>
    if i = i1 then bs.take ew else if i = i2 then (bs.drop ew).take ew else List.replicate ew (0 : Byte))

/-- The groups of a piece from the first up to one whose metadata is wrong (R266): those before it stand. -/
def expandGroups (ew : Nat) : List Byte → List Byte → List Byte
  | _, [] => []
  | vs, m :: ms =>
    match expandGroup ew m.toNat vs with
    | none => []
    | some out => out ++ expandGroups ew (vs.drop (2 * ew)) ms

/-- The bytes of a piece from what it read, and flags; or an error (R265, R266). -/
def CopyEntry.make (e : CopyEntry) (p : Piece) (bs : List Byte) : Nat ⊕ (List Byte × Nat) :=
  if e.converts then
    let c := cvtPair e.pair
    let x := leNat bs
    let rs := (List.range p.count).map fun m =>
      let y := convertElem e.pair e.rm e.sat (fromContainer c.2 (x / 2 ^ (e.bits.1 * m) % 2 ^ e.bits.1))
      { y with bits := toContainer c.1 y.bits }
    let y := packElems e.bits.2 rs
    .inr (leBytes ((p.count * e.bits.2 + 7) / 8) y.1, y.2 &&& 0x3F00)
  else if e.expands then
    match expandGroups e.ew bs (bs.drop (2 * p.count * e.ew)) with
    | [] => .inl 8
    | out => .inr (out, 0)
  else .inr (bs, 0)

/-- A misaligned element (R265): the start of a row of a conversion. -/
def CopyEntry.misaligned (e : CopyEntry) (k : Nat) : Bool :=
  let row := e.rowAt (k / e.rowDst)
  e.converts &&
    ((decide (32 ≤ e.bits.1) && decide (row.1 % (e.bits.1 / 8) ≠ 0)) ||
      (decide (32 ≤ e.bits.2) && decide (row.2 % (e.bits.2 / 8) ≠ 0)))

/-- A copy that stalls at lines (R214, R487): since when it has waited. -/
def CopyEntry.stalled (e : CopyEntry) (cycle code : Nat) (lines : List Nat) : CopyEntry :=
  { e with accept := lines.map fun i => (i, code), since := if e.accept.isEmpty then cycle else e.since }

/-- What a copy does at lines of its block: its turn comes after the stalls that began before its own (R214). -/
def State.copyLines {α : Type} (s : State) (core n code : Nat) (lines : List Nat) (k : State → Got α) : Got α :=
  let e := s.entryAt core n
  let held : Got α := .stall (s.updEntry core n fun e => e.stalled s.cycle code lines)
  if s.lineTurn e.blk (if e.accept.isEmpty then s.cycle else e.since) lines then held
  else
    match k (s.updEntry core n fun e => { e with accept := [] }) with
    | .stall _ => held
    | g => g

/-- The bytes that a copy reads at an address of its source space. -/
def State.copyFetch (s : State) (core n a len : Nat) : Got (List Byte) :=
  let e := s.entryAt core n
  let ps := linePieces a len
  if e.sspace = 1 then s.copyLines core n 7 (ps.map fun p => p.1 / 128) fun s => s.padFetch e.blk e.ident.toNat ps
  else s.engineRead (s.copyActor core n) a len

/-- Several reads, one after another. -/
def State.copyFetchAll (s : State) (core n : Nat) : List (Nat × Nat) → Got (List Byte)
  | [] => .ok s []
  | (a, len) :: rest =>
    (s.copyFetch core n a len).bind fun s bs =>
      (State.copyFetchAll s core n rest).bind fun s cs => .ok s (bs ++ cs)

/-- A write within one line at an address of the destination space. -/
def State.copyStore (s : State) (core n a : Nat) (bs : List Byte) : Got Unit :=
  let e := s.entryAt core n
  if e.dspace = 1 then
    s.copyLines core n 8 [a / 128] fun s => s.padArrive e.blk (e.xfer (s.waveAt e.wave).ident.toNat) a bs
  else s.engineWrite (s.copyActor core n) a bs

/-- What a service of an entry comes to: `n` bytes served, a stop, an address that does not exist. -/
inductive Serve where
  | more (s : State) (n : Nat)
  | stop (s : State)
  | nowhere (tier addr : Nat)

/-- A failed access ends the copy (R264). -/
def Got.serve {α : Type} (g : Got α) (core n : Nat) (k : State → α → Serve) : Serve :=
  match g with
  | .ok s x => k s x
  | .stall s => .stop s
  | .fail s err other => .stop (s.closeCopy core n err other)
  | .nowhere t a => .nowhere t a

/-- The bytes of a piece written, up to the end of a line of the destination (R487); the rest is held. -/
def State.servePart (s : State) (core n : Nat) (out : List Byte) : Serve :=
  let e := s.entryAt core n
  let a := (e.rowAt (e.done / e.rowDst)).2 + e.done % e.rowDst
  let part := out.take (128 - a % 128)
  let rest := out.drop part.length
  let go := fun (s : State) => s.updEntry core n fun e =>
    { e with done := e.done + part.length, held := if rest.isEmpty then none else some rest }
  if s.copyRemote core n then
    if !s.reaches (s.copyActor core n).ctx e.peer then .stop (s.failCopy core n 14 0)
    else .stop ((go { s with outbox := s.outbox ++ [s.copyMessage core n .go a part] }).updEntry core n
      fun e => { e with waiting := true })
  else (s.copyStore core n a part).serve core n fun s _ => .more (go s) part.length

/-- One step of a copy that writes as it reads (R256, R487): what is held of a piece is written first. -/
def State.serveUnit (s : State) (core n : Nat) : Serve :=
  let e := s.entryAt core n
  match e.held with
  | some out => s.servePart core n out
  | none =>
    if e.nrows * e.rowDst ≤ e.done then .stop (s.closeCopy core n 0 0)
    else if e.misaligned e.done then .stop (s.closeCopy core n 6 0)
    else
      let p := e.piece e.done
      (s.copyFetchAll core n p.reads).serve core n fun s bs =>
        match e.make p bs with
        | .inl err => .stop (s.closeCopy core n err 0)
        | .inr (out, flags) =>
          (s.updEntry core n fun e => { e with held := some out, flags := e.flags ||| flags }).servePart core n out

/-- All lines of a write take it now, or one is FILLING under another owner (R214). -/
def State.padReady (s : State) (bk : Nat) (x : Xfer) (ps : List (Nat × Nat)) : Option Owner ⊕ Bool :=
  let b := s.blockAt bk
  match ps.find? fun p =>
      let l := b.line (p.1 / 128)
      decide (l.st = .filling) && !l.fillingBy (.xfer x) with
  | some p => .inl (some (b.line (p.1 / 128)).owner)
  | none => .inr (ps.all fun p => decide ((b.line (p.1 / 128)).st ≠ .full))

/-- Arrivals at several lines in ascending order (R487). -/
def State.padArriveAll (s : State) (bk : Nat) (x : Xfer) (bs : List Byte) (a0 : Nat) :
    List (Nat × Nat) → Got Unit
  | [] => .ok s ()
  | (a, n) :: rest =>
    (s.padArrive bk x a ((bs.drop (a - a0)).take n)).bind fun s _ =>
      State.padArriveAll s bk x bs a0 rest

/-- The write of a copy that writes nothing on failure (R264): all of it in one step, once every line
admits it. -/
def State.storeWhole (s : State) (core n : Nat) (bs : List Byte) : Got Unit :=
  let e := s.entryAt core n
  if e.dspace = 1 then
    let x := e.xfer (s.waveAt e.wave).ident.toNat
    let ps := linePieces e.dst bs.length
    s.copyLines core n 8 (ps.map fun p => p.1 / 128) fun s =>
      match s.padReady e.blk x ps with
      | .inl o => .fail s 1 (s.ownerWord (o.getD .none))
      | .inr false => .stall s
      | .inr true => s.padArriveAll e.blk x bs e.dst ps
  else s.engineWrite (s.copyActor core n) e.dst bs

/-- An earlier decrypting copy of the same slot of the context is still at work (R415). -/
def State.decryptTurn (s : State) (core n : Nat) : Bool :=
  let e := s.entryAt core n
  let ctx := (s.copyActor core n).ctx
  !s.cores.any fun c => c.2.copyq.any fun x =>
    let f := x.2
    f.busy && f.crypts && decide (f.op = 2) && decide (f.slot = e.slot) && decide (f.id < e.id) &&
      decide ((s.launchAt (s.blockAt f.blk).launch).ctx = ctx)

/-- Whether a table of a level, or one below it, maps a physical address (R367). -/
def State.tableMaps (s : State) (tier pa : Nat) : Nat → Nat → Nat → Bool
  | level, t, base =>
    (List.range (if level = 0 then 32 else 512)).any fun i =>
      let e := leNat (s.readTier t (base + 8 * i) 8)
      let here := fun (l : Nat) => decide (entryTier e = tier ∧ entryAddr e / 2 ^ pageShift l = pa / 2 ^ pageShift l)
      decide (t ≠ 2) && entryBit e 0 && !entryBad e &&
        match level with
        | 0 => here 0
        | l + 1 => if entryBit e 1 then decide (l < 2) && here (l + 1)
          else State.tableMaps s tier pa l (entryTier e) (entryAddr e)

/-- A physical address lies in a page of a context alone (R267): device memory that no other context maps (log 56). -/
def State.ownedAlone (s : State) (ctx tier pa : Nat) : Bool :=
  decide (tier ≠ 2) && s.ctxs.all fun c => decide (c.1 = ctx) || !s.tableMaps tier pa 4 0 c.2.ptbase.toNat

/-- The destination of a decrypting copy is the block's scratchpad or memory of the context alone (R267), once it is
translated, or else PROTECTION; a destination that faults is left to the write. -/
def State.decryptDst (s : State) (core n : Nat) (k : State → Serve) : Serve :=
  let e := s.entryAt core n
  let p := s.copyActor core n
  if e.op ≠ 2 || decide (e.dspace = 1) then k s
  else match s.accept p.party p.core p.ctx true false (granReqs e.dst (e.word 4)) with
  | .nowhere t a => .nowhere t a
  | .wait s1 => .stop s1
  | .fail _ _ _ _ => k s
  | .ok s1 ps => if ps.all fun x => s1.ownedAlone p.ctx x.tier x.pa then k s1 else .stop (s1.failCopy core n 4 0)

/-- More of the source of a copy that writes at its end. -/
def State.serveRead (s : State) (core n total : Nat) : Serve :=
  let e := s.entryAt core n
  let a := e.src + e.buf.length
  let len := min (128 - a % 128) (total - e.buf.length)
  (s.copyFetch core n a len).serve core n fun s bs =>
    .more (s.updEntry core n fun e => { e with buf := e.buf ++ bs }) len

/-- Numbers as bytes. -/
def toBytes (xs : List Nat) : List Byte := xs.map (BitVec.ofNat 8)

/-- The result of a decrypting or encrypting copy whose source has been read (R267): the bytes to write, or
none for a tag that does not match. -/
def CopyEntry.crypt (e : CopyEntry) (k : KeySlot) : Option (List Byte) :=
  let bs := e.buf.map BitVec.toNat
  if e.op = 2 then
    (gcmOpen k.key (gcmIv k.rsalt k.recv) (bs.take (e.word 4)) (bs.drop (e.word 4))).map toBytes
  else
    let y := gcmSeal k.key (gcmIv k.ssalt e.counter) bs
    some (toBytes (y.1 ++ y.2))

/-- One step of a decrypting or encrypting copy (R267, R415): a decrypting one writes, then increments the receive
counter. -/
def State.serveCrypt (s : State) (core n : Nat) : Serve :=
  let e := s.entryAt core n
  let ctx := (s.copyActor core n).ctx
  match e.held with
  | some out => s.decryptDst core n fun s => (s.storeWhole core n out).serve core n fun s _ =>
      .stop ((if e.op = 2 then s.updCtx ctx fun c =>
        { c with keys := tmap (fun i x => if i = e.slot then { x with recv := x.recv + 1 } else x) c.keys }
        else s).finishCopy core n)
  | none =>
    match tfind? (s.ctxAt ctx).keys e.slot with
    | none => .stop (s.failCopy core n 12 0)
    | some k =>
      if e.op = 2 && !s.decryptTurn core n then .stop s
      else if e.op = 2 && decide (k.recv = 2 ^ 64 - 1) then .stop (s.failCopy core n 12 0)
      else s.decryptDst core n fun s =>
        if e.buf.length < e.rowSrc then s.serveRead core n e.rowSrc
        else
          match e.crypt k with
          | none => .stop (s.failCopy core n 7 0)
          | some out => .more (s.updEntry core n fun e => { e with held := some out }) 0

/-! ### Contributions -/

/-- A contribution that the controller refuses, as the code of its answer (R268). -/
def refusedCode : Nat := 256

/-- The outcome of a contribution told to its issuer (R268): a local copy ends, another rank is answered. -/
def State.tellIssuer (s : State) (c : Contribution) (err : Nat) (other : Word) : State :=
  if c.entry < 64 then s.endCopy c.core c.entry err other
  else
    { s with outbox := s.outbox ++ [.reply c.rank
      { rank := s.rankOf c.ctx, ident := c.ident, seq := c.seq, code := err, info := [other.toNat] } []] }

/-- The held contributions of a region applied as long as one has its turn (R268). -/
def State.drainRegion (s : State) (ctx r : Nat) : Nat → State
  | 0 => s
  | k + 1 =>
    let g := tget (s.ctxAt ctx).regions r {}
    match g.next with
    | none => s
    | some c =>
      match if g.ahead c = 0 then s.applyElem c else .done s 9 0 with
      | .done s1 err other =>
        let g1 := tget (s1.ctxAt ctx).regions r {}
        let s2 := s1.setRegion ctx r { g1 with waiting := g1.waiting.erase c }
        State.drainRegion (s2.tellIssuer c err other) ctx r k
      | .wait s1 => s1
      | .held s1 => s1
      | .refused => s
      | .nowhere _ _ => s

/-- The state with an issuer's copy marked as waiting for its controller. -/
def State.markWaiting (s : State) (c : Contribution) (resend : Bool) : State :=
  if c.entry < 64 then s.updEntry c.core c.entry fun e => { e with waiting := true, resend := resend }
  else s

/-- A contribution reaches its controller (R268, R269): one that waits for a translation comes again. -/
def State.offer (s : State) (c : Contribution) : Out :=
  let s0 := { s with waitContrs := s.waitContrs.erase c }
  match s0.contribute c with
  | .nowhere t a => .fault (.noPhysical t a)
  | .done s1 err other =>
    .next ((s1.tellIssuer c err other).drainRegion c.ctx c.region 512)
  | .held s1 => .next (s1.markWaiting c false)
  | .refused =>
    if c.entry < 64 then .next (s0.markWaiting c true) else .next (s0.tellIssuer c refusedCode 0)
  | .wait s1 => .next ({ s1 with waitContrs := s1.waitContrs ++ [c] }.markWaiting c false)

/-- The contribution of a `dcpr` whose source has been read (R268). -/
def State.contribution (s : State) (core n : Nat) : Contribution :=
  let e := s.entryAt core n
  let l := s.launchAt (s.blockAt e.blk).launch
  let b := redBytes (e.field / 2 ^ 16)
  { ctx := l.ctx, region := e.field % 2 ^ 12, op := e.field / 2 ^ 16, mode := e.field / 2 ^ 12 % 16
    word5 := e.word 5, total := e.word 6, dst := e.dst
    elems := (List.range (e.word 4)).map fun i => leNat ((e.buf.drop (i * b)).take b)
    rank := s.rankOf l.ctx, index := !l.arrival, core := core, entry := n, ident := e.ident.toNat, seq := e.id }

/-- The contribution of a copy made: to a controller here, or sent to its peer (R268, R273). -/
def State.contributeCopy (s : State) (core n : Nat) : Out :=
  let c := s.contribution core n
  let p := (s.entryAt core n).peer
  if s.copyRemote core n then
    if !s.reaches c.ctx p then .next (s.failCopy core n 14 0)
    else .next (({ s with outbox := s.outbox ++ [.contribute p { c with entry := 64 }] } : State).markWaiting c false)
  else s.offer c

/-- One step of a reducing copy (R268): its source is read, then its contribution is made. -/
def State.serveReduce (s : State) (core n : Nat) : Serve :=
  let e := s.entryAt core n
  let b := redBytes (e.field / 2 ^ 16)
  if e.src % b ≠ 0 || decide (e.dst % b ≠ 0) then .stop (s.failCopy core n 6 0)
  else if e.buf.length < e.rowSrc then s.serveRead core n e.rowSrc
  else
    match s.contributeCopy core n with
    | .next s1 => .stop s1
    | .fault (.noPhysical t a) => .nowhere t a
    | .refused _ => .stop s

/-- A copy that waits for its peer takes the peer's answer (R257, R268). -/
def State.serveAnswer (s : State) (core n : Nat) : Serve :=
  let e := s.entryAt core n
  if !s.copyRemote core n then .stop s
  else match takeAnswer e.peer e.ident.toNat e.id s.answers with
  | none => .stop s
  | some (x, rest) =>
    let s1 := { s with answers := rest }
    match e.closing with
    | some (err, other) => .stop (s1.endCopy core n err other)
    | none =>
    if x.code = refusedCode then .stop (s1.updEntry core n fun e => { e with resend := true })
    else if e.kind = .dcpr then .stop (s1.endCopy core n x.code (wrd (x.info.headD 0)))
    else if x.code ≠ 0 then .stop (s1.closeCopy core n x.code (wrd (x.info.headD 0)))
    else .more (s1.updEntry core n fun e => { e with waiting := false }) 0

/-- One step of a busy entry. -/
def State.serveStep (s : State) (core n : Nat) : Serve :=
  let e := s.entryAt core n
  if e.waiting then s.serveAnswer core n
  else if e.kind = .dcpr then s.serveReduce core n
  else if e.crypts then s.serveCrypt core n
  else s.serveUnit core n

/-- Steps of an entry until 128 bytes are served or it stops, over at most `k` steps (R256). -/
def State.serveMany (s : State) (core n served : Nat) : Nat → Out
  | 0 => .next s
  | k + 1 =>
    match s.serveStep core n with
    | .stop s1 => .next s1
    | .nowhere t a => .fault (.noPhysical t a)
    | .more s1 m => if 128 ≤ served + m then .next s1 else State.serveMany s1 core n (served + m) k

/-- The entry that a core's engine serves next: busy ones in rotation by number (R256). -/
def Core.nextEntry (c : Core) : Option Nat :=
  let busy := (List.range 64).filter fun n => (tget c.copyq n {}).busy
  (busy.find? fun n => decide (c.copyPtr ≤ n)) <|> busy.head?

/-- COPY_SERVICE (R256). -/
def execCopyService (core : Nat) (s : State) : Out :=
  match (s.coreAt core).nextEntry with
  | none => .next s
  | some n =>
    let s1 := (s.updCore core fun c => { c with copyPtr := n + 1 }).updEntry core n
      fun e => { e with state := 1 }
    s1.serveMany core n 0 130

/-- REDUCE_CONTRIBUTION (R268, R269): a contribution arrives, or comes again after a wait; a held one whose
turn has come is applied. -/
def execReduceContribution (c : Contribution) (s : State) : Out :=
  if (tget (s.ctxAt c.ctx).regions c.region {}).waiting.contains c then
    .next (s.drainRegion c.ctx c.region 512)
  else s.offer c

/-- ELEM_RESEND (R268): a refused contribution is sent again. -/
def execElemResend (core entry : Nat) (s : State) : Out :=
  if (s.entryAt core entry).busy && (s.entryAt core entry).resend then s.contributeCopy core entry else .next s

end Sys2Proof.Machine
end

