-- ==== Sys2Proof/Machine/Remote.lean ====
section
/-! DEFINITION. The REMOTE instructions (spec/10_copy_fabric.md R275 to R280), transfers at blocks of this
package (R277, R281, R487), and the events ARRIVAL and REMOTE_REQUEST. -/

namespace Sys2Proof.Machine

/-! ### Lanes -/

/-- One active lane of a remote instruction (R276). -/
structure RLane where
  lane : Nat
  peer : Nat
  addr : Nat
  op   : Nat := 0
  wide : Bool := false
  ret  : Bool := false
  okay : Bool := true
  deriving DecidableEq, Repr

/-- The lanes of `rld`, `rst`, `rput` and `rget`: only the rank may be nonzero in a peer word (R276). -/
def WaveRegs.plainLanes (r : WaveRegs) (a b : Nat) : List RLane :=
  (lanesOf r.em).map fun l =>
    let p := (lane (r.v b) l).toNat
    { lane := l, peer := p % 16, addr := (r.v2 a l).toNat, okay := decide (p / 16 = 0) }

/-- The lanes of `ratom` (R276). -/
def WaveRegs.atomLanes (r : WaveRegs) (a b : Nat) : List RLane :=
  (lanesOf r.em).map fun l =>
    let p := (lane (r.v b) l).toNat
    let op := p / 16 % 32
    let wide := decide (p / 2 ^ 9 % 2 = 1)
    { lane := l, peer := p % 16, addr := (r.v2 a l).toNat, op := op, wide := wide
      ret := decide (p / 2 ^ 10 % 2 = 1)
      okay := decide (p / 2 ^ 11 = 0) && decide (op < 15) && !(decide (op = 13) && wide) &&
        !(decide (op = 14) && !wide) }

/-- Bytes of a lane's access. -/
def RLane.bytes (x : RLane) : Nat := if x.wide then 8 else 4

/-- A lane as an access. -/
def RLane.req (x : RLane) : Req := { lane := x.lane, va := x.addr, n := x.bytes }

/-- The distinct peers of lanes in ascending order (R278). -/
def peersOf (xs : List RLane) : List Nat := inOrder (fun a b => decide (a ≤ b)) (xs.map RLane.peer).eraseDups

/-- The rank of a fault in the order of R225. -/
def faultRank (code : Nat) : Nat :=
  if code = 0x0B then 0 else if code = 0x09 then 1 else if code = 0x0C then 2 else if code = 0x0A then 3
  else if code = 0x08 then 4 else if code = 0x12 then 5 else 6

/-- The trap of the lanes of the lowest peer among failing ones. -/
def remoteTrap (code kind : Nat) (xs : List RLane) : Option TrapRec :=
  match peersOf xs with
  | [] => none
  | p :: _ => some (accessTrap code ((xs.filter fun x => x.peer = p).map RLane.req) kind 0 (wrd p))

/-- First-stage checks of a remote instruction (R276, R277, R486): alignment, then rank, peer word and, for
a memory address, the range of R29. -/
def remoteFirst (xs : List RLane) (ranks kind : Nat) (mem : Bool) : Option TrapRec :=
  (remoteTrap 0x0B kind (xs.filter fun x => x.addr % x.bytes ≠ 0)).or
    (remoteTrap 0x09 kind (xs.filter fun x =>
      !x.okay || decide (ranks ≤ x.peer) || (mem && decide (2 ^ 57 ≤ x.addr))))

/-! ### Checks at the homes -/

/-- The lanes of a remote instruction as a message (R276, R277). -/
def WaveRegs.message (r : WaveRegs) (d : Nat) (xs : List RLane) : List RemoteLane :=
  xs.map fun x =>
    { lane := x.lane, addr := x.addr, op := x.op, wide := x.wide, ret := x.ret
      data := laneData r (if x.wide then 2 else 1) d x.lane
      swap := laneData r (if x.wide then 2 else 1) (d + 2) x.lane }

/-- The message of the acting wave's pass to a peer, with its number. -/
def State.request (s : State) (stage : ReqStage) (kind : RemoteKind) (seq d : Nat) (xs : List RLane) : RemoteReq :=
  { stage := stage, track := s.tracks, ctx := s.launch.ctx, jtag := s.launch.jtag, kind := kind
    ident := s.wave.ident.toNat, seq := seq, region := s.regs.region.toNat, lanes := s.regs.message d xs }

/-- The lanes of a peer. -/
def lanesAt (xs : List RLane) (p : Nat) : List RLane := xs.filter fun x => x.peer = p

/-- The rank of the acting wave. -/
def State.ownRank (s : State) : Nat := s.ctxOf.rank

/-- The answers of ranks to one request, and the rest; none while one is missing. -/
def takeAnswers (ident seq : Nat) : List Nat → List Answer → Option (List Answer × List Answer)
  | [], as => some ([], as)
  | p :: ps, as =>
    match takeAnswer p ident seq as with
    | none => none
    | some (a, rest) => (takeAnswers ident seq ps rest).map fun x => (a :: x.1, x.2)

/-- The first fault in the order of R225, of the lowest rank. -/
def firstFault : List (Nat × TrapRec) → Option (Nat × TrapRec)
  | [] => none
  | x :: xs =>
    match firstFault xs with
    | none => some x
    | some y =>
      if faultRank y.2.code < faultRank x.2.code ||
          (decide (faultRank y.2.code = faultRank x.2.code) && decide (y.1 < x.1)) then some y else some x

/-- The fault that an answer tells of (R278). -/
def Answer.trap (a : Answer) : Option (Nat × TrapRec) :=
  if a.code = 0 then none
  else some (a.rank, laneTrap a.code (BitVec.ofNat 64 a.mask) (a.info.map wrd))

/-- The other ranks that the acting wave's lanes name and a path reaches (R274). -/
def State.otherRanks (s : State) (xs : List RLane) : List Nat :=
  (peersOf xs).filter fun p => decide (p ≠ s.ownRank) && s.reaches s.launch.ctx p

/-- The state in which the acting wave has asked its peers for their checks (R278), under a new number: they are homes of
its tags from now on (R207), but for an atomic, which leaves none (R208). -/
def State.askPeers (s : State) (rk : RemoteKind) (d : Nat) (xs : List RLane) : State :=
  let ps := s.otherRanks xs
  let asks := ps.map fun p => .remote p (s.request .ask rk s.fresh d (lanesAt xs p))
  let s1 : State := { s with outbox := s.outbox ++ asks, fresh := s.fresh + 1 }
  s1.setWave { s1.wave with ask := some (s.fresh, ps), homes := if rk = .ratom then s1.wave.homes else (s1.wave.homes ++ ps).eraseDups }

/-- The state without the answers, in which the peers whose checks have passed are told that the access is not made. -/
def State.giveUp (s : State) (rk : RemoteKind) (as rest : List Answer) : State :=
  let drops := (as.filter fun a => a.code = 0).map fun a => .remote a.rank (s.request .drop rk a.seq 0 [])
  ({ s with answers := rest, outbox := s.outbox ++ drops } : State).setWave { s.wave with ask := none }

/-- The state without the answers of other ranks to the checks that the acting wave has asked for. -/
def State.tookAsk (s : State) (others : List Nat) : State :=
  match takeAnswers s.wave.ident.toNat ((s.wave.ask.map Prod.fst).getD 0) others s.answers with
  | none => s
  | some (_, rest) => { s with answers := rest }

/-- The acting wave's fault among those of the passes of an access, in the order of R225, if there is one: it takes it,
and no pass is performed (R278); otherwise `k`. -/
def State.faultOr (s : State) (rk : RemoteKind) (as rest : List Answer) (fs : List (Nat × TrapRec)) (k : Res) : Res :=
  match firstFault fs with
  | some (_, t) => .trapIn (s.giveUp rk as rest) t
  | none => k

/-- The checks of every pass of a memory access (R278): at its own rank at once, at other ranks by a
message and its answer; then, within `sync`, `k` on the local places. -/
def State.remoteChecked (s : State) (kind : Nat) (write : Bool) (rk : RemoteKind) (d : Nat)
    (xs : List RLane) (sync : State → (State → Res) → Res) (k : State → List Place → Res) : Res :=
  let own := s.ownRank
  let others := s.otherRanks xs
  if !others.isEmpty && decide (s.wave.ask.map Prod.snd ≠ some others) then .stay (s.askPeers rk d xs) 27 0
  else
    match takeAnswers s.wave.ident.toNat ((s.wave.ask.map Prod.fst).getD 0) others s.answers with
    | none => .wait 27 0
    | some (as, rest) =>
      let far := as.filterMap Answer.trap
      match s.accept (.wave s.cur) s.wave.core s.launch.ctx write false ((lanesAt xs own).map RLane.req) with
      | .nowhere t a => .fault (.noPhysical t a)
      | .wait s1 => s.faultOr rk as rest (far.filter fun f => faultRank f.2.code < faultRank 0x08) (.stay s1 11 0)
      | .fail s1 code rs resp =>
        s1.faultOr rk as rest (far ++ [(own, accessTrap code rs kind resp (wrd own))]) (.wait 27 0)
      | .ok s1 ps =>
        let near := if s1.tracks then
          ((s1.clash (.wave s.cur) s.launch.ctx kind ps).map fun c => (own, clashTrap c.1 c.2 kind)).toList else []
        s1.faultOr rk as rest (far ++ near)
          (if s1.tracks && s1.contends (.wave s.cur) s.launch.ctx kind ps then .wait 10 0
           else s.room (requests ps) (sync s1 fun s => k (s.tookAsk others) ps))

/-! ### Performing -/

/-- A pass of lanes to a peer. -/
def passTo (xs : List RLane) (p id kind : Nat) (xfer : Bool) : Pass :=
  { rank := p, id := id, lanes := (lanesAt xs p).map fun x => (x.lane, x.addr), kind := kind, xfer := xfer }

/-- The passes of an access to other ranks that can be reached, under one new number, and their messages. -/
def State.sendPasses (s : State) (rk : RemoteKind) (kind d : Nat) (xs : List RLane) : State × List Pass :=
  let ps := s.otherRanks xs
  let sends := ps.map fun p => .remote p (s.request .go rk s.fresh d (lanesAt xs p))
  ({ s with outbox := s.outbox ++ sends, fresh := s.fresh + 1 }, ps.map fun p => passTo xs p s.fresh kind false)

/-- The lanes whose peer no path reaches (R274). -/
def State.cutLanes (s : State) (xs : List RLane) : List RLane :=
  xs.filter fun x => decide (x.peer ≠ s.ownRank) && !s.reaches s.launch.ctx x.peer

/-- What is recorded with a lane that a peer could not serve. -/
def cutInfo (kind : Nat) (x : RLane) : PoisonInfo :=
  { addr := BitVec.ofNat 64 x.addr, peer := wrd x.peer, kind := kind }

/-- The state with the last outstanding load given its passes, mask and more poisoned words. -/
def State.loadPasses (s : State) (ps : List Pass) (m : Mask) (more : List (Nat × PoisonInfo)) : State :=
  s.setWave { s.wave with loads :=
    match s.wave.loads.reverse with
    | [] => []
    | ld :: rest => (rest.reverse) ++ [{ ld with passes := ps, mask := m, pois := ld.pois ++ more }] }

/-- The state with one more operation on ST, its passes and its memory requests here. -/
def State.storePasses (s : State) (ps : List Pass) (reqs : Nat := 0) : State :=
  s.setWave { s.wave with stores := s.wave.stores ++ [{ reqs := reqs, passes := ps }] }

/-- The status word of a failed remote transfer (R263, R278). -/
def xferStatus (err : Nat) : Nat := err * 2 ^ 16 + 3

/-- LINK_LOST for the lanes of a store that no path reaches, once for each peer (R274, R436). -/
def State.failCut (s : State) (xs : List RLane) : State :=
  (peersOf (s.cutLanes xs)).foldl (fun s p => s.failTransfer s.cur 14 (xferStatus 14) (wrd p) 0) s

/-- `rld` (R277). -/
def execRld (d a b : Nat) (s : State) : Out :=
  let xs := s.regs.plainLanes a b
  s.run { ops := [.v d 1 false, .v a 2 true, .v b 1 true], spec := false,
          keys := [.v a 2 true, .v b 1 true], own := remoteFirst xs (s.regs.ctxS 10).toNat kRead true }
    (if xs.isEmpty then .done s
     else if s.wave.ldFull then .wait 8 0
     else s.remoteChecked kRead false .rld d xs (fun s k => k s) fun s ps =>
       let vs := ps.map fun x => (x.req.lane, s.loadAt x)
       let bad := s.badLanes kRead ps
       let cut := (s.cutLanes xs).map fun x => (s.regs.vkey d * 64 + x.lane, cutInfo kRead x)
       let y := (s.accessed kRead true ps).sendPasses .rld kRead d xs
       .done ((y.1.issueLoad d 1 (fun _ l => wrd (laneVal vs l)) (fun _ => bad) (requests ps)).loadPasses y.2
         s.regs.em cut))

/-- `rst` (R277). -/
def execRst (d a b : Nat) (s : State) : Out :=
  let xs := s.regs.plainLanes a b
  s.run { ops := [.v d 1 true, .v a 2 true, .v b 1 true], spec := false,
          keys := [.v a 2 true, .v b 1 true], own := remoteFirst xs (s.regs.ctxS 10).toNat kWrite true }
    (if xs.isEmpty then .done s
     else if s.wave.stFull then .wait 8 0
     else s.remoteChecked kWrite true .rst d xs (fun s k => k s) fun s ps =>
       let cells := storeCells ps (laneData s.regs 1 d)
       let y := ((s.accessed kWrite true ps).writeCells cells).sendPasses .rst kWrite d xs
       .done ((y.1.failCut xs).storePasses y.2 (requests ps)))

/-- The atomic of an op number (R233). -/
def aopOf : Nat → AOp
  | 0 => .add | 1 => .sub | 2 => .minI | 3 => .minN | 4 => .maxI | 5 => .maxN | 6 => .and | 7 => .or
  | 8 => .xor | 9 => .xchg | 10 => .cas | 11 => .inc | 12 => .dec | 13 => .fadd32 | _ => .fadd64

/-- Lane atomics at places in order, with each lane's old value (R234, R277); a poisoned granule stays as it
is (R429). -/
def State.remoteAtomics (s : State) : List Place → List RemoteLane → State × List (Nat × Nat)
  | x :: ps, l :: ls =>
    let old := leNat (s.readTier x.tier x.pa x.req.n)
    let new := amo (aopOf l.op) (if l.wide then .w64 else .w32) old l.data l.swap
    let s1 := if s.poisonAt x.tier x.pa then s else s.writeTier x.tier x.pa (leBytes x.req.n new)
    let y := State.remoteAtomics s1 ps ls
    (y.1, (l.lane, old) :: y.2)
  | _, _ => (s, [])

/-- POISON of the operands that the lanes of `ratom` read (R276, R429). -/
def WaveRegs.atomPoison (r : WaveRegs) (d : Nat) (xs : List RLane) : Option TrapRec :=
  let m := fun (f : RLane → Bool) => mkMask fun l => xs.any fun x => decide (x.lane = l) && f x
  joinPoison ([r.poisonV [r.vkey d] (m fun _ => true), r.poisonV [r.vkey (d + 1)] (m RLane.wide),
    r.poisonV [r.vkey (d + 2)] (m fun x => decide (x.op = 10)),
    r.poisonV [r.vkey (d + 3)] (m fun x => decide (x.op = 10) && x.wide)].filterMap id)

/-- The state with the last outstanding load writing the first register alone in the lanes of a mask. -/
def State.narrowLoad (s : State) (m : Mask) : State :=
  s.setWave { s.wave with loads :=
    match s.wave.loads.reverse with
    | [] => []
    | ld :: rest => (rest.reverse) ++ [{ ld with narrow := m }] }

/-- `ratom` (R276, R277): acquire and release at job scope. -/
def execRatom (d a b : Nat) (s : State) : Out :=
  let r := s.regs
  let xs := r.atomLanes a b
  let rets := xs.filter RLane.ret
  let wide := xs.any fun x => x.ret && x.wide
  s.run { ops := [.v d 4 false, .v a 2 true, .v b 1 true], spec := false,
          keys := [.v a 2 true, .v b 1 true], own := remoteFirst xs (r.ctxS 10).toNat kAtomic true }
    (if xs.isEmpty then s.release .job .done
     else s.poisonOr (r.atomPoison d xs)
       (if (if rets.isEmpty then s.wave.stFull else s.wave.ldFull) then .wait 8 0
       else ((s.wave.releaseWait (some .job))).getD
         (s.remoteChecked kAtomic true .ratom d xs (fun s k => s.release .job k) fun s ps =>
           let bad := ps.filter fun x => s.poisonAt x.tier x.pa
           let y := (s.accessed kAtomic true ps).remoteAtomics ps (r.message d (lanesAt xs s.ownRank))
           let lost := bad.filter fun x => !rets.any fun q => q.lane = x.req.lane
           let z := (if lost.isEmpty then y.1 else y.1.pendPoison kAtomic lost).sendPasses .ratom kAtomic d xs
           if rets.isEmpty then .done ((z.1.failCut xs).storePasses z.2 (requests ps))
           else
             let m := mkMask fun l => rets.any fun q => q.lane = l
             let narrow := mkMask fun l => rets.any fun q => decide (q.lane = l) && !q.wide
             let n := if wide then 2 else 1
             let val := fun i l => wrd (laneVal y.2 l / 2 ^ (32 * i))
             let keys := (List.range n).map fun i => r.vkey (d + i)
             let cut := (s.cutLanes rets).flatMap fun x =>
               keys.map fun k => (k * 64 + x.lane, cutInfo kAtomic x)
             .done ((((z.1.failCut (xs.filter fun x => !x.ret)).issueLoad d n val
               (fun _ => bad.map fun x => (x.req.lane, { addr := BitVec.ofNat 64 x.req.va, kind := kAtomic }))
               (requests ps)).loadPasses z.2 m cut).narrowLoad narrow))))

/-! ### Transfers at blocks -/

/-- The block that a transfer reaches (R277, R281): none for NO_BLOCK. -/
inductive Target where
  | noBlock
  | discard
  | at (bk : Nat)
  deriving DecidableEq, Repr

/-- The target of an access of a transfer (R277, R281). -/
def State.targetOf (s : State) (ctx jtag blk addr : Nat) (put : Bool) : Target :=
  match s.launches.find? fun l => decide (l.2.ctx = ctx) && decide (l.2.jtag = jtag) && !l.2.complete with
  | none => .noBlock
  | some (ln, l) =>
    let k := blockKey ln blk
    if l.blocks ≤ blk || decide (l.scratch ≤ addr) then .noBlock
    else
      match (s.blockAt k).st with
      | .retired | .removed => if put then .discard else .noBlock
      | .pending | .resident | .saved => .at k

/-- The state with the image of a Pending block created at its first access (R281). -/
def State.withImage (s : State) (ctx jtag blk : Nat) : State :=
  match s.launches.find? fun l => decide (l.2.ctx = ctx) && decide (l.2.jtag = jtag) && !l.2.complete with
  | none => s
  | some (ln, l) =>
    let k := blockKey ln blk
    match tfind? s.blocks k with
    | some _ => s
    | none => { s with blocks := tset s.blocks k { launch := ln, lin := blk, ssize := l.scratch } }

/-- The accesses of a transfer to one line of one block, as many as come first, and the rest. -/
def oneLine (blk ln : Nat) : List (Nat × Nat × Nat × List Byte) →
    List (Nat × Nat × Nat × List Byte) × List (Nat × Nat × Nat × List Byte)
  | [] => ([], [])
  | (l, b, a, bs) :: rest =>
    if b = blk && decide (a / 128 = ln) then
      let y := oneLine blk ln rest
      ((l, b, a, bs) :: y.1, y.2)
    else ([], (l, b, a, bs) :: rest)

/-- How far a transfer comes: its end, with an error code and the other party, or what is left of it. -/
inductive Move where
  | done (s : State) (t : Transfer) (err : Nat) (other : Word)
  | held (s : State) (t : Transfer)

/-- Since when a transfer waits, for one that stalls now (R214). -/
def Transfer.from (t : Transfer) (cycle : Nat) : Nat := if t.accept.isEmpty then cycle else t.since

/-- A transfer that stalls at a line of a block. -/
def Transfer.stalled (t : Transfer) (cycle bk line code : Nat) : Transfer :=
  { t with blk := bk, accept := [(line, code)], since := t.from cycle }

/-- One access of an `rget` at a block (R214, R215, R277). -/
def State.getWord (s : State) (bk : Nat) (t : Transfer) (l a : Nat) : Got (Nat × Nat × Bool) :=
  let b := s.blockAt bk
  match b.padRead t.x.word (a / 128) with
  | .stall => .stall s
  | .conflict f => .fail s.drawn 2 (s.foeWord f)
  | .ok b1 =>
    .ok (s.updBlock bk fun _ => b1) (l, leNat (b.scratch.readList a 4), b.spois.contains (a / 4))

/-- The next access of a transfer at a block: an arrival at a line, or a word read (R277, R487), once the stalls at the
line that began earlier have had their turn (R214). -/
def State.transferAt (s : State) (t : Transfer) (bk l blk a : Nat) (bs : List Byte)
    (rest : List (Nat × Nat × Nat × List Byte)) : Got Transfer :=
  let i := a / 128
  if s.lineTurn bk (t.from s.cycle) [i] then .stall s
  else if t.put then
    let y := oneLine blk i ((l, blk, a, bs) :: rest)
    match (s.blockAt bk).arrive t.x i (y.1.flatMap fun i => cellsAt i.2.2.1 i.2.2.2) with
    | .ok b => .ok (s.updBlock bk fun _ => b) { t with items := y.2, accept := [] }
    | .held => .stall s
    | .conflict o => .fail s 1 (s.ownerWord o)
  else (s.getWord bk t l a).bind fun s v => .ok s { t with items := rest, got := t.got ++ [v], accept := [] }

/-- The work of a transfer, an arrival at a line or a word read at a time, over at most `n` of them (R277,
R281, R487). -/
def State.runTransfer (s : State) (t : Transfer) : Nat → Move
  | 0 => .held s t
  | n + 1 =>
    match t.items with
    | [] => .done s t 0 0
    | (l, blk, a, bs) :: rest =>
      match s.targetOf t.ctx t.jtag blk a t.put with
      | .noBlock => .done s t 16 0
      | .discard => State.runTransfer s { t with items := rest } n
      | .at bk =>
        let s1 := s.withImage t.ctx t.jtag blk
        let held := fun (s : State) => Move.held s (t.stalled s.cycle bk (a / 128) (if t.put then 8 else 7))
        match s1.transferAt t bk l blk a bs rest with
        | .ok s2 t2 => State.runTransfer s2 t2 n
        | .stall s2 => held s2
        | .fail s2 err o => .done s2 t err o
        | .nowhere _ _ => held s1

/-- A pass of a load answered: values in its lanes, the words that arrive poisoned, the pass gone. -/
def PendLoad.answer (ld : PendLoad) (rank id : Nat) (vals : List (Nat × Nat))
    (bad : List (Nat × PoisonInfo)) : PendLoad :=
  { ld with
    dests := ld.dests.mapIdx fun i d => (d.1, mkLanes fun l =>
      match vals.find? fun v => v.1 = l with
      | none => lane d.2 l
      | some v => wrd (v.2 / 2 ^ (32 * i)))
    pois := ld.pois ++ bad.flatMap fun p => ld.dests.map fun d => (d.1 * 64 + p.1, p.2)
    passes := ld.passes.filter fun p => !(decide (p.rank = rank) && decide (p.id = id)) }

/-- The wave with a pass of its loads and stores answered. -/
def Wave.answer (w : Wave) (rank id : Nat) (vals : List (Nat × Nat)) (bad : List (Nat × PoisonInfo)) :
    Wave :=
  let hit := fun p : Pass => decide (p.rank = rank) && decide (p.id = id)
  { w with
    loads := w.loads.map fun ld => if ld.passes.any hit then ld.answer rank id vals bad else ld
    stores := w.stores.map fun st => { st with passes := st.passes.filter fun p => !hit p } }

/-- The state without the lines that a failed transfer left FILLING (R433). -/
def State.giveBackAll (s : State) (x : Xfer) : State :=
  { s with blocks := tmap (fun _ b => b.giveBack x) s.blocks }

/-- The pass of a wave's loads and stores that a rank's answer is for. -/
def Wave.passOf (w : Wave) (rank id : Nat) : Option Pass :=
  (w.loads.flatMap PendLoad.passes ++ w.stores.flatMap PendStore.passes).find? fun p =>
    decide (p.rank = rank) && decide (p.id = id)

/-- What is recorded with a word of a pass that arrives poisoned (R430). -/
def Pass.info (p : Pass) (l : Nat) : PoisonInfo :=
  { addr := BitVec.ofNat 64 (((p.lanes.find? fun x => x.1 = l).map Prod.snd).getD 0), peer := wrd p.rank, kind := p.kind }

/-- The lanes of a wave that a load of it writes. -/
def Wave.awaitsLane (w : Wave) (p : Pass) (l : Nat) : Bool :=
  w.loads.any fun ld => ld.passes.contains p && bitOf ld.mask l

/-- The state with a pass of a wave answered (R277, R278, R429): its values and poisoned words; POISON for the wave where
an atomic without a result met a poisoned granule. A failed transfer gives COPY_ERROR, and free values for an `rget`
(log 9); an access that cannot be made gives poisoned words, and LINK_LOST for lanes without a result (R436). -/
def State.passAnswered (s : State) (k : Nat) (a : Answer) (vals : List (Nat × Nat)) : State :=
  let w := s.waveAt k
  match w.passOf a.rank a.seq with
  | none => s
  | some p =>
    let all := p.lanes.map Prod.fst
    let marks := fun ls : List Nat => ls.map fun l => (l, p.info l)
    if a.code ≠ 0 then
      if p.xfer then
        let free := all.map fun l => (l, (Config.freeValue (s.fresh + l)).toNat % 2 ^ 32)
        ({ s.updWave k (fun w => w.answer a.rank a.seq free []) with fresh := s.fresh + 64 } : State).failTransfer k
          a.code (xferStatus a.code) (wrd a.rank) (wrd (a.info.headD 0))
      else
        let s1 := s.updWave k fun w => w.answer a.rank a.seq [] (marks all)
        if all.all (w.awaitsLane p) then s1 else s1.failTransfer k 14 (xferStatus 14) (wrd a.rank) 0
    else
      let lost := a.bad.filter fun l => !w.awaitsLane p l
      s.updWave k fun w =>
        let v := w.answer a.rank a.seq vals (marks a.bad)
        if lost.isEmpty then v
        else v.pendAccess (poisonTrap (mkMask fun l => lost.contains l) (p.info (lost.headD 0)))

/-- The end of a transfer (R277, R278): a local issuer's pass is answered; another rank gets the answer. -/
def State.endTransfer (s : State) (t : Transfer) (err : Nat) (other : Word) : State :=
  let own := s.rankOf t.ctx
  let s1 := if err = 0 then s else s.giveBackAll t.x
  let a : Answer :=
    { rank := own, ident := t.x.word, seq := t.seq, code := err, info := [other.toNat]
      bad := if err = 0 then (t.got.filter fun g => g.2.2).map Prod.fst else [] }
  let vals := if err = 0 then t.got.map fun g => (g.1, g.2.1) else []
  if t.rank = own then s1.passAnswered t.wave a vals else { s1 with outbox := s1.outbox ++ [.reply t.rank a vals] }

/-- A transfer set to work: it ends, or is kept. -/
def State.moveTransfer (s : State) (t : Transfer) : State :=
  match s.runTransfer t (t.items.length + 1) with
  | .done s1 t1 err other => s1.endTransfer t1 err other
  | .held s1 t1 => { s1 with transfers := s1.transfers ++ [t1] }

/-- Every access of a pass reaches a block, or the pass fails as a whole (R277). -/
def State.startTransfer (s : State) (t : Transfer) : State :=
  if t.items.any fun i => decide (s.targetOf t.ctx t.jtag i.2.1 i.2.2.1 t.put = .noBlock) then
    s.endTransfer t 16 0
  else s.moveTransfer t

/-- The accesses of a pass of `rput` or `rget` (R277): in ascending block and address for `rput`, the
highest lane of one word last. -/
def WaveRegs.passItems (r : WaveRegs) (put : Bool) (d : Nat) (xs : List RLane) :
    List (Nat × Nat × Nat × List Byte) :=
  let is := xs.map fun x =>
    (x.lane, x.addr / 2 ^ 32, x.addr % 2 ^ 32, if put then leBytes 4 (lane (r.v d) x.lane).toNat else [])
  if put then
    inOrder (fun i j => decide (i.2.1 < j.2.1) || (decide (i.2.1 = j.2.1) && decide (i.2.2.1 ≤ j.2.2.1)))
      (is.filter fun i => !is.any fun j =>
        decide (j.2.1 = i.2.1) && decide (j.2.2.1 = i.2.2.1) && decide (i.1 < j.1))
  else is

/-- The identity word of a remote transfer (R375). -/
def transferIdent (w : Word) : Nat := (w + 0x80#32).toNat

/-- One pass of `rput` or `rget` (R277, R278): at its own rank it sets to work, to another it is sent, and
without a path it fails. -/
def State.onePass (s : State) (put : Bool) (id d : Nat) (xs : List RLane) (p : Nat) : State :=
  let mine := lanesAt xs p
  let is := s.regs.passItems put d mine
  let l := s.launch
  let word := transferIdent s.wave.ident
  if p = s.ownRank then
    s.startTransfer
      { put := put, ctx := l.ctx, jtag := l.jtag, rank := p, seq := id, wave := s.cur, items := is
        x := { issuer := s.wave.ident.toNat, kind := 1, word := word, id := id } }
  else if !s.reaches l.ctx p then s.passAnswered s.cur { rank := p, ident := word, seq := id, code := 14 } []
  else if put then
    { s with outbox := s.outbox ++
      [.put p l.ctx l.jtag word id (is.map fun i => (i.2.1, i.2.2.1, i.2.2.2.map BitVec.toNat))] }
  else { s with outbox := s.outbox ++ [.remote p (s.request .go .rget id d mine)] }

/-- `rput` and `rget` (R277, R278): counted once, then each pass in ascending rank. -/
def State.transferOp (s : State) (put : Bool) (d a b : Nat) : Out :=
  let xs := s.regs.plainLanes a b
  let id := s.fresh
  let ps := (peersOf xs).map fun p => passTo xs p id kArrival true
  s.run { ops := [.v d 1 put, .v a 2 true, .v b 1 true], spec := false,
          keys := [.v a 2 true, .v b 1 true], own := remoteFirst xs (s.regs.ctxS 10).toNat kArrival false }
    (if xs.isEmpty then .done s
     else if (if put then s.wave.stFull else s.wave.ldFull) then .wait 8 0
     else
       let s1 := if put then s.drawn.storePasses ps
         else (s.drawn.issueLoad d 1 (fun _ _ => 0) (fun _ => [])).loadPasses ps s.regs.em []
       .done ((peersOf xs).foldl (fun s p => s.onePass put id d xs p) s1))

/-- `rput` (R277). -/
def execRput (d a b : Nat) (s : State) : Out := s.transferOp true d a b
/-- `rget` (R277). -/
def execRget (d a b : Nat) (s : State) : Out := s.transferOp false d a b

/-- `rflush` (R280): local copies of remote lines are never stale in this model (log 10). -/
def execRflush (a b : Nat) (s : State) : Out :=
  let xs := s.regs.plainLanes a b
  s.run { ops := [.v a 2 true, .v b 1 true], spec := false, keys := [.v b 1 true],
          own := remoteTrap 0x09 kRead (xs.filter fun x => !x.okay || decide ((s.regs.ctxS 10).toNat ≤ x.peer)) }
    (.done s)

/-! ### Arrivals from other ranks -/

/-- The first transfer that satisfies a test, and the others. -/
def takeTransfer (f : Transfer → Bool) : List Transfer → Option (Transfer × List Transfer)
  | [] => none
  | t :: ts => if f t then some (t, ts) else (takeTransfer f ts).map fun x => (x.1, t :: x.2)

/-- The transfer of an identity word and a number of a context set to work again, or a new one begun (R277). -/
def State.transferEvent (s : State) (put : Bool) (ctx jtag ident seq : Nat)
    (items : List (Nat × Nat × Nat × List Byte)) : State :=
  match takeTransfer (fun t => t.put = put && t.x.word = ident && t.seq = seq && t.ctx = ctx) s.transfers with
  | some (t, ts) => ({ s with transfers := ts } : State).moveTransfer t
  | none =>
    s.drawn.startTransfer
      { put := put, ctx := ctx, jtag := jtag, rank := ident / 2 ^ 28 % 16, seq := seq, items := items
        x := { issuer := ident - 0x80, kind := 1, word := ident, id := s.fresh } }

/-- ARRIVAL (R214, R216, R217, R281, R487): the words of an `rput` pass, in ascending order, reach their lines, or a
held pass is tried again. -/
def execArrival (ctx jtag ident seq : Nat) (places : List (Nat × Nat)) (data : List (List Nat)) (s : State) : Out :=
  .next (s.transferEvent true ctx jtag ident seq
    ((places.zip data).map fun i => (0, i.1.1, i.1.2, toBytes i.2)))

/-- The lanes of a request as accesses. -/
def reqLanes (r : RemoteReq) : List Req :=
  r.lanes.map fun l => { lane := l.lane, va := l.addr, n := if l.wide then 8 else 4 }

/-- The access kind of a request. -/
def reqKind (r : RemoteReq) : Nat :=
  match r.kind with
  | .rld => kRead
  | .rst => kWrite
  | .ratom => kAtomic
  | .rget => kArrival
  | .write => kCopyWrite

/-- The party that a request acts for, at no core of this package. -/
def reqParty (r : RemoteReq) : Party := .remote r.ident 0

/-- The state with an answer to a request: values, poisoned lanes, or a code with its information. -/
def State.replyTo (s : State) (r : RemoteReq) (vals : List (Nat × Nat)) (bad : List Nat) (code : Nat := 0)
    (mask : Nat := 0) (info : List Nat := []) : State :=
  { s with outbox := s.outbox ++ [.reply (r.ident / 2 ^ 28 % 16)
    { rank := s.rankOf r.ctx, ident := r.ident, seq := r.seq, code := code, mask := mask, info := info
      bad := bad } vals] }

/-- The state with a trap as the answer to a request (R278, R376). -/
def State.replyTrap (s : State) (r : RemoteReq) (t : TrapRec) : State :=
  s.replyTo r [] [] t.code ((t.info.getD 0 0).toNat + (t.info.getD 1 0).toNat * 2 ^ 32)
    ((t.info.drop 2).map BitVec.toNat)

/-- The tag of a request's access. -/
def reqTag (r : RemoteReq) : Tag :=
  { party := reqParty r, ident := wrd r.ident, kind := reqKind r, region := wrd r.region }

/-- The state without what a party has reserved. -/
def State.unreserve (s : State) (p : Party) : State :=
  { s with reserved := s.reserved.filter fun x => x.tag.party ≠ p }

/-- The state without what a party has reserved for plain accesses of the region that ends. An atomic, which ends it,
keeps its places. -/
def State.unreservePlain (s : State) (p : Party) : State :=
  { s with reserved := s.reserved.filter fun x => decide (x.tag.party ≠ p) || decide (x.tag.kind = kAtomic) }

/-- The request performed (R277): what its lanes return, and those that are poisoned (R429). -/
def State.performReq (s : State) (r : RemoteReq) (ps : List Place) : State :=
  let s1 := if r.track then s.recordTags (reqTag r) r.ctx ps else s
  let s2 := s1.l2Touch 48 r.ctx true ps
  let bad := (ps.filter fun x => s.poisonAt x.tier x.pa).map fun x => x.req.lane
  match r.kind with
  | .rst =>
    (s2.writeCells (storeCells ps fun l =>
      ((r.lanes.find? fun x => x.lane = l).map RemoteLane.data).getD 0)).replyTo r [] []
  | .ratom =>
    let y := s2.remoteAtomics ps r.lanes
    y.1.replyTo r y.2 bad
  | .rld | .rget | .write =>
    s2.replyTo r (ps.map fun x => (x.req.lane, leNat (s2.readTier x.tier x.pa x.req.n))) bad

/-- A memory access of another rank checked here (R205, R225, R278): its answer, or `k` on its places. -/
def State.checkReq (s : State) (r : RemoteReq) (k : State → List Place → State) : Out :=
  match s.accept (reqParty r) 48 r.ctx (decide (r.kind ≠ .rld)) false (reqLanes r) with
  | .nowhere t a => .fault (.noPhysical t a)
  | .wait s1 => .next { s1 with waitReqs := s1.waitReqs ++ [r] }
  | .fail s1 code rs resp =>
    .next (s1.replyTrap r (accessTrap code rs (reqKind r) resp (wrd (s1.rankOf r.ctx))))
  | .ok s1 ps =>
    match (if r.track then s1.clash (reqParty r) r.ctx (reqKind r) ps else none) with
    | some (c, rs) => .next (s1.replyTrap r (clashTrap c rs (reqKind r)))
    | none =>
      .next (if r.track && s1.contends (reqParty r) r.ctx (reqKind r) ps then { s1 with waitReqs := s1.waitReqs ++ [r] }
        else k s1 ps)

/-- A memory access that has passed its checks is performed at the places found then (R278); one that has not is checked
first. -/
def State.goReq (s : State) (r : RemoteReq) : Out :=
  match s.reserved.find? fun x => x.tag.party = reqParty r with
  | some x => .next ((s.unreserve (reqParty r)).performReq r x.places)
  | none => s.checkReq r fun s ps => s.performReq r ps

/-- The write of another rank's copy (R212, R257): checked, tagged and performed at once. -/
def State.serveWrite (s : State) (r : RemoteReq) : Out :=
  let p : Actor := { party := reqParty r, ident := wrd r.ident, core := 48, ctx := r.ctx }
  match s.engineWrite p ((r.lanes.map RemoteLane.addr).headD 0) (toBytes r.bytes) with
  | .ok s1 _ => .next (s1.replyTo r [] [])
  | .stall s1 => .next { s1 with waitReqs := s1.waitReqs ++ [r] }
  | .fail s1 err other => .next (s1.replyTo r [] [] err 0 [other.toNat])
  | .nowhere t a => .fault (.noPhysical t a)

/-- REMOTE_REQUEST (R205, R207, R277, R278, R281): an access of another rank at its home here, at its stage. The end of a
region or of a copy is answered. -/
def execRemoteRequest (r : RemoteReq) (s : State) : Out :=
  let p := reqParty r
  let s0 := { s with waitReqs := s.waitReqs.erase r }
  match r.stage, r.kind with
  | .ended, _ => .next (((s0.retireTags p).unreservePlain p).replyTo r [] [])
  | .drop, _ => .next (s0.unreserve p)
  | .ask, _ => (s0.unreserve p).checkReq r fun s ps =>
    ({ s with reserved := s.reserved ++
      [{ tag := reqTag r, track := r.track, ctx := r.ctx, places := ps }] } : State).replyTo r [] []
  | .go, .rget =>
    .next (s0.transferEvent false r.ctx r.jtag (transferIdent (wrd r.ident)) r.seq
      (r.lanes.map fun l => (l.lane, l.addr / 2 ^ 32, l.addr % 2 ^ 32, [])))
  | .go, .write => s0.serveWrite r
  | .go, _ => s0.goReq r

end Sys2Proof.Machine
end

