-- ==== Sys2Proof/Machine/Waves.lean ====
section
/-! DEFINITION. Events of a wave: a word that is no instruction (spec/02_encoding.md R54 to R56), trap
entry (spec/16_contexts.md R371 to R373), completions of its operations (spec/01_machine.md R32, R33), the
drain of `exit` (R38), replies, the watchdog (spec/12_control.md R305) and the deadline of a pre-emption
(spec/16_contexts.md R377). -/

namespace Sys2Proof.Machine

/-- The state after another wave has acted. -/
def State.onWave (s : State) (k : Nat) (f : State → State) : State :=
  { f { s with cur := k } with cur := s.cur }

/-- The register number in a word of the form of `rdsys` or `wrsys`, 0 in another (R383). -/
def sysField (word : Nat) : Nat :=
  let form := word / 2 ^ 21 = 4 ∧ word / 2 ^ 7 % 2 ^ 7 = 0 ∨ word / 2 ^ 21 = 5 ∧ word / 2 ^ 14 % 2 ^ 7 = 0
  if form then word % 2 ^ 7 else 0

/-- A word that is not an instruction (R54 to R56); of a form of `rdsys` or `wrsys` that names no register, the number is
shown (R376, R387). -/
def execIllegalInstruction (word : Nat) (s : State) : Out :=
  s.run {} (.trap (mkTrap 0x01 [wrd word, wrd (sysField word)]))

/-! ### Trap entry -/

/-- The traps that reach a draining wave (R41). -/
def PendTrap.drains (t : PendTrap) : Bool :=
  decide (t.trap.code = 0x28) || decide (t.trap.code = 0x20) || t.held

/-- The overlay slot of a wave's next instruction is being loaded (R76). -/
def State.overlayBusy (s : State) (w : Wave) : Bool :=
  !(tget (s.coreAt w.core).slots (w.regs.pc.toNat / 2 ^ 16) {}).loading.isEmpty

/-- The word at a wave's pc is poisoned (R427, R429), in a slot that is not being loaded (R76). -/
def State.fetchPoisoned (s : State) (w : Wave) : Bool :=
  decide (w.life = .resident) && w.sysWait.isNone && !s.overlayBusy w &&
    (tget (s.coreAt w.core).slots (w.regs.pc.toNat / 2 ^ 16) {}).pois.contains (w.regs.pc.toNat % 2 ^ 16 / 4)

/-- The wave waits for an overlay load, at a fetch (R76) or at an `ovcall` (R389): PREEMPT comes after it (R390). -/
def State.loadsOverlay (s : State) (w : Wave) : Bool := s.overlayBusy w || decide (w.stall = 23)

/-- The trap that a wave takes at this boundary, beside its instruction's own (R371, R373): none while it waits for a
reply (R302), and no PREEMPT while it waits for an overlay load (R390). -/
def State.boundary (s : State) (w : Wave) : Option PendTrap :=
  if w.sysWait.isSome then none
  else match w.life with
  | .resident => w.deliverable fun t => !t.late && !(decide (t.trap.code = 0x3C) && s.loadsOverlay w)
  | .draining => w.deliverable PendTrap.drains
  | .parking | .parked | .saved | .exited | .removed => none

/-- The acting wave takes the trap of its boundary (R372), WATCHDOG with what it names at that boundary (R305); a draining
wave is Resident in its handler (R41). -/
def State.deliver (s : State) (t : PendTrap) : State :=
  let w := s.wave
  (s.setWave { w with
    pend := w.pend.erase t
    life := if w.life = .draining then .resident else w.life }).takeTrap
      (if t.trap.code = 0x1A then w.watchdogTrap else t.trap)

/-- POISON of a fetched word (R429). -/
def fetchTrap (pc : Pc) : TrapRec := poisonTrap 0 { addr := pc.setWidth 64 }

/-- TRAP_ENTRY (R371 to R373): the trap of a poisoned word comes before those of a boundary. -/
def execTrapEntry (w : Nat) (s : State) : Out :=
  let v := s.waveAt w
  if s.fetchPoisoned v then .next (s.onWave w fun s => s.takeTrap (fetchTrap v.regs.pc))
  else match s.boundary v with
  | some t => .next (s.onWave w fun s => s.deliver t)
  | none => .next s

/-! ### Completions -/

/-- The lanes in which a load writes its destination register `i` (R28, R276). -/
def PendLoad.writes (ld : PendLoad) (i : Nat) : Mask := if i = 0 then ld.mask else ld.mask &&& ~~~ld.narrow

/-- Registers with destination `i` of a completed load written, a physical register with its values (R28, R32, R429). -/
def WaveRegs.landOne (r : WaveRegs) (ld : PendLoad) (d : (Nat × Lanes) × Nat) : WaveRegs :=
  let here := fun e : Nat × PoisonInfo => decide (e.1 / 64 = d.1.1) && bitOf (ld.writes d.2) (e.1 % 64)
  { r with
    vregs := tset r.vregs d.1.1 (mkLanes fun l =>
      if bitOf (ld.writes d.2) l then lane d.1.2 l else lane (tget r.vregs d.1.1 []) l)
    vpois := (ld.pois.filter here).foldl (fun t p => tset t p.1 p.2) (r.vpois.filter fun e => !here e) }

/-- Registers with a completed load written. -/
def WaveRegs.land (r : WaveRegs) (ld : PendLoad) : WaveRegs := ld.dests.zipIdx.foldl (fun r d => r.landOne ld d) r

/-- A speculation with a completed load written into the registers that a roll-back restores, as far as
the load was issued before them (R220, R318). -/
def Spec.land (sp : Spec) (ld : PendLoad) : Spec :=
  { sp with
    base := if ld.spec.isNone then sp.base.land ld else sp.base
    held := sp.held.mapIdx fun i h => if ld.after i then h else { h with before := h.before.land ld } }

/-- A wave with its first load completed (R33). -/
def Wave.landFirst (w : Wave) : Wave :=
  match w.loads with
  | [] => w
  | ld :: rest =>
    { w with loads := rest, regs := w.regs.land ld, spec := w.spec.map fun sp => sp.land ld }

/-- LOAD_COMPLETE (R32, R33): a peer's answer to a pass; without one, the first load is written when every
pass of it has been answered. -/
def execLoadComplete (w : Nat) (reply : Option Answer) (vals : List (Nat × Nat)) (s : State) : Out :=
  match reply with
  | some a => .next (s.passAnswered w a vals)
  | none =>
    match (s.waveAt w).loads with
    | [] => .next s
    | ld :: _ => if ld.remote then .next s else .next (s.updWave w Wave.landFirst)

/-- STORE_PERFORMED (R32, R33): a peer's answer to a pass; without one, the first store is performed when every pass of
it has been answered. -/
def execStorePerformed (x : Performed) (s : State) : Out :=
  match x.reply with
  | some a => .next (s.passAnswered x.w a [])
  | none =>
    match (s.waveAt x.w).stores with
    | [] => .next s
    | st :: rest => if st.remote then .next s else .next (s.updWave x.w fun v => { v with stores := rest })

/-- OVERLAY_LOAD_COMPLETE (R43, R76, R388): the slot's oldest load takes effect; no word of an earlier overlay
remains. One of the overlay that the slot holds changes nothing. -/
def execOverlayLoadComplete (core slot : Nat) (s : State) : Out :=
  .next (s.updCore core fun c =>
    let sl := tget c.slots slot {}
    match sl.loading with
    | [] => c
    | (n, ws, bad) :: rest =>
      let sl1 : ImemSlot := if sl.ov = some n then { sl with loading := rest }
        else { ov := some n, words := ws.mapIdx fun i x => (i, x), loading := rest, pois := bad }
      { c with slots := tset c.slots slot sl1 })

/-! ### Exit -/

/-- A wave that has drained (R38). -/
def Wave.drained (w : Wave) : Bool := w.loads.isEmpty && w.stores.isEmpty && w.tileOps.isEmpty

/-! ### Replies -/

/-- The registers with the reply of a `sys` in D to D+3 of the active lanes (R386). -/
def WaveRegs.reply (r : WaveRegs) (d : Nat) (f : Nat → Nat → Word) : WaveRegs :=
  (List.range 4).foldl (fun r i => r.putV (d + i) fun l => f l i) r

/-- The word of a storage service's reply (R413). -/
def storageWord (res : List (Nat × Nat × Nat)) (l i : Nat) : Word :=
  match res.find? fun x => x.1 = l with
  | none => 0
  | some x => if i = 0 then wrd x.2.1 else if i = 1 then wrd x.2.2 else 0

/-- The position of a lane among the lanes of a mask. -/
def laneRank (m : Mask) (l : Nat) : Nat := ((lanesOf m).filter fun k => k < l).length

/-- SYS_REPLY (R302, R386, R413): the result registers are written and the wave issues on. -/
def execSysReply (w : Nat) (data : List Nat) (s : State) : Out :=
  let v := s.waveAt w
  match v.sysWait with
  | none => .next s
  | some (n, d) =>
    let c := s.ctxAt (s.launchAt v.launch).ctx
    let f := fun l i =>
      if n = storageService && c.serves n then storageWord v.sysRes l i
      else if c.serves n then wrd (data.getD (4 * laneRank v.regs.em l + i) 0)
      else if i = 0 then 0xFFFFFFFF#32 else 0
    .next (({ s with fresh := s.fresh + 256 } : State).updWave w fun v =>
      let r := v.regs
      { (({ v with regs := r.reply d f, sysWait := none, sysRes := [] } : Wave).retire r s.cycle 0
          (nextPc r.pc)) with since := s.cycle })

/-! ### Watchdog and pre-emption -/

/-- WATCHDOG (R305): the trap of the wave's boundary, when no other comes first (R373). -/
def execWatchdog (w : Nat) (s : State) : Out :=
  match s.boundary (s.waveAt w) with
  | some t => .next (if t.trap.code = 0x1A then s.onWave w fun s => s.deliver t else s)
  | none => .next s

/-- A wave whose pre-emption deadline has passed before it has been pre-empted (R377). -/
def Wave.overdue (w : Wave) (cycle : Nat) : Bool :=
  match w.preq with
  | none => false
  | some q => decide (w.life = .resident) && decide (q.deadline ≤ cycle) && !w.preempting &&
      !(w.regs.priv && decide (w.regs.tcode.toNat % 256 = 0x3C))

/-- A wave that its deadline pre-empts (R319, R377): speculation is rolled back to the collective. -/
def Wave.preemptNow (w : Wave) (cycle : Nat) : Wave :=
  match w.preq with
  | none => w
  | some q =>
    let v := w.rollBack
    { v with pend := v.pend ++ [v.preemptTrap q 0 cycle] }

/-- PREEMPT_DEADLINE (R377): every wave of the launch that is not pre-empted by now. -/
def execPreemptDeadline (l : Nat) (s : State) : Out :=
  .next { s with waves := tmap (fun _ w =>
    if w.launch = l && w.overdue s.cycle then w.preemptNow s.cycle else w) s.waves }

end Sys2Proof.Machine
end

