-- ==== Sys2Proof/Machine/Blocks.lean ====
section
/-! DEFINITION. The life of a block: placement (spec/01_machine.md R15 to R17, R37; spec/14_scheduling.md R335
to R340), retirement (R39), pre-emption and restoring (spec/16_contexts.md R379 to R382) and the quanta of
cores that share a physical core (R342). -/

namespace Sys2Proof.Machine

/-! ### Cores -/

/-- Whether a logical core receives blocks of a launch (R336, R340). -/
def State.receives (s : State) (bound : Bool) (c : Nat) : Bool :=
  (s.physical c).isSome && (bound || decide ((s.group c).head? = some c))

/-- The launch mode BOUND (R401). -/
def Launch.bound (l : Launch) : Bool := decide (l.mode = 2)

/-- A block that holds its cores: placed, and not yet retired. -/
def Block.onCores (b : Block) : Bool := !b.cores.isEmpty

/-- The launch that holds a logical core, by any block of it there (R74). -/
def State.launchOn (s : State) (c : Nat) : Option Nat :=
  (s.blocks.find? fun b => b.2.onCores && b.2.cores.contains c).map fun b => b.2.launch

/-- A logical core has a block of a BOUND launch that is placed or still to be placed (R342). -/
def State.hasWork (s : State) (ln c : Nat) : Bool :=
  let l := s.launchAt ln
  (s.blocks.any fun b => b.2.launch = ln && b.2.cores.contains c &&
      (decide (b.2.st = .resident) || decide (b.2.st = .saved))) ||
    decide (c + 48 * tget l.placed c 0 < l.blocks)

/-- The BOUND launch that holds the physical core of a sharing group: one that has had a block on it and has work left
for some member (R342). -/
def State.groupHolder (s : State) (c : Nat) : Option Nat :=
  let g := s.group c
  if g.length ≤ 1 then none
  else (s.launches.find? fun l => l.2.bound && !l.2.complete && (g.any fun x => decide (0 < tget l.2.placed x 0)) &&
    g.any (s.hasWork l.1)).map Prod.fst

/-- Whether a launch may use a logical core (R74, R338, R342): its physical core is held by no other launch,
and it is not reserved for another. -/
def State.coreOpen (s : State) (l c : Nat) : Bool :=
  (s.group c).all fun x => ((s.launchOn x).getD l = l) && ((s.coreAt x).resv).getD l = l &&
    ((s.groupHolder c).getD l = l)

/-! ### Room -/

/-- What is in use in a partition (R13): wave slots, lane-words of registers, tiles, Shelf slots, and
whether the block being placed has its Shelf slots there. -/
structure PartUse where
  slots : List Nat := []
  words : Nat := 0
  tiles : Nat := 0
  shelf : Nat := 0
  mine  : Bool := false
  deriving DecidableEq, Repr

/-- What is in use on a core (R13): its partitions, scratchpad lines and copy entries. -/
structure CoreUse where
  parts   : List PartUse := List.replicate 8 {}
  lines   : Nat := 0
  entries : List Nat := []
  deriving DecidableEq, Repr

/-- Lines of a block's slice on each of `k` cores (R17). -/
def sliceLines (size k : Nat) : Nat := (size / 128 + k - 1) / k

/-- A wave holds its slot, registers and tiles. -/
def State.holdsSlot (s : State) (w : Wave) : Bool :=
  match w.life with
  | .resident | .draining | .parking | .parked => true
  | .removed => (s.blockAt w.blk).onCores
  | .saved | .exited => false

/-- A block holds its scratchpad and Shelf slots. -/
def Block.holdsRoom (b : Block) : Bool :=
  b.onCores && (decide (b.st = .resident) || decide (b.st = .removed))

/-- The partitions of a core in which a block has a wave. -/
def State.partsOf (s : State) (b : Block) (c : Nat) : List Nat :=
  ((b.waveKeys.map s.waveAt).filterMap fun w => if w.core = c then some w.part else none).eraseDups

/-- What is in use in partition `p` of a core. -/
def State.partUse (s : State) (c p : Nat) : PartUse :=
  let ws := (s.waves.map Prod.snd).filter fun w => w.core = c && w.part = p && s.holdsSlot w
  let bs := (s.blocks.map Prod.snd).filter fun b =>
    b.holdsRoom && b.cores.contains c && (s.partsOf b c).contains p
  { slots := ws.map Wave.slot
    words := (ws.map fun w => w.nregs * w.width).sum
    tiles := (ws.map Wave.ntiles).sum
    shelf := (bs.map fun b => (s.launchAt b.launch).shelf).sum }

/-- What is in use on a core. -/
def State.coreUse (s : State) (c : Nat) : CoreUse :=
  let bs := (s.blocks.map Prod.snd).filter fun b => b.onCores && b.cores.contains c
  { parts := (List.range 8).map (s.partUse c)
    lines := ((bs.filter Block.holdsRoom).map fun b => sliceLines b.ssize b.cores.length).sum
    entries := bs.flatMap fun b => if b.cores.head? = some c then b.entries else [] }

/-- What one wave and one block of a launch need. -/
structure Need where
  n     : Nat
  width : Nat
  words : Nat
  tiles : Nat
  shelf : Nat
  lines : Nat
  ents  : Nat
  deriving DecidableEq, Repr

/-- The needs of a launch's blocks (R14). -/
def Launch.need (l : Launch) : Need :=
  { n := l.n, width := l.width, words := l.vregs * l.width, tiles := l.tiles, shelf := l.shelf
    lines := l.scratch, ents := l.slots }

/-- Wave slots of a partition (R13). -/
def slotsFor (width : Nat) : Nat := 512 / width

/-- The lowest number below `n` that a list does not hold. -/
def lowestFree (used : List Nat) (n : Nat) : Option Nat := (List.range n).find? fun i => !used.contains i

/-- The lowest `k` numbers below 64 that a list does not hold (R255). -/
def freeEntries (used : List Nat) (k : Nat) : List Nat :=
  ((List.range 64).filter fun i => !used.contains i).take k

/-- A partition with one more wave of a block, and its slot (R16). -/
def PartUse.add (u : PartUse) (x : Need) : Option (Nat × PartUse) :=
  let shelf := if u.mine then u.shelf else u.shelf + x.shelf
  match lowestFree u.slots (slotsFor x.width) with
  | none => none
  | some i =>
    if u.words + x.words ≤ 65536 && decide (u.tiles + x.tiles ≤ 16) && decide (shelf ≤ 32) then
      some (i, { slots := i :: u.slots, words := u.words + x.words, tiles := u.tiles + x.tiles
                 shelf := shelf, mine := true })
    else none

/-- The first partition that takes a wave, from partition `p` on (R16). -/
def addWave (x : Need) : Nat → List PartUse → Option (Nat × Nat × List PartUse)
  | _, [] => none
  | p, u :: us =>
    match u.add x with
    | some (i, v) => some (p, i, v :: us)
    | none => (addWave x (p + 1) us).map fun y => (y.1, y.2.1, u :: y.2.2)

/-- Waves filled into cores in order, each core taking waves until it holds no more (R15): core, partition
and slot of each, with the cores after it. -/
def fillWaves (x : Need) : Nat → Nat → List (Nat × CoreUse) →
    Option (List (Nat × Nat × Nat) × List (Nat × CoreUse))
  | _, 0, cs => some ([], cs)
  | 0, _ + 1, _ => none
  | _ + 1, _ + 1, [] => none
  | fuel + 1, n + 1, (c, u) :: cs =>
    match addWave x 0 u.parts with
    | some (p, i, ps) =>
      (fillWaves x fuel n ((c, { u with parts := ps }) :: cs)).map fun y => ((c, p, i) :: y.1, y.2)
    | none => (fillWaves x fuel (n + 1) cs).map fun y => (y.1, (c, u) :: y.2)

/-- A block tried on given cores (R15, R17): where its waves go, its copy entries, the cores after it. -/
structure Plot where
  cores   : List Nat
  waves   : List (Nat × Nat × Nat)
  entries : List Nat
  after   : List (Nat × CoreUse)

/-- Cores with the marks of the block just placed taken off. -/
def CoreUse.settled (u : CoreUse) : CoreUse := { u with parts := u.parts.map fun p => { p with mine := false } }

/-- A block tried on given cores. -/
def tryCores (x : Need) (use : List (Nat × CoreUse)) : Option Plot :=
  let k := use.length
  let sl := sliceLines x.lines k
  match use with
  | [] => none
  | (c, u) :: rest =>
    if use.any fun y => decide (8192 < y.2.lines + sl) then none
    else
      let ents := freeEntries u.entries x.ents
      if ents.length < x.ents then none
      else
        let u1 := (c, { u with entries := ents ++ u.entries }) :: rest
        (fillWaves x (x.n + k) x.n (u1.map fun y => (y.1, { y.2 with lines := y.2.lines + sl }))).map
          fun y => { cores := use.map Prod.fst, waves := y.1, entries := ents
                     after := y.2.map fun z => (z.1, z.2.settled) }

/-- The candidate lists of cores of a block (R15, R336, R339), in order. -/
def candidates (bound : Bool) (b : Nat) (recv : Nat → Bool) : List (List Nat) :=
  if bound then if recv (b % 48) then [[b % 48]] else []
  else
    (((List.range 48).filter recv).map fun c => [c]) ++
      (List.range 12).flatMap fun q =>
        let cs := ((List.range 4).map fun i => 4 * q + i).filter recv
        ([2, 3, 4].filter fun k => k ≤ cs.length).map cs.take

/-- The placement of block `b` of a launch, given what cores receive, are open and use (R15). -/
def plotBlock (x : Need) (bound : Bool) (b : Nat) (recv isOpen : Nat → Bool) (use : Nat → CoreUse) :
    Option Plot :=
  (candidates bound b recv).findSome? fun cs =>
    if cs.all isOpen then tryCores x (cs.map fun c => (c, use c)) else none

/-- Whether blocks from `b` on can all be placed, and the cores they take. -/
def plotAll (x : Need) (bound : Bool) (recv isOpen : Nat → Bool) :
    Nat → Nat → Tbl CoreUse → (Nat → CoreUse) → Option (List Nat)
  | 0, _, t, _ => some (t.map Prod.fst)
  | n + 1, b, t, use =>
    match plotBlock x bound b recv isOpen fun c => (tfind? t c).getD (use c) with
    | none => none
    | some p => plotAll x bound recv isOpen n (b + 1) (p.after.foldl (fun t y => tset t y.1 y.2) t) use

/-- No package holds more waves than this (R13), and so no more blocks. -/
def mostWaves : Nat := 48 * 8 * 32

/-- The cores that all blocks of a launch take on the empty grid; none when it cannot hold them (R338). -/
def State.emptyGrid (s : State) (l : Launch) : Option (List Nat) :=
  if mostWaves < l.blocks then none
  else plotAll l.need l.bound (s.receives l.bound) (s.receives l.bound) l.blocks 0 [] fun _ => {}

/-- A block of a launch fits the empty cores of one quad, or one core in BOUND mode (R15, R339); in BOUND mode
every core that a block needs is mapped (R340). -/
def State.blockFits (s : State) (l : Launch) : Bool :=
  if l.bound then
    (tryCores l.need [(0, {})]).isSome &&
      (List.range (min l.blocks 48)).all fun c => (s.physical c).isSome
  else
    [1, 2, 3, 4].any fun k => (tryCores l.need ((List.range k).map fun c => (c, {}))).isSome

/-! ### Quanta -/

/-- The member of a group that takes the next quantum (R342). -/
def State.nextTurn (s : State) (ln c : Nat) : Option Nat :=
  let g := s.group c
  let last := (s.coreAt (g.headD c)).lastq
  ((g.filter fun x => decide (last < x)) ++ g.filter fun x => decide (x ≤ last)).find? (s.hasWork ln)

/-- A logical core may run blocks of a launch now (R342): it has the quantum of its group and is not being
switched out, or no member has and it is the next. -/
def State.mayRun (s : State) (ln c : Nat) : Bool :=
  let g := s.group c
  if !(s.launchAt ln).bound || g.length ≤ 1 then true
  else match g.find? fun x => (s.coreAt x).qends ≠ 0 with
  | some h => decide (h = c) && !(s.coreAt c).outgoing
  | none => decide (s.nextTurn ln c = some c)

/-- The clocks of a quantum (R341). -/
def State.quantum (s : State) (ln : Nat) : Nat := (s.launchAt ln).quant * 1024

/-- The state with a core's quantum over, when it has no Resident block left and is being switched out, or has
no work left (R342). -/
def State.leaveQuantum (s : State) (ln c : Nat) : State :=
  let x := s.coreAt c
  let here := s.blocks.any fun b => b.2.cores.contains c && decide (b.2.st = .resident)
  if x.qends ≠ 0 && !here && (x.outgoing || !s.hasWork ln c) then
    s.updCore c fun x => { x with qends := 0, outgoing := false }
  else s

/-- A wave that a pre-emption request has reached (R377); an earlier request stands. -/
def Wave.request (w : Wave) (q : PreReq) : Wave :=
  if w.life = .resident && w.preq.isNone then { w with preq := some q } else w

/-- The deadline of a pre-emption request of a launch that arrives now (R377). -/
def State.deadline (s : State) (ln : Nat) : Nat :=
  let p := (s.launchAt ln).predl
  s.cycle + (if p = 0 then 100 else p) * 1400

/-! ### Overlays -/

/-- The party that waits for the pages of a launch's images. -/
def imageParty (ln : Nat) : Party := .remote ln 1000

/-- Bytes of a context's space as the Dreac reads an image; a byte that does not translate is free (log
9). -/
def State.imageBytes (s : State) (p : Party) (ctx va n : Nat) : List Byte :=
  (pieces va n).flatMap fun x =>
    match (s.look p ctx x.1 false).place with
    | some a => s.readTier a.1 a.2 x.2
    | none => (List.range x.2).map fun j => Config.freeByte (s.fresh + (x.1 - va) + j)

/-- The words of an image that are poisoned in memory (R427, R429). -/
def State.imagePoison (s : State) (p : Party) (ctx va n : Nat) : List Nat :=
  (List.range (n / 4)).filter fun i =>
    match (s.look p ctx (va + 4 * i) false).place with
    | some a => s.poisonAt a.1 a.2
    | none => false

/-- An image's words as a slot's contents. -/
def slotWords (n : Nat) (bs : List Byte) : Tbl Word := (toWords (n / 4) bs).mapIdx fun i x => (i, x)

/-- The slot that an overlay of a launch is preloaded into (R73, R75). -/
def State.overlaySlot (s : State) (p : Party) (l : Launch) (n size : Nat) : ImemSlot :=
  let at_ := l.ovimg + 16 + 16 * n
  let off := leNat (s.imageBytes p l.ctx at_ 4)
  { ov := some n, words := slotWords size (s.imageBytes p l.ctx (l.ovimg + off) size)
    pois := if (s.imagePoison p l.ctx at_ 4).isEmpty then s.imagePoison p l.ctx (l.ovimg + off) size
      else List.range (size / 4) }

/-- The slot of a launch's handler image (R366): 65,536 bytes from its address, as no field gives its size
(log 8). -/
def State.handlerSlot (s : State) (p : Party) (l : Launch) : ImemSlot :=
  { ov := some 256, words := slotWords 65536 (s.imageBytes p l.ctx l.himg 65536)
    pois := s.imagePoison p l.ctx l.himg 65536 }

/-- The size of an overlay of a launch (R71). -/
def Launch.ovSize (l : Launch) (n : Nat) : Nat := ((l.ovs[n]?).map Prod.fst).getD 0

/-- Slots with overlays of a launch, and its handler image in its own (R75, R78, R366). -/
def State.loadSlots (s : State) (ln : Nat) (ovs : List (Nat × Nat)) : Tbl ImemSlot :=
  let l := s.launchAt ln
  ovs.foldl (fun t x => tset t x.1 (s.overlaySlot (imageParty ln) l x.2 (l.ovSize x.2)))
    [(l.hs, s.handlerSlot (imageParty ln) l)]

/-- The slots and overlays that a launch preloads (R71, R75). -/
def Launch.preloads (l : Launch) : List (Nat × Nat) :=
  (l.ovs.mapIdx fun n o => (n, o)).filterMap fun x => x.2.2.map fun sl => (sl, x.1)

/-- What must translate before overlays of a launch can be loaded, its handler image and other ranges (R369): first the
directory's entries, then what they name. -/
def State.imageWaits (s : State) (ln : Nat) (rs : List (Nat × Nat)) (ovs : List (Nat × Nat)) : List (FrbKind × Nat) :=
  let l := s.launchAt ln
  let p := imageParty ln
  match s.waitsFor p l.ctx false ((l.himg, 65536) :: rs ++ ovs.map fun x => (l.ovimg + 16 + 16 * x.2, 4)) with
  | [] => s.waitsFor p l.ctx false (ovs.map fun x =>
      (l.ovimg + leNat (s.imageBytes p l.ctx (l.ovimg + 16 + 16 * x.2) 4), l.ovSize x.2))
  | x :: xs => x :: xs

/-- `k`, once what a launch's images wait for is answered; their pages are forgotten after it (R369). -/
def State.withImages (s : State) (ln : Nat) (rs ovs : List (Nat × Nat)) (k : State) : State :=
  if s.frbWaits (imageParty ln) then s
  else
    match s.imageWaits ln rs ovs with
    | [] => k.dropFrb (imageParty ln)
    | x :: xs => s.takeFrb (imageParty ln) 48 (s.launchAt ln).ctx false (x :: xs)

/-- The overlays that the slots of a core hold, or will hold when the loads in progress are over (R78). -/
def Core.holds (c : Core) : List (Nat × Nat) :=
  c.slots.filterMap fun x =>
    match ((x.2.loading.getLast?).map fun l => l.1).or x.2.ov with
    | some n => if n < 256 then some (x.1, n) else none
    | none => none

/-! ### Placement -/

/-- The slot byte of a launch's wave (R24, R310). -/
def Launch.slotByteOf (l : Launch) (q k : Nat) : Nat :=
  match tfind? l.quors q with
  | none => 255
  | some (e, none) => e
  | some (e, some m) => if m / 2 ^ k % 2 = 1 then e else 255

/-- Linear wave number (R401). -/
def Launch.linearWave (l : Launch) (b i : Nat) : Nat := b * l.n + i

/-- The context scalars of a wave at its start (R22). -/
def State.startScalars (s : State) (l : Launch) (b i core : Nat) : Tbl Word :=
  let c := s.ctxAt l.ctx
  let slots := (List.range 4).map fun q => l.slotByteOf q (l.linearWave b i) * 2 ^ (8 * q)
  let xs := [b % l.gx, b / l.gx % l.gy, b / (l.gx * l.gy), i, l.width, l.gx, l.gy, l.gz, core, c.rank,
    c.jobSize, slots.sum, l.args, l.args / 2 ^ 32, l.scratch - (l.dscratch + 127) / 128 * 128, l.scratch,
    l.plimit, l.slots]
  xs.mapIdx fun k x => (k, wrd x)

/-- The registers of a wave at its start (R37). -/
def startRegs (width : Nat) (ctxs : Tbl Word) : WaveRegs := { em := widthMask width, ctxs := ctxs }

/-- The identity word of a wave (R375); the launch tag is the job launch tag. -/
def State.identOf (s : State) (l : Launch) (core part slot : Nat) : Word :=
  wrd ((s.ctxAt l.ctx).rank * 2 ^ 28 + core * 2 ^ 22 + part * 2 ^ 19 + slot * 2 ^ 14 + l.jtag % 64)

/-- A wave at its start (R37); a member of a poisoned quorum has QUORUM_ABORT pending (R321). -/
def State.newWave (s : State) (ln b i : Nat) (at_ : Nat × Nat × Nat) : Wave :=
  let l := s.launchAt ln
  let k := l.linearWave b i
  let w : Wave :=
    { regs := startRegs l.width (s.startScalars l b i at_.1), launch := ln, blk := blockKey ln b, index := i
      core := at_.1, part := at_.2.1, slot := at_.2.2, ident := s.identOf l at_.1 at_.2.1 at_.2.2
      width := l.width, nregs := l.vregs, ntiles := l.tiles, nslots := l.shelf
      privbase := l.privarea + l.privstr * k, savebase := BitVec.ofNat 64 (l.saveb + l.stride * k)
      since := s.cycle }
  let pend := w.quorums.filterMap fun q =>
    (tget (s.ctxAt l.ctx).quorums q {}).poison.map fun p => abortTrap w q p.1 p.2
  { w with pend := pend }

/-- The state with block `b` of a launch placed (R37): overlays on cores new to the launch, its record (with
the image that arrivals made, R281) and its waves. -/
def State.placeBlock (s : State) (ln b : Nat) (p : Plot) : State :=
  let l := s.launchAt ln
  let k := blockKey ln b
  let cold := p.cores.filter fun c => (s.coreAt c).loaded ≠ some ln
  let s1 := cold.foldl (fun s c => s.updCore c fun x => { x with slots := s.loadSlots ln l.preloads, loaded := some ln }) s
  let old := (tfind? s1.blocks k).getD { launch := ln, lin := b, ssize := l.scratch }
  let blk : Block := { old with st := .resident, cores := p.cores, nw := l.n, entries := p.entries }
  let ws := p.waves.mapIdx fun i at_ => (waveKey k i, s.newWave ln b i at_)
  let s2 : State := { s1 with
    blocks := tset s1.blocks k blk
    waves := ws.foldl (fun t w => tset t w.1 w.2) s1.waves
    fresh := s1.fresh + 2 ^ 20 }
  let c := p.cores.headD 0
  (s2.updLaunch ln fun l => { l with
    nplaced := l.nplaced + 1, started := 1
    quant := if l.started = 1 then l.quant else max 1 (s.bquant.toNat % 2 ^ 16)
    placed := if l.bound then tset l.placed c (tget l.placed c 0 + 1) else l.placed })

/-- The blocks of a launch that the order of R336, R337 and R339 offers next: one, or in BOUND mode one for
each logical core that may run. -/
def State.nextBlocks (s : State) (ln : Nat) : List Nat :=
  let l := s.launchAt ln
  if l.bound then
    ((List.range 48).filter fun c => decide (c + 48 * tget l.placed c 0 < l.blocks) && s.mayRun ln c).map
      fun c => c + 48 * tget l.placed c 0
  else if l.nplaced < l.blocks then [l.nplaced] else []

/-- A Saved block of a launch, not held, that goes before new blocks on a core (R336). -/
def State.savedOn (s : State) (c : Nat) : Bool :=
  s.blocks.any fun b => decide (b.2.st = .saved) && b.2.cores.contains c && !(s.launchAt b.2.launch).hold

/-- Where block `b` of a launch can be placed now. -/
def State.plot (s : State) (ln b : Nat) : Option Plot :=
  let l := s.launchAt ln
  plotBlock l.need l.bound b (s.receives l.bound) (fun c => s.coreOpen ln c && !s.savedOn c) s.coreUse

/-- The cores on which a cooperative launch can be placed whole, among those open to it and reserved for it (R338). -/
def State.coopCores (s : State) (ln : Nat) : Option (List Nat) :=
  let l := s.launchAt ln
  if mostWaves < l.blocks then none
  else plotAll l.need l.bound (s.receives l.bound) (s.coreOpen ln) l.blocks 0 [] s.coreUse

/-- A cooperative launch can be placed whole, or has begun to be (R338). -/
def State.coopReady (s : State) (ln : Nat) : Bool := decide ((s.launchAt ln).started = 1) || (s.coopCores ln).isSome

/-- The state in which a cooperative launch that begins to be placed holds every core that its blocks take, until the last
of them is placed (R338). -/
def State.holdCoop (s : State) (ln : Nat) : State :=
  if (s.launchAt ln).coop && decide ((s.launchAt ln).started ≠ 1) then
    ((s.coopCores ln).getD []).foldl (fun s c => s.updCore c fun x => { x with resv := some ln }) s
  else s

/-- The next block of a launch with its placement, if one can be placed now. -/
def State.placeable (s : State) (ln : Nat) : Option (Nat × Plot) :=
  let l := s.launchAt ln
  if l.complete || (l.coop && !s.coopReady ln) then none
  else (s.nextBlocks ln).findSome? fun b => (s.plot ln b).map fun p => (b, p)

/-- The state without reservations for a launch whose blocks are all placed (R338). -/
def State.endReserve (s : State) (ln : Nat) : State :=
  if (s.launchAt ln).nplaced < (s.launchAt ln).blocks then s
  else { s with cores := tmap (fun _ x => if x.resv = some ln then { x with resv := none } else x) s.cores }

/-! ### Reservations -/

/-- The cores that a waiting cooperative launch holds by reservation. -/
def State.heldCores (s : State) (ln : Nat) : List Nat :=
  (List.range 48).filter fun c => (s.coreAt c).resv = some ln

/-- The free cores that a waiting cooperative launch reserves now: the lowest, until it holds as many as it needs; a
physical core is free when no launch holds it or has reserved it by any of its logical cores (R335, R338). -/
def State.toReserve (s : State) (ln : Nat) : List Nat :=
  let l := s.launchAt ln
  if !l.coop || l.complete || l.started = 1 then []
  else
    let need := ((s.emptyGrid l).getD []).length
    let free := (List.range 48).filter fun c =>
      s.receives l.bound c && (s.coreAt c).resv.isNone && s.coreOpen ln c && (s.group c).all fun x => (s.launchOn x).isNone
    free.take (need - (s.heldCores ln).length)

/-- The state with cores reserved for a waiting cooperative launch (R338). -/
def State.reserve (s : State) (ln : Nat) : State :=
  (s.toReserve ln).foldl (fun s c => s.updCore c fun x => { x with resv := some ln }) s

/-- The distributor has something to do for a launch (R335): a block to place, or a core to reserve. -/
def State.offered (s : State) (ln : Nat) : Bool := (s.placeable ln).isSome || !(s.toReserve ln).isEmpty

/-- The rank of a launch in the order of R335. -/
def State.launchRank (s : State) (ln : Nat) : List Nat :=
  let l := s.launchAt ln
  let q := tget (s.ctxAt l.ctx).queues l.queue {}
  [3 - q.ctl / 2 % 4, if (s.heldCores ln).isEmpty then 1 else 0, l.ctx, l.queue, l.accepted, ln]

/-- Lists of numbers in lexical order. -/
def lexLe : List Nat → List Nat → Bool
  | [], _ => true
  | _ :: _, [] => false
  | x :: xs, y :: ys => decide (x < y) || (decide (x = y) && lexLe xs ys)

/-- The launches that are not complete, in the order of R335. -/
def State.liveLaunches (s : State) : List Nat :=
  inOrder (fun a b => lexLe (s.launchRank a) (s.launchRank b))
    ((s.launches.filter fun l => !l.2.complete).map Prod.fst)

/-! ### Retirement -/

/-- The copy entries of a block's first core that are busy. -/
def State.busyEntries (s : State) (b : Block) : Bool :=
  b.entries.any fun n => (s.entryAt (b.cores.headD 0) n).busy

/-- A block whose waves are all Exited, or removed with it, and whose copies and `mst` have ended (R39, R188,
R385). -/
def State.retirable (s : State) (bk : Nat) : Bool :=
  let b := s.blockAt bk
  b.onCores && !s.busyEntries b &&
    (decide (b.st = .removed) || (decide (b.st = .resident) && b.msts.isEmpty &&
      b.waveKeys.all fun k => decide ((s.waveAt k).life = .exited)))

/-- BLOCK_RETIRE (R39, R330, R385): resources are released, the ticket is passed or recorded, the launch's
retired blocks counted. -/
def execBlockRetire (blk : Nat) (s : State) : Out :=
  let b := s.blockAt blk
  if !s.retirable blk then .next s
  else
    let c := b.cores.headD 0
    let s1 := s.updCore c fun x => { x with copyq := b.entries.foldl terase x.copyq }
    let s2 := s1.updBlock blk fun b => { b with
      st := if b.st = .removed then .removed else .retired
      cores := [], scratch := [], spois := [], lines := [], shelf := [], bars := [], entries := [] }
    let s3 := s2.updLaunch b.launch fun l =>
      let l1 := if l.ordered && !b.passed && decide (b.st ≠ .removed) then l.pass b.lin else l
      { l1 with nretired := l1.nretired + 1 }
    .next (s3.leaveQuantum b.launch c)

/-! ### Parking and saving -/

/-- An `mst` that stands at a line it cannot write (R188). -/
def Block.stuck (b : Block) (o : TileOp) : Bool :=
  decide (o.kind = .mst) && !o.done &&
    match o.lines with
    | [] => false
    | l :: _ => decide ((b.line l.1).st = .full) || decide ((b.line l.1).st = .filling)

/-- A parking wave that has nothing outstanding but `mst` that wait for lines (R188, R380). -/
def State.parkReady (s : State) (w : Wave) : Bool :=
  decide (w.life = .parking) && w.loads.isEmpty && w.stores.isEmpty &&
    w.tileOps.all fun o => o.done || (s.blockAt w.blk).stuck o

/-- Bytes of a block's image (R380). -/
def State.imageSize (s : State) (b : Block) : Nat :=
  let p := (b.cores.map fun c => (s.partsOf b c).length).sum
  b.ssize + b.ssize / 8 + 4160 * (s.launchAt b.launch).shelf * p + 4096

/-- The free values of an image's bytes. -/
def imageFill (base n : Nat) : List Byte := (List.range n).map fun i => Config.freeByte (base + i)

/-- The bytes of an image of `n` bytes whose free values begin at `base` (R380, R382): of a layout that the spec does
not give; for a confidential context under its key and an IV, with the tag in the last 16 bytes (log 14). -/
def Ctx.imageData (c : Ctx) (base iv n : Nat) : List Byte :=
  if c.conf then
    let y := gcmSeal c.imgKey (gcmIv 0 iv) ((imageFill base (n - 16)).map BitVec.toNat)
    toBytes (y.1 ++ y.2)
  else imageFill base n

/-- The state with a block's image written to the launch's image area (R380, R382). -/
def State.saveImage (s : State) (bk : Nat) : State :=
  let b := s.blockAt bk
  let l := s.launchAt b.launch
  let c := s.ctxAt l.ctx
  let n := s.imageSize b
  let a := l.imgarea + b.lin * n
  let s1 := (s.hostWrite l.ctx a (c.imageData s.fresh c.imgIv n)).updCtx l.ctx fun c =>
    { c with imgIv := c.imgIv + 1, images := if c.images.contains (a, n) then c.images else c.images ++ [(a, n)] }
  ({ s1 with fresh := s1.fresh + n } : State).updBlock bk fun b =>
    { b with st := .saved, img := some (a, s.fresh, c.imgIv) }

/-- A parked wave as its block is saved (R380, R381): its live tiles are noted, PREEMPT is over. -/
def Wave.save (w : Wave) : Wave :=
  if w.life = .parked then
    { w with
      life := .saved, liveMask := (w.regs.tinfo.getD 2 0).toNat % 256, preq := none
      pend := w.pend.filter fun t => t.trap.code ≠ 0x3C }
  else w

/-- The state with a block Saved, when every wave of it is parked or Exited (R380): one of them parked, or its core switched
out while a copy or an `mst` of the block goes on (R342). -/
def State.trySave (s : State) (bk : Nat) : State :=
  let b := s.blockAt bk
  let ws := b.waveKeys.map s.waveAt
  if b.st = .resident && ws.all (fun w => decide (w.life = .parked) || decide (w.life = .exited)) &&
      ((ws.any fun w => decide (w.life = .parked)) ||
        (!s.retirable bk && b.cores.any fun c => (s.coreAt c).outgoing)) then
    let s1 := b.waveKeys.foldl (fun s k => s.updWave k Wave.save) s
    let s2 := s1.updBlock bk fun b => { b with kept := b.cores.map fun c => (c, (s.coreAt c).holds) }
    b.cores.foldl (fun s c => s.leaveQuantum b.launch c) (s2.saveImage bk)
  else s

/-- QUANTUM_END (R342): the core is switched out, when another member of its group has work. -/
def execQuantumEnd (core : Nat) (s : State) : Out :=
  match s.launchOn core with
  | none => .next (s.updCore core fun x => { x with qends := 0 })
  | some ln =>
    if !(s.group core).any fun x => x ≠ core && s.hasWork ln x then
      .next (s.updCore core fun x => { x with qends := s.cycle + s.quantum ln })
    else
      let q : PreReq := { deadline := s.deadline ln, source := 1 }
      let s1 : State := { s with waves := tmap (fun _ w => if w.core = core then w.request q else w) s.waves }
      let here := (s.blocks.filter fun b => b.2.cores.contains core).map Prod.fst
      .next ((here.foldl State.trySave (s1.updCore core fun x => { x with outgoing := true })).leaveQuantum ln core)

/-- The drain of a wave goes on: its accesses have been performed (R38), and it has homes at other ranks to tell, or their
answers are here, or it has none (R207). -/
def State.exitReady (s : State) (w : Wave) : Bool :=
  decide (w.life = .draining) && w.drained && (s.boundary w).isNone &&
    (!w.homes.isEmpty || w.ending.all fun r => (takeAnswer r.1 w.ident.toNat r.2 s.answers).isSome)

/-- EXIT_DRAIN (R38, R197, R207, R311): once every home has retired the wave's tags, it is Exited and leaves its quorums;
a block that waited for it alone is Saved (R380). -/
def execExitDrain (w : Nat) (s0 : State) : Out :=
  let s := s0.onWave w State.heardEnds
  let v := s.waveAt w
  if !s0.exitReady (s0.waveAt w) then .next s0
  else if v.ending.isEmpty then
    let s1 := (List.range 4).foldl (fun s i => s.leaveSlot w i) (s.retireWave w)
    .next ((s1.updWave w fun v => { v with
      life := .exited, pend := [], preq := none, stall := 0, since := s.cycle }).trySave v.blk)
  else .next s

/-- PARK_COMPLETE (R188, R380): the wave is parked, its waiting `mst` go to the block's record, and the block
is Saved when it was the last. -/
def execParkComplete (w : Nat) (s : State) : Out :=
  let v := s.waveAt w
  if !s.parkReady v then .next s
  else
    let rest := (v.tileOps.filter fun o => !o.done).map fun o => (w, o)
    let s1 := s.updWave w fun v => { v with life := .parked, tileOps := [] }
    let s2 := s1.updBlock v.blk fun b => { b with msts := b.msts ++ rest }
    .next (s2.trySave v.blk)

/-! ### Restoring -/

/-- The slots of a block's waves are free again, with room for what it held (R36, R380). -/
def State.roomToRestore (s : State) (b : Block) : Bool :=
  let x := (s.launchAt b.launch).need
  (b.cores.all fun c =>
    let u := s.coreUse c
    decide (u.lines + sliceLines b.ssize b.cores.length ≤ 8192) &&
      (List.range 8).all fun p =>
        let ws := (b.waveKeys.map s.waveAt).filter fun w =>
          w.core = c && w.part = p && decide (w.life = .saved)
        let v := u.parts.getD p {}
        let held := if (s.partsOf b c).contains p then x.shelf else 0
        ws.all (fun w => !v.slots.contains w.slot) &&
          decide (v.words + ws.length * x.words ≤ 65536) && decide (v.tiles + ws.length * x.tiles ≤ 16) &&
          decide (v.shelf + held ≤ 32))

/-- A Saved block that is restored now (R336, R342, R399). -/
def State.restorable (s : State) (bk : Nat) : Bool :=
  let b := s.blockAt bk
  decide (b.st = .saved) && !(s.launchAt b.launch).hold &&
    (b.cores.all fun c => s.mayRun b.launch c) && s.roomToRestore b && !s.posting (s.launchAt b.launch).ctx

/-- A wave restored (R381): registers as at its start but for what the Dreac keeps, in the handler with
PREEMPT and rst = 1. -/
def Wave.restore (w : Wave) (hs cycle : Nat) : Wave :=
  if w.life = .saved then
    let t : TrapRec := { code := 0x3C, async := true, rst := true, info := [0, 0, wrd w.liveMask] }
    let r := { startRegs w.width w.regs.ctxs with
      retired := w.regs.retired, region := w.regs.region, priv := true
      tcode := tcodeWord t false, tinfo := t.info, pc := BitVec.ofNat 18 (hs * 0x10000) }
    { w.awake cycle with regs := r, life := .resident, loads := [], stores := [], copies := [], tileOps := [] }
  else w

/-- The tag of a confidential block's image does not match (R382). -/
def State.imageBad (s : State) (b : Block) : Bool :=
  let l := s.launchAt b.launch
  let c := s.ctxAt l.ctx
  match b.img with
  | none => false
  | some (a, _, iv) =>
    let n := s.imageSize b
    c.conf && match s.readAs (imageParty b.launch) l.ctx a n with
    | none => true
    | some bs =>
      let xs := bs.map BitVec.toNat
      (gcmOpen c.imgKey (gcmIv 0 iv) (xs.take (n - 16)) (xs.drop (n - 16))).isNone

/-- The state in which the slots of a core hold again what they held there when a block was saved, and the handler image
(R78, R366, R381). -/
def State.reloadSlots (s : State) (b : Block) (c : Nat) : State :=
  s.updCore c fun x => { x with slots := s.loadSlots b.launch (tget b.kept c []), loaded := some b.launch }

/-! ### Placement and quanta -/

/-- The state with the quantum of a shared core begun, once the last wave of the incoming logical core is Resident: none
of its blocks is left to restore or can be placed (R342). -/
def State.beginQuantum (s : State) (ln c : Nat) : State :=
  let l := s.launchAt ln
  let g := s.group c
  let b := c + 48 * tget l.placed c 0
  let more := (s.blocks.any fun b => b.2.cores.contains c && s.restorable b.1) ||
    (decide (b < l.blocks) && (s.plot ln b).isSome)
  if !l.bound || g.length ≤ 1 || (g.any fun x => decide ((s.coreAt x).qends ≠ 0)) || more then s
  else
    (s.updCore c fun x => { x with qends := s.cycle + s.quantum ln }).updCore (g.headD c)
      fun x => { x with lastq := c }

/-- BLOCK_PLACE (R37, R335 to R339): the launch's next block is placed, or free cores are reserved for it. -/
def execBlockPlace (l : Nat) (s : State) : Out :=
  match s.placeable l with
  | none => .next (s.reserve l)
  | some (b, p) =>
    let t := (((s.holdCoop l).placeBlock l b p).endReserve l).beginQuantum l (p.cores.headD 0)
    .next (if p.cores.all fun c => (s.coreAt c).loaded = some l then t
      else s.withImages l [] (s.launchAt l).preloads t)

/-- A Saved block restored (R381, R382): its waves are Resident in their handlers; a confidential block whose image fails
its tag is removed. -/
def State.restoreBlock (s : State) (blk : Nat) : State :=
  let b := s.blockAt blk
  let l := s.launchAt b.launch
  if s.imageBad b then
    let first := (b.waveKeys.find? fun k => (s.waveAt k).alive).getD 0
    (s.removeBlock blk first 0).updLaunch b.launch fun l => { l with imageTag := l.imageTag <|> some b.lin }
  else
    let s0 := b.cores.foldl (fun s c => s.reloadSlots b c) s
    let s1 := b.waveKeys.foldl (fun s k => s.updWave k fun w => w.restore l.hs s.cycle) s0
    let s2 := s1.updBlock blk fun b => { b with st := .resident, img := none }
    b.cores.foldl (fun s c => s.beginQuantum b.launch c) s2

/-- BLOCK_RESTORE (R381, R382), once the image and the overlays of the slots can be read (R369). -/
def execBlockRestore (blk : Nat) (s : State) : Out :=
  let b := s.blockAt blk
  if !s.restorable blk then .next s
  else
    let at_ := b.img.toList.map fun x => (x.1, s.imageSize b)
    .next (s.withImages b.launch at_ (b.kept.flatMap Prod.snd).eraseDups (s.restoreBlock blk))

end Sys2Proof.Machine
end

