-- ==== Sys2Proof/Machine/Barrier.lean ====
section
/-! DEFINITION. Named barriers of a block (spec/09_memory_instr.md R249 to R251) and the end of the OPEN
interval (spec/08_memory_model.md R215). -/

namespace Sys2Proof.Machine

/-- A wave that counts as exited (R251). -/
def Wave.gone (w : Wave) : Bool :=
  w.final || decide (w.life = .exited) || decide (w.life = .removed)

/-- The waves of a block that have not exited (R251). -/
def State.unfinished (s : State) (b : Block) : List Nat :=
  b.waveKeys.filter fun k => !(s.waveAt k).gone

/-- Whether a barrier's phase is complete (R250), given the block's waves that have not exited. -/
def Bar.complete (br : Bar) (alive : List Nat) : Bool :=
  match br.expect with
  | none => false
  | some 0 => alive.all br.arrived.contains
  | some e => decide (e ≤ br.arrived.length)

/-- A barrier after its phase completes (R250); owed waits stand until their waits end. -/
def Bar.flip (br : Bar) : Bar :=
  { phase := !br.phase, arrived := [], owed := br.owed, expect := none }

/-- A block with every OPEN record cleared (R215). -/
def Block.endInterval (b : Block) : Block :=
  { b with lines := tmap (fun _ l => { l with orec := {} }) b.lines }

/-- A block with the phase of barrier `k` completed when it is complete (R250). -/
def Block.settleBar (alive : List Nat) (b : Block) (k : Nat) : Block :=
  let br := tget b.bars k {}
  if br.complete alive then
    let b1 := { b with bars := tset b.bars k br.flip }
    if alive.all br.arrived.contains then b1.endInterval else b1
  else b

/-- A block with its barriers re-evaluated (R251). -/
def Block.settleBars (b : Block) (alive : List Nat) : Block :=
  (b.bars.map Prod.fst).foldl (Block.settleBar alive) b

/-- The state with the barriers of a block re-evaluated (R251). -/
def State.settleBars (s : State) (bk : Nat) : State :=
  s.updBlock bk fun b => b.settleBars (s.unfinished b)

/-- Barrier `k` of the acting wave's block. -/
def State.barOf (s : State) (k : Nat) : Bar := tget s.block.bars k {}

/-- The state with barrier `k` of the acting wave's block changed. -/
def State.setBar (s : State) (k : Nat) (br : Bar) : State :=
  s.updBlock s.wave.blk fun b => { b with bars := tset b.bars k br }

/-- The acting wave's arrival at barrier `k` with the count `n` (R250). -/
def State.arrive (s : State) (k n : Nat) (owed : Bool) : State :=
  let br := s.barOf k
  let s := s.setBar k
    { br with
      arrived := br.arrived ++ [s.cur], expect := br.expect <|> some n,
      owed := if owed then br.owed ++ [s.cur] else br.owed }
  s.updBlock s.wave.blk fun b => b.settleBar (s.unfinished b) k

/-- Whether the acting wave's arrived bit for barrier `k` is set. -/
def State.hasArrived (s : State) (k : Nat) : Bool := (s.barOf k).arrived.contains s.cur

/-- The acting wave's owed-wait bit for barrier `k` cleared. -/
def State.clearOwed (s : State) (k : Nat) : State :=
  s.setBar k { s.barOf k with owed := (s.barOf k).owed.filter fun w => w ≠ s.cur }

/-- The acting wave, which has waited at barrier `k`, is not yet to go on: a wave of the block with a lower index that
waited there goes first (R250). -/
def State.barTurn (s : State) (k : Nat) : Bool :=
  decide (s.wave.stall = 16) && decide (s.wave.stallObj = k) && s.earlierWoken 16 fun x w => decide (w.blk = s.wave.blk) && decide (w.stallObj = k) && !(s.barOf k).arrived.contains x

/-- `bar.arr` (R250): sB is ignored when the expected count is set. -/
def execBarArr (k b : Nat) (s : State) : Out :=
  s.run { ops := [.s b 1 (s.barOf k).expect.isNone], spec := false }
    (if s.hasArrived k || s.barTurn k then .wait 16 k
     else s.release .blk fun s => .done (s.arrive k ((s.regs.s b).toNat % 256) false))

/-- `bar.wt` (R250). -/
def execBarWt (k : Nat) (s : State) : Out :=
  s.run { spec := false } (if s.hasArrived k || s.barTurn k then .wait 16 k else s.sync .done)

/-- The wait half of `bar` (R250): over when the arrived bit is clear. -/
def State.barWait (s : State) (k : Nat) : Res :=
  if s.hasArrived k || s.barTurn k then .stay s 16 k else s.sync fun s => .done (s.clearOwed k)

/-- `bar`: arrival, owed wait and wait; with the owed-wait bit set, the wait alone (R250, R251). -/
def execBar (k b : Nat) (s : State) : Out :=
  let owes := (s.barOf k).owed.contains s.cur
  s.run { ops := [.s b 1 (!owes && (s.barOf k).expect.isNone)], spec := false }
    (if owes then s.barWait k
     else if s.hasArrived k then .wait 16 k
     else s.release .blk fun s => (s.arrive k ((s.regs.s b).toNat % 256) true).barWait k)

end Sys2Proof.Machine
end

