-- ==== Sys2Proof/Machine/Sync.lean ====
section
/-! DEFINITION. Synchronisation SYNC but for the barriers: fences, `wait`, signals, cache maintenance
(spec/09_memory_instr.md R246 to R248, R252, R253). -/

namespace Sys2Proof.Machine

/-- `fence.rel` (R247): the wave's earlier accesses have been performed at the scope. -/
def execFenceRel (sc : Scope) (s : State) : Out :=
  s.run { spec := false } (s.release sc .done)

/-- `fence.acq` (R247): the wave's earlier loads have been performed. -/
def execFenceAcq (sc : Scope) (s : State) : Out :=
  s.run { spec := false }
    (if s.wave.loads.any PendLoad.remote then .wait 24 0 else s.sync fun s => .done (s.acquired sc))

/-- `fence.sc` (R247). -/
def execFenceSc (sc : Scope) (s : State) : Out :=
  s.run { spec := false } (s.release sc fun s => .done (s.acquired sc))

/-- `wait` (R248): pending poison and copy traps are delivered (R264, R371), then the wave stalls until
each counter is at or below its limit; it is not synchronising. -/
def execWait (ld st cp tl : Nat) (s : State) : Out :=
  let w := s.wave
  s.run { spec := false }
    (s.deliverOr PendTrap.late
      (if w.loads.length ≤ ld && decide (w.stores.length ≤ st) && decide (w.copies.length ≤ cp) &&
          decide (w.tileOps.length ≤ tl) then .done s
       else .wait 9 0))

/-- The word of a signal as an access. -/
def sigReq (r : WaveRegs) (a : Nat) : Req := { lane := 0, va := (r.s2 a).toNat, n := 8 }

/-- A trap of an access made once for the wave, without a lane mask. -/
def noLanes : Res → Res
  | .trap t => .trap (waveTrap t)
  | .trapIn s t => .trapIn s (waveTrap t)
  | r => r

/-- `sig` (R252): a release at its scope, then word := word + pair B at the home, once. -/
def execSig (sc : Scope) (a b : Nat) (s : State) : Out :=
  let q := sigReq s.regs a
  s.run { ops := [.s a 2 true, .s b 2 true], spec := false,
          keys := [.s a 2 true], own := (firstStage [q] kAtomic).map waveTrap }
    ((s.wave.releaseWait (some sc)).getD (s.deliverOr PendTrap.access
       (noLanes (s.accepting kAtomic true false [q] fun s ps =>
         s.tagChecked kAtomic ps (s.release sc fun s =>
           match ps with
           | [] => .done s
           | x :: _ =>
             let s1 := s.accessed kAtomic true ps
             let v := leNat (s1.readTier x.tier x.pa 8)
             if s1.poisonAt x.tier x.pa then .done (s1.pendPoison kAtomic ps)
             else .done (s1.writeTier x.tier x.pa (leBytes 8 (v + (s.regs.s2 b).toNat))))))))

/-- The POISON of a wait on a signal word in a poisoned granule: the instruction compares the word, which is a use that
computes on it (R429; log 54). -/
def State.signalPoison (s : State) (x : Place) : Option TrapRec :=
  if s.poisonAt x.tier x.pa then some (poisonTrap 0 { addr := BitVec.ofNat 64 x.req.va, kind := kAcquire }) else none

/-- `sigwait` (R252): it stalls until the word is at least pair B, and is then an acquire. -/
def execSigwait (sc : Scope) (a b : Nat) (s : State) : Out :=
  let q := sigReq s.regs a
  s.run { ops := [.s a 2 true, .s b 2 true], spec := false,
          keys := [.s a 2 true], own := (firstStage [q] kAcquire).map waveTrap }
    (noLanes (s.accepting kAcquire false false [q] fun s ps =>
      s.tagChecked kAcquire ps
        (match ps with
         | [] => .done s
         | x :: _ =>
           s.poisonOr (s.signalPoison x)
             (if leNat (s.readTier x.tier x.pa 8) < (s.regs.s2 b).toNat then .stay s 17 0
              else s.sync fun s => .done ((s.accessed kAcquire true ps).acquired sc)))))

/-- The pieces of 4 KiB that a byte range touches, one access each (R253): the pages in which the host's memory is
translated (R367), and parts of the others. -/
def rangeReqs (base n : Nat) : List Req :=
  if n = 0 then []
  else (List.range ((base + n - 1) / 4096 - base / 4096 + 1)).map fun i =>
    { lane := 0, va := if i = 0 then base else (base / 4096 + i) * 4096, n := 1 }

/-- The L2 without the lines of a physical range. -/
def State.dropLines (s : State) (tier pa n : Nat) : State :=
  { s with sets := tmap (fun _ x => x.without fun l =>
      decide (granule tier pa / 4 ≤ l) && decide (l ≤ granule tier (pa + n - 1) / 4)) s.sets }

/-- The bytes of a range that each place stands for. -/
def pageBytes (base n : Nat) (x : Place) : Nat :=
  min (base + n) ((x.req.va / 4096 + 1) * 4096) - x.req.va

/-- A cache maintenance operation on a range: translation faults of every page as for `ldg` (R253), once
nothing keeps it waiting; then `k`. `priv` admits pages of private memory. It is one request (R13, log 55). -/
def State.cacheRange (s : State) (a b : Nat) (priv : Bool) (pre : Option Res)
    (k : State → List Place → Res) : Out :=
  let rs := rangeReqs (s.regs.s2 a).toNat (s.regs.s b).toNat
  s.run { ops := [.s a 2 true, .s b 1 true], spec := false,
          keys := [.s a 2 true, .s b 1 true], own := (firstStage rs kRead).map waveTrap }
    (if rs.isEmpty then .done s else pre.getD (noLanes (s.accepting kRead false priv rs k fun _ => 1)))

/-- `flushw` (R253): write-backs, private lines included, which the memories of this model hold already
(log 10); counted on ST. -/
def execFlushw (_ : Scope) (a b : Nat) (s : State) : Out :=
  s.cacheRange a b true (if s.wave.stFull then some (.wait 8 0) else none) fun s _ => .done (s.countStore 1)

/-- `invl` (R253): copies of the range are discarded; at host scope the lines leave the L2. -/
def execInvl (sc : Scope) (a b : Nat) (s : State) : Out :=
  let base := (s.regs.s2 a).toNat
  let n := (s.regs.s b).toNat
  s.cacheRange a b false none fun s ps =>
    .done (if sc = .host then
      ps.foldl (fun s x => s.dropLines x.tier x.pa (pageBytes base n x)) s else s)

end Sys2Proof.Machine
end

