-- ==== Sys2Proof/Machine/Commands.lean ====
section
/-! DEFINITION. Launch queues and their commands (spec/14_scheduling.md R333, R334, R347; spec/17_host.md R399 to
R406): taking entries, LAUNCH with its checks, COPY, SIGNAL, WAITSIG, FLUSH, INVAL, and the end of a
launch. -/

namespace Sys2Proof.Machine

/-! ### The host party -/

/-- A part of a range that lies in one 4 KiB page: address, bytes, whether it is written. -/
abbrev HostPart := Nat × Nat × Bool

/-- A byte range cut at pages. -/
def hostParts (a n : Nat) (write : Bool) : List HostPart := (pieces a n).map fun x => (x.1, x.2, write)

/-- A part with where it lies. -/
structure HostSpan where
  part : HostPart
  tier : Nat
  pa   : Nat
  deriving DecidableEq, Repr

/-- A span as a place of an access of the I/O die. -/
def HostSpan.toPlace (x : HostSpan) : Place :=
  { req := { lane := 0, va := x.part.1, n := x.part.2.1 }, tier := x.tier, pa := x.pa, w := true }

/-- The party that acts for a queue's commands. -/
def queueParty (ctx q : Nat) : Party := .remote ctx (2 + q)

/-- Parts translated in order up to the first that does not translate (R402); private memory is no bar. -/
def State.hostSpans (s : State) (ctx q : Nat) : List HostPart → List HostSpan × Option (HostPart × XOut)
  | [] => ([], none)
  | p :: ps =>
    match s.look (queueParty ctx q) ctx p.1 p.2.2 with
    | .ok t pa _ _ _ _ =>
      let y := State.hostSpans s ctx q ps
      ({ part := p, tier := t, pa := pa } :: y.1, y.2)
    | x => ([], some (p, x))

/-- What the translation of a command's accesses gives: every span; the spans before the address that fails; a
wait; an address that does not exist. -/
inductive HostAccept where
  | ok (s : State) (ss : List HostSpan)
  | fail (s : State) (va : Nat) (ss : List HostSpan)
  | wait (s : State)
  | nowhere (tier addr : Nat)

/-- A command's accesses translated (R402), waiting as an access does (R369); what the host has translated for the command
is kept until its end. -/
def State.hostAccept (s : State) (ctx q : Nat) (ps : List HostPart) : HostAccept :=
  let p := queueParty ctx q
  if s.frbWaits p then .wait s
  else
    let y := s.hostSpans ctx q ps
    match y.2 with
    | none => .ok (s.l2Touch 48 ctx true (y.1.map HostSpan.toPlace)) y.1
    | some (x, .wait k pg) => .wait (s.takeFrb p 48 ctx x.2.2 [(k, pg)])
    | some (_, .nowhere t a) => .nowhere t a
    | some (x, _) => .fail s x.1 y.1

/-- The bytes of spans. -/
def State.spanBytes (s : State) (ss : List HostSpan) : List Byte :=
  ss.flatMap fun x => s.readTier x.tier x.pa x.part.2.1

/-- The physical addresses of spans, byte by byte. -/
def spanAddrs (ss : List HostSpan) : List (Nat × Nat) :=
  ss.flatMap fun x => (List.range x.part.2.1).map fun i => (x.tier, x.pa + i)

/-- The cells that bytes fill at spans. -/
def spanCells (ss : List HostSpan) (bs : List Byte) : List (Nat × Nat × Byte) :=
  List.zipWith (fun a b => (a.1, a.2, b)) (spanAddrs ss) bs

/-! ### Queues -/

/-- A queue of a context. -/
def State.queueAt (s : State) (ctx q : Nat) : Queue := tget (s.ctxAt ctx).queues q {}

/-- The state with a queue changed. -/
def State.updQueue (s : State) (ctx q : Nat) (f : Queue → Queue) : State :=
  s.updCtx ctx fun c => { c with queues := tset c.queues q (f (tget c.queues q {})) }

/-- Every launch of a queue that has started is complete, and every completion record of the queue is written (R403). -/
def State.queueIdle (s : State) (ctx q : Nat) : Bool :=
  (s.launches.all fun l => !(l.2.ctx = ctx && l.2.queue = q) || l.2.complete) &&
    !s.posts.any fun p => decide (p.ctx = ctx) && decide (p.queue = some q)

/-- The launch taken last from a queue is complete or has every block placed (R333). -/
def State.prevPlaced (s : State) (x : Queue) : Bool :=
  match x.prev with
  | none => true
  | some ln => (s.launchAt ln).complete || decide ((s.launchAt ln).blocks ≤ (s.launchAt ln).nplaced)

/-- An entry waits in a queue that may be taken as far as the queue's registers say (R399). -/
def State.entryWaits (s : State) (ctx q : Nat) : Bool :=
  let x := s.queueAt ctx q
  (tfind? s.ctxs ctx).isSome && !s.dying.contains ctx && decide (x.ctl % 2 = 1) && decide (2 ≤ x.size) &&
    x.busy.isNone && decide (x.head % x.size ≠ x.tail % x.size) &&
    decide ((x.head + x.size - x.crhead % x.size) % x.size ≤ x.size - 2)

/-- The address of the entry at the head of a queue. -/
def Queue.entry (x : Queue) : Nat := x.base.toNat + 64 * (x.head % x.size)

/-- A field of `n` bytes. -/
def fld (bs : List Byte) (off n : Nat) : Nat := leNat ((bs.drop off).take n)

/-- The bytes of the entry at the head of a queue; free where they do not translate (log 9). -/
def State.headEntry (s : State) (ctx q : Nat) : List Byte :=
  s.imageBytes (queueParty ctx q) ctx (s.queueAt ctx q).entry 64

/-- The entry at the head of a queue waits for its page (R369). -/
def State.headWaits (s : State) (ctx q : Nat) : Bool :=
  !(s.waitsFor (queueParty ctx q) ctx false [((s.queueAt ctx q).entry, 64)]).isEmpty

/-- An entry that may start now: in queue order, but for a LAUNCH with its overlap bit (R333). -/
def State.mayStart (s : State) (ctx q : Nat) (ent : List Byte) : Bool :=
  s.queueIdle ctx q ||
    (decide (fld ent 0 1 = 1) && decide (fld ent 1 1 % 2 = 1) && s.prevPlaced (s.queueAt ctx q))

/-- Bytes of the operands of an op (R402). -/
def operandBytes (op : Nat) : Nat :=
  if op = 2 then 24
  else if op = 1 || op = 7 then 8
  else if op = 8 then 2
  else 16

/-- The offset of the first bad field of an entry (R400). -/
def badEntry (ent : List Byte) : Option Nat :=
  let op := fld ent 0 1
  let flags := fld ent 1 1
  let used := 8 + operandBytes op
  if op = 0 || 8 < op then some 0
  else if (op = 1 && 4 ≤ flags) || (op ≠ 1 && flags ≠ 0) then some 1
  else if fld ent 2 2 ≠ 0 then some 2
  else if fld ent used (64 - used) ≠ 0 then some used
  else none

/-! ### The journal and completion records -/

/-- A command's journal record (R405). -/
def Cmd.journal (x : Cmd) (n ctx q state status : Nat) : List Byte :=
  leBytes 8 n ++ leBytes 1 ctx ++ leBytes 1 q ++ leBytes 1 x.op ++ leBytes 1 state ++ leBytes 2 status ++
    leBytes 2 0 ++ leBytes 8 x.seq ++ leBytes 4 x.tag ++ leBytes 4 0

/-- The state with a command's journal record written (R405). -/
def State.journal (s : State) (ctx q : Nat) (x : Cmd) (state status : Nat) : State :=
  match x.jrn with
  | none => s
  | some (n, a) => s.writeDevice a (x.journal n ctx q state status)

/-- The state with the last journal record of a command written, after its completion record (R403, R405). -/
def State.endJournal (s : State) (ctx q : Nat) (x : Cmd) (status : Nat) : State :=
  match x.jrn with
  | none => s
  | some (n, a) => s.post { ctx := ctx, queue := some q, dev := true, addr := a, bytes := x.journal n ctx q 3 status }

/-- A command's completion record (R403). -/
def Cmd.record (x : Cmd) (status d0 d1 : Nat) : List Byte :=
  leBytes 8 x.seq ++ leBytes 4 x.tag ++ leBytes 1 x.op ++ leBytes 1 0 ++ leBytes 2 status ++ leBytes 8 d0 ++
    leBytes 8 d1

/-- The state with a command completed (R403): its record at the ring's next slot, then the journal. -/
def State.complete (s : State) (ctx q : Nat) (x : Cmd) (status d0 d1 : Nat) : State :=
  let k := s.queueAt ctx q
  let s1 := (s.dropFrb (queueParty ctx q)).post
    { ctx := ctx, queue := some q, addr := k.crbase.toNat + 32 * (k.written % k.size), bytes := x.record status d0 d1 }
  let s2 := s1.updQueue ctx q fun k =>
    { k with written := k.written + 1, busy := if k.busy = some x then none else k.busy }
  s2.endJournal ctx q x status

/-- The entry at the head of a queue taken (R399, R405): a journal number and a record at state 1 when the
journal is enabled. -/
def State.takeCmd (s : State) (ctx q : Nat) (ent : List Byte) : State × Cmd :=
  let k := s.queueAt ctx q
  let x : Cmd :=
    { op := fld ent 0 1, seq := k.head, tag := fld ent 4 4, ent := ent
      jrn := if s.jrnSize = 0 then none
        else some (s.jrnSeq, s.jrnBase.toNat + 32 * (s.jrnSeq % s.jrnSize)) }
  let s1 := (s.dropFrb (queueParty ctx q)).updQueue ctx q fun k => { k with head := k.head + 1, busy := some x }
  let s2 : State := { s1 with jrnSeq := if s.jrnSize = 0 then s.jrnSeq else s.jrnSeq + 1 }
  (s2.journal ctx q x 1 0, x)

/-- Operand word `i` of a command (R402). -/
def Cmd.arg (x : Cmd) (i : Nat) : Nat := fld x.ent (8 + 8 * i) 8

/-- The statuses of R404 and R443. -/
inductive CmdStatus where
  | ok | cmdInvalid | gridInvalid | resourceExceeded | configMismatch | quorumInvalid | quorumOverfull
  | coopTooLarge | handlerSlot | ticketBroken | copyFailed | indexUnaligned | aborted | imageTag | pageFault
  | handoverLapsed | ckptSpace | ckptNone | ckptDigest | ckptLayout | ckptKey | ckptPoison
  deriving DecidableEq, Repr

/-- The code of a status (R404, R443). -/
def CmdStatus.code : CmdStatus → Nat
  | .ok => 0 | .cmdInvalid => 1 | .gridInvalid => 2 | .resourceExceeded => 3 | .configMismatch => 4
  | .quorumInvalid => 5 | .quorumOverfull => 6 | .coopTooLarge => 7 | .handlerSlot => 8 | .ticketBroken => 9
  | .copyFailed => 10 | .indexUnaligned => 11 | .aborted => 12 | .imageTag => 13 | .pageFault => 14
  | .handoverLapsed => 15 | .ckptSpace => 16 | .ckptNone => 17 | .ckptDigest => 18 | .ckptLayout => 19
  | .ckptKey => 20 | .ckptPoison => 21

/-- How a command of a queue goes on: the one in progress, or the entry at the head, which is taken when it may
be; a malformed entry completes with CMD_INVALID (R400), a command other than LAUNCH starts (R406). -/
def State.command (s : State) (ctx q : Nat) (mine : Nat → Bool) (go : State → Cmd → Out) : Out :=
  match (s.queueAt ctx q).busy with
  | some x => if mine x.op then go s x else .next s
  | none =>
    if !s.entryWaits ctx q then .next s
    else
      match s.hostAccept ctx q (hostParts (s.queueAt ctx q).entry 64 false) with
      | .nowhere t a => .fault (.noPhysical t a)
      | .wait s1 => .next s1
      | .ok s1 _ | .fail s1 _ _ =>
        let ent := s1.headEntry ctx q
        if !s1.mayStart ctx q ent || !mine (fld ent 0 1) then .next s1
        else
          let y := s1.takeCmd ctx q ent
          match badEntry ent with
          | some off => .next (y.1.complete ctx q y.2 CmdStatus.cmdInvalid.code off 0)
          | none => go (if y.2.op = 1 then y.1 else y.1.journal ctx q y.2 2 0) y.2

/-- A command's accesses: `k` on the spans; PAGE_FAULT after `part` on those before the failing one (R402). -/
def State.hostDo (s : State) (ctx q : Nat) (x : Cmd) (ps : List HostPart)
    (part : State → List HostSpan → State) (k : State → List HostSpan → Out) : Out :=
  match s.hostAccept ctx q ps with
  | .nowhere t a => .fault (.noPhysical t a)
  | .wait s1 => .next s1
  | .fail s1 va ss => .next ((part s1 ss).complete ctx q x CmdStatus.pageFault.code va 0)
  | .ok s1 ss => k s1 ss

/-- The state with a command completed OK. -/
def State.completeOk (s : State) (ctx q : Nat) (x : Cmd) : Out := .next (s.complete ctx q x CmdStatus.ok.code 0 0)

/-! ### COPY, SIGNAL, WAITSIG, FLUSH, INVAL -/

/-- The state with granules poisoned. -/
def State.poisonGranules (s : State) (gs : List Nat) : State := { s with poison := (s.poison ++ gs).eraseDups }

/-- What a COPY's accesses do (R402): the source as it stood goes to the destination, with its poison (log 37). -/
def State.copySpans (s : State) (ss : List HostSpan) : State :=
  let src := ss.filter fun x => !x.part.2.2
  let dst := ss.filter fun x => x.part.2.2
  let bad := (List.zip (spanAddrs dst) (spanAddrs src)).filterMap fun p =>
    if s.poisonAt p.2.1 p.2.2 then some (granule p.1.1 p.1.2) else none
  (s.writeCells (spanCells dst (s.spanBytes src))).poisonGranules bad

/-- COPY (R402). -/
def execCopy (ctx q : Nat) (s : State) : Out :=
  s.command ctx q (fun op => decide (op = 2)) fun s x =>
    s.hostDo ctx q x (hostParts (x.arg 0) (x.arg 2) false ++ hostParts (x.arg 1) (x.arg 2) true) State.copySpans
      fun s ss => (s.copySpans ss).completeOk ctx q x

/-- A part of spans begins in a poisoned granule. -/
def State.spansBad (s : State) (ss : List HostSpan) : Bool := ss.any fun x => s.poisonAt x.tier x.pa

/-- The state with a number added to the 64-bit word at spans, an atomic at its home (R402, R40); a poisoned
granule stays unchanged (R429). -/
def State.addAt (s : State) (ss : List HostSpan) (n : Nat) : State :=
  if s.spansBad ss then s
  else s.writeCells (spanCells ss (leBytes 8 (leNat (s.spanBytes ss) + n)))

/-- The status and details of a command that has met a poisoned granule: not OK (R432), and free beyond that, as R404 has
no status for it (log 37). -/
def State.poisonStatus (s : State) : Nat × Nat × Nat :=
  (1 + (Config.freeValue s.fresh).toNat % 65535, (Config.freeValue (s.fresh + 1)).toNat,
    (Config.freeValue (s.fresh + 2)).toNat)

/-- SIGNAL (R402); a word that could not be added to is not reported as a success (R432). -/
def execSignal (ctx q : Nat) (s : State) : Out :=
  s.command ctx q (fun op => decide (op = 3)) fun s x =>
    s.hostDo ctx q x (hostParts (x.arg 0) 8 true) (fun s _ => s) fun s ss =>
      if s.spansBad ss then
        let r := s.poisonStatus
        .next (({ s with fresh := s.fresh + 3 } : State).complete ctx q x r.1 r.2.1 r.2.2)
      else (s.addAt ss (x.arg 1)).completeOk ctx q x

/-- WAITSIG (R402): it is taken, and ends when its word does not translate; else the queue waits. -/
def execWaitsig (ctx q : Nat) (s : State) : Out :=
  s.command ctx q (fun op => decide (op = 4)) fun s x =>
    s.hostDo ctx q x (hostParts (x.arg 0) 8 false) (fun s _ => s) fun s _ => .next s

/-- WAITSIG_SATISFIED (R333, R402): the word, read unsigned, is at least the threshold. A word in a poisoned granule
satisfies none (R432; log 37). -/
def execWaitsigSatisfied (ctx q : Nat) (s : State) : Out :=
  match (s.queueAt ctx q).busy with
  | none => .next s
  | some x =>
    if x.op ≠ 4 then .next s
    else s.hostDo ctx q x (hostParts (x.arg 0) 8 false) (fun s _ => s) fun s ss =>
      if x.arg 1 ≤ leNat (s.spanBytes ss) && !s.spansBad ss then s.completeOk ctx q x else .next s

/-- FLUSH (R402): the memories of this model hold every write already (log 10). -/
def execFlush (ctx q : Nat) (s : State) : Out :=
  s.command ctx q (fun op => decide (op = 5)) fun s x =>
    s.hostDo ctx q x (hostParts (x.arg 0) (x.arg 1) false) (fun s _ => s) fun s _ => s.completeOk ctx q x

/-- The state without package copies of spans. -/
def State.dropSpans (s : State) (ss : List HostSpan) : State :=
  ss.foldl (fun s x => s.dropLines x.tier x.pa x.part.2.1) s

/-- INVAL (R402). -/
def execInval (ctx q : Nat) (s : State) : Out :=
  s.command ctx q (fun op => decide (op = 6)) fun s x =>
    s.hostDo ctx q x (hostParts (x.arg 0) (x.arg 1) false) State.dropSpans fun s ss =>
      (s.dropSpans ss).completeOk ctx q x

/-! ### The launch descriptor -/

/-- A kernel record with its overlay records and quorum declarations (R70, R71; log 8 says where they lie). -/
structure Kernel where
  head  : List Byte
  ovs   : List (List Byte)
  decls : List (List Byte)
  deriving DecidableEq, Repr

/-- Bytes cut into `n` records of `size` bytes. -/
def records (size n : Nat) (bs : List Byte) : List (List Byte) :=
  (List.range n).map fun i => (bs.drop (size * i)).take size

/-- The kernel record of 32 bytes with the bytes that follow it. -/
def makeKernel (head rest : List Byte) : Kernel :=
  let n := fld head 10 2
  { head := head, ovs := records 16 n rest, decls := records 8 (fld head 24 1) (rest.drop (16 * n)) }

/-- The slots that a kernel declares. -/
def Kernel.slots (k : Kernel) : List Nat := k.decls.map fun d => fld d 0 1

/-- The overlay records keep R71, and the wave width, the declarations and the reserved field R70; the needs are checked
with the resources (R14, R334). -/
def Kernel.ok (k : Kernel) : Bool :=
  let pre := k.ovs.map fun o => fld o 8 1
  let named := (pre.drop 1).filter fun p => p ≠ 255
  let r := k.head
  decide (1 ≤ k.ovs.length) && decide (k.ovs.length ≤ 256) && decide (pre.head? = some 0) &&
    named.all (fun p => decide (1 ≤ p) && decide (p ≤ 3)) && decide named.Nodup &&
    (k.ovs.all fun o => decide (4 ≤ fld o 4 4) && decide (fld o 4 4 ≤ 65536) && decide (fld o 4 4 % 4 = 0) &&
      decide (fld o 9 1 = 0)) &&
    decide (fld r 4 1 = 16 ∨ fld r 4 1 = 32 ∨ fld r 4 1 = 64) && decide (fld r 24 1 ≤ 4) && decide (fld r 25 3 = 0) &&
    k.slots.all (fun q => q < 4) && decide k.slots.Nodup

/-- The bad fields of a launch descriptor, in descriptor order (R401). -/
def badFields (d : List Byte) (k : Kernel) : List (Bool × Nat) :=
  let m := fld d 39 1
  let q := (List.range 4).map fun i =>
    if k.slots.contains i then (decide (fld d (97 + 16 * i) 7 ≠ 0), 97 + 16 * i)
    else (decide (fld d (96 + 16 * i) 16 ≠ 0), 96 + 16 * i)
  [(!k.ok, 0), (decide (fld d 36 2 = 0), 36), (decide (fld d 38 1 = 0 ∨ 3 < fld d 38 1), 38),
   (decide (m % 4 = 3 ∨ m / 4 % 4 = 3 ∨ 32 ≤ m), 39), (decide (fld d 48 8 % 16 ≠ 0), 48),
   (decide (fld d 58 2 ≠ 0), 58), (decide (fld d 80 4 % 256 ≠ 0), 80), (decide (fld d 84 4 % 65536 ≠ 0), 84)] ++
  q ++ [(decide (fld d 160 8 % 8 ≠ 0), 160), (decide (fld d 168 24 ≠ 0), 168)]

/-- The offset of the first bad field of a launch descriptor (R401). -/
def badDescriptor (d : List Byte) (k : Kernel) : Option Nat := ((badFields d k).find? Prod.fst).map Prod.snd

/-- A number rounded up to a multiple of 128. -/
def up128 (n : Nat) : Nat := (n + 127) / 128 * 128

/-- The launch that a descriptor and a kernel record make (R14, R70, R401). -/
def makeLaunch (ctx q : Nat) (x : Cmd) (d : List Byte) (k : Kernel) : Launch :=
  let m := fld d 39 1
  let gx := fld d 24 4
  let gy := fld d 28 4
  let gz := fld d 32 4
  { ctx := ctx, queue := q, cmd := x
    overlap := decide (fld x.ent 1 1 % 2 = 1), coop := decide (fld x.ent 1 1 / 2 % 2 = 1)
    krec := fld d 0 8, ovimg := fld d 8 8, himg := fld d 16 8
    gx := gx, gy := gy, gz := gz, n := fld d 36 2, hs := fld d 38 1
    mode := m % 4, replay := m / 4 % 4, arrival := decide (m / 16 % 2 = 1)
    dscratch := fld d 40 4, plimit := fld d 44 4, args := fld d 48 8, predl := fld d 56 2, jtag := fld d 60 4
    imgarea := fld d 64 8, saveb := fld d 72 8, stride := fld d 80 4, privstr := fld d 84 4
    privarea := fld d 88 8, sigaddr := fld d 160 8
    width := fld k.head 4 1, tiles := fld k.head 5 1, shelf := fld k.head 6 1, slots := fld k.head 7 1
    vregs := (fld k.head 8 2 + 7) / 8 * 8, scratch := up128 (fld k.head 12 4) + up128 (fld d 40 4)
    ovs := k.ovs.map fun o => (fld o 4 4, if fld o 8 1 = 255 then none else some (fld o 8 1))
    blocks := gx * gy * gz }

/-! ### The checks of R334 -/

/-- Check 1: the grid (R8). -/
def Launch.gridOk (l : Launch) : Bool :=
  decide (1 ≤ l.gx) && decide (1 ≤ l.gy) && decide (1 ≤ l.gz) && decide (l.blocks ≤ 2 ^ 32 - 1)

/-- The private bound (R23). -/
def Launch.privBound (l : Launch) : Nat := min (2 ^ 24) (l.privstr / (4 * l.width))

/-- The needs of a launch lie in the ranges of its kernel record (R14, R70). -/
def Launch.needsOk (l : Launch) : Bool :=
  decide (l.tiles ≤ 8) && decide (l.shelf ≤ 32) && decide (l.slots ≤ 16) && decide (8 ≤ l.vregs) && decide (l.vregs ≤ 512)

/-- Check 2: the handler slot (R366), the block size (R7), the needs of R14, R15 and R339, plimit (R401). -/
def State.resourceCheck (s : State) (l : Launch) : Option CmdStatus :=
  if l.ovs.any fun o => o.2 = some l.hs then some .handlerSlot
  else if 3072 < l.n * l.width || !l.needsOk || !s.blockFits l || l.privBound < l.plimit then some .resourceExceeded
  else none

/-- A binding of a launch: slot, table entry, members as bits, their count. -/
structure Binding where
  slot    : Nat
  entry   : Nat
  members : Option Nat
  count   : Nat
  deriving DecidableEq, Repr

/-- The set bits of a number below bit `n`. -/
def bitCount : Nat → Nat → Nat
  | 0, _ => 0
  | n + 1, x => x % 2 + bitCount n (x / 2)

/-- The member bitmaps that a launch's declared slots name: slot, address and bytes (R401). -/
def bitmaps (l : Launch) (d : List Byte) (k : Kernel) : List (Nat × Nat × Nat) :=
  ((List.range 4).filter fun q => k.slots.contains q && decide (fld d (104 + 16 * q) 8 ≠ 0)).map fun q =>
    (q, fld d (104 + 16 * q) 8, (l.blocks * l.n + 7) / 8)

/-- The bindings of a launch's declared slots (R310, R401), with the bitmaps as read, by slot. -/
def bindings (l : Launch) (d : List Byte) (k : Kernel) (maps : Tbl (List Byte)) : List Binding :=
  let waves := l.blocks * l.n
  ((List.range 4).filter fun q => k.slots.contains q).map fun q =>
    match tfind? maps q with
    | none => { slot := q, entry := fld d (96 + 16 * q) 1, members := none, count := waves }
    | some bs =>
      let m := leNat bs % 2 ^ waves
      { slot := q, entry := fld d (96 + 16 * q) 1, members := some m, count := bitCount waves m }

/-- An entry that a launch can name (R309, R310). -/
def Ctx.bindable (c : Ctx) (n : Nat) : Bool :=
  let e := tget c.quorums n {}
  decide (n ≠ 255) && decide (e.members ≠ 0) && decide (e.home < c.jobSize)

/-- The members that a list of bindings adds to an entry. -/
def boundBy (bs : List Binding) (n : Nat) : Nat := ((bs.filter fun b => b.entry = n).map Binding.count).sum

/-- Check 3: the quorum bindings (R310), with slot and entry of the first that fails. -/
def Ctx.quorumCheck (c : Ctx) (bs : List Binding) : Option (CmdStatus × Nat × Nat) :=
  match bs.find? fun b => !c.bindable b.entry with
  | some b => some (.quorumInvalid, b.slot, b.entry)
  | none =>
    ((List.range bs.length).findSome? fun i =>
      (bs[i]?).bind fun b =>
        let e := tget c.quorums b.entry {}
        if e.members < e.bound + boundBy (bs.take (i + 1)) b.entry then some b else none).map
      fun b => (.quorumOverfull, b.slot, b.entry)

/-- Words as one number, the first lowest. -/
def packWords (xs : List Nat) : Nat := xs.foldr (fun x acc => x + acc * 2 ^ 32) 0

/-- The fencing state of every partition as one number: its fenced banks and whether it is lost (R4, R186,
R435). -/
def State.fencing (s : State) : Nat :=
  packWords ((List.range 384).map fun i =>
    let c := s.engineAt (i / 8)
    let f := tget c.fences (i % 8) []
    (f.contains 0).toNat + 2 * (f.contains 1).toNat + 4 * (c.lost.contains (i % 8)).toNat)

/-- The firmware image that runs. -/
def State.firmware (s : State) : List Nat := s.boot.image.getD Config.firmware

/-- The ten settings of R4, in its order. -/
def State.settings (s : State) (l : Launch) : List Nat :=
  let c := s.ctxAt l.ctx
  [l.mode, l.arrival.toNat, l.width, Bool.toNat c.debug, c.conf.toNat, c.jobSize, c.rank,
   packWords ((List.range 48).map fun i => (tget s.remap i 0).toNat), s.fencing,
   leNat ((sha384 s.firmware).map fun b => BitVec.ofNat 8 b)]

/-- The launch markers of the log in order (R453). -/
def Replay.markers (rp : Replay) : List (List Nat) :=
  rp.log.entries.filterMap fun e => match e.body with | .marker _ xs => some xs | _ => none

/-- The key under which a REPLAY session counts the markers it has met; no identity word equals it. -/
def markerKey : Nat := 2 ^ 32

/-- The position, from 1, of the first setting that differs. -/
def firstDiff : List Nat → List Nat → Option Nat
  | x :: xs, y :: ys => if x = y then (firstDiff xs ys).map (· + 1) else some 1
  | _, _ => none

/-- Check 4: the replay configuration (R4, R456): the position of the first differing setting, 0 for a launch
without a recorded run. -/
def State.replayCheck (s : State) (l : Launch) : Option Nat :=
  if s.rep.mode = 2 then
    match s.rep.markers[tget s.rep.taken markerKey 0]? with
    | none => some 0
    | some xs => firstDiff (s.settings l) xs
  else if l.replay = 2 then some 0
  else none

/-- The first check of R334 that a launch fails: status and details. -/
def State.launchCheck (s : State) (l : Launch) (bs : List Binding) : Option (CmdStatus × Nat × Nat) :=
  if !l.gridOk then some (.gridInvalid, 0, 0)
  else match s.resourceCheck l with
  | some st => some (st, 0, 0)
  | none =>
    match (s.ctxAt l.ctx).quorumCheck bs with
    | some r => some r
    | none =>
      match s.replayCheck l with
      | some n => some (.configMismatch, n, 0)
      | none => if l.coop && (s.emptyGrid l).isNone then some (.coopTooLarge, 0, 0) else none

/-! ### Acceptance -/

/-- The logs that a package holds, without one at an address. -/
def Replay.logsBut (rp : Replay) (base : Nat) : List SessionLog :=
  (rp.log :: rp.old).filter fun x => !x.entries.isEmpty && decide (x.base ≠ base)

/-- The replay registers with a RECORD session begun (R452), at a package reset, at the restart from an image, or while a
run goes on; `host` is the host's memory. -/
def Replay.record (rp : Replay) (host : Memory) (atReset : Bool) (image : Option Nat) : Replay :=
  { rp with
    mode := 1, lost := false, used := 0, next := 0, taken := [], sessions := rp.sessions + 1
    old := rp.logsBut rp.base.toNat
    log := { base := rp.base.toNat, session := rp.sessions + 1, atReset := atReset, image := image, host := host } }

/-- The state with the marker of a launch that is taken, accepted or refused: RECORD appends it, REPLAY passes it (R452,
R453, R456). -/
def State.markLaunch (s : State) (l : Launch) : State :=
  let n := (l.cmd.jrn.map Prod.fst).getD 0
  let rp := s.rep
  if rp.mode = 1 then
    s.appendLog { cycle := s.cycle, gate := 0xFE, ctx := l.ctx, body := .marker n (s.settings l) }
  else if rp.mode = 2 then
    { s with rep := { rp with taken := tset rp.taken markerKey (tget rp.taken markerKey 0 + 1) } }
  else s

/-- The state in which a RECORD launch that is accepted has begun a session while the mode is OFF (R452). -/
def State.beginRecord (s : State) (l : Launch) : State :=
  if l.replay = 1 && decide (s.rep.mode = 0) then { s with rep := s.rep.record s.hostMem false none } else s

/-- The state with a launch accepted (R310, R334, R338, R406): its blocks are Pending, its members bound. -/
def State.acceptLaunch (s : State) (l : Launch) (bs : List Binding) : State :=
  let ln := s.nextLaunch
  let l1 := { l with accepted := s.cycle, quors := bs.map fun b => (b.slot, (b.entry, b.members)) }
  let s1 := ((s.beginRecord l).markLaunch l).journal l.ctx l.queue l.cmd 2 0
  let s2 : State := { s1 with nextLaunch := ln + 1, launches := tset s1.launches ln l1 }
  let s3 := s2.updCtx l.ctx fun c =>
    { c with quorums := bs.foldl (fun t b =>
        let e := tget t b.entry {}
        tset t b.entry { e with bound := e.bound + b.count }) c.quorums }
  s3.updQueue l.ctx l.queue fun k => { k with busy := none, prev := some ln }

/-- The state with a launch refused (R334, R4): a differing setting ends a REPLAY session with cause 5. -/
def State.refuseLaunch (s : State) (l : Launch) (r : CmdStatus × Nat × Nat) : State :=
  let s0 := s.markLaunch l
  let s1 : State := if r.1 = .configMismatch && decide (s.rep.mode = 2) then s0.endReplay 5 else s0
  (s1.complete l.ctx l.queue l.cmd r.1.code r.2.1 r.2.2).updQueue l.ctx l.queue fun k => { k with prev := none }

/-- A malformed LAUNCH completes with the offset of its first bad field (R401). -/
def State.launchInvalid (s : State) (ctx q : Nat) (x : Cmd) (off : Nat) : State :=
  (s.complete ctx q x CmdStatus.cmdInvalid.code off 0).updQueue ctx q fun k => { k with prev := none }

/-- A well-formed LAUNCH whose bitmaps have been read: refused or accepted (R334). -/
def State.launchBound (s : State) (l : Launch) (bs : List Binding) : State :=
  match s.launchCheck l bs with
  | some r => s.refuseLaunch l r
  | none => (s.acceptLaunch l bs).dropFrb (queueParty l.ctx l.queue)

/-- The bitmaps of a launch read one after another (R401). A grid beyond R8, and a bitmap where none is due, are not
read. -/
def State.readBitmaps (ctx q : Nat) (x : Cmd) (k : State → Tbl (List Byte) → Out) :
    List (Nat × Nat × Nat) → Tbl (List Byte) → State → Out
  | [], t, s => k s t
  | (slot, a, n) :: ms, t, s =>
    s.hostDo ctx q x (hostParts a n false) (fun s _ => s) fun s ss =>
      State.readBitmaps ctx q x k ms (tset t slot (s.spanBytes ss)) s

/-- A LAUNCH whose descriptor and kernel record have been read: malformed (R401), or checked (R334). -/
def State.launchFrom (s : State) (ctx q : Nat) (x : Cmd) (d : List Byte) (k : Kernel) : Out :=
  match badDescriptor d k with
  | some off => .next (s.launchInvalid ctx q x off)
  | none =>
    let l := makeLaunch ctx q x d k
    if !l.gridOk then .next (s.launchBound l [])
    else State.readBitmaps ctx q x (fun s maps => .next (s.launchBound l (bindings l d k maps))) (bitmaps l d k) [] s

/-- LAUNCH (R334, R401), and an entry with an undefined op (R400): its descriptor is read, the kernel record that it
names, and what follows that (log 8). -/
def execLaunch (ctx q : Nat) (s : State) : Out :=
  s.command ctx q (fun op => decide (op ≤ 1 ∨ 8 < op)) fun s x =>
    s.hostDo ctx q x (hostParts (x.arg 0) 192 false) (fun s _ => s) fun s ss =>
      let d := s.spanBytes ss
      let krec := fld d 0 8
      s.hostDo ctx q x (hostParts krec 32 false) (fun s _ => s) fun s hs =>
        let head := s.spanBytes hs
        let n := 16 * fld head 10 2 + 8 * fld head 24 1
        s.hostDo ctx q x (hostParts (krec + 32) n false) (fun s _ => s) fun s rs =>
          s.launchFrom ctx q x d (makeKernel head (s.spanBytes rs))

/-! ### Pending blocks -/

/-- The Pending blocks of a launch. -/
def State.pendingBlocks (s : State) (ln : Nat) : List Nat :=
  let l := s.launchAt ln
  if l.complete then []
  else (List.range l.blocks).filter fun b =>
    if l.bound then decide (tget l.placed (b % 48) 0 ≤ b / 48) else decide (l.nplaced ≤ b)

/-- The identity word of a Pending block: lcore 63 (R410). -/
def State.pendingIdent (s : State) (l : Launch) : Nat :=
  (s.ctxAt l.ctx).rank * 2 ^ 28 + 63 * 2 ^ 22 + l.jtag % 64

/-! ### The end of a launch -/

/-- Every block of a launch has retired (R40). -/
def Launch.ended (l : Launch) : Bool := !l.complete && decide (l.blocks ≤ l.nretired)

/-- The status of a launch in the order of R347, with its code and details; `sig` is those of its signal word, when that
could not be added to. -/
def Launch.status (l : Launch) (sig : Option (Nat × Nat × Nat)) : Nat × Nat × Nat :=
  match l.imageTag, l.broken, l.copyFail with
  | some b, _, _ => (CmdStatus.imageTag.code, b, 0)
  | none, b :: bs, _ => (CmdStatus.ticketBroken.code, (lowest (b :: bs)).getD 0, 0)
  | none, [], some (h, st) =>
    ((if st / 2 ^ 16 % 256 = 10 then CmdStatus.indexUnaligned else CmdStatus.copyFailed).code, h, st)
  | none, [], none =>
    if l.aborted then (CmdStatus.aborted.code, l.abortCode, 0)
    else match sig with
    | some r => r
    | none => (CmdStatus.ok.code, 0, 0)

/-- The state with a launch complete (R310, R347, R403). -/
def State.endLaunch (s : State) (ln : Nat) (sig : Option (Nat × Nat × Nat)) : State :=
  let l := s.launchAt ln
  let r := l.status sig
  let s1 := (s.updLaunch ln fun l => { l with complete := true }).updCtx l.ctx fun c =>
    { c with quorums := l.quors.foldl (fun t b =>
        let e := tget t b.2.1 {}
        let waves := l.blocks * l.n
        let n := match b.2.2 with | none => waves | some m => bitCount waves m
        tset t b.2.1 { e with bound := e.bound - n, left := e.left - n }) c.quorums }
  s1.complete l.ctx l.queue l.cmd r.1 r.2.1 r.2.2

/-- LAUNCH_COMPLETE (R40, R347, R403, R419): the signal word of an accepted launch that names one, then the
completion record. -/
def execLaunchComplete (l : Nat) (s : State) : Out :=
  let x := s.launchAt l
  if !x.ended then .next s
  else if x.sigaddr = 0 then .next (s.endLaunch l none)
  else
    match s.hostAccept x.ctx x.queue (hostParts x.sigaddr 8 true) with
    | .nowhere t a => .fault (.noPhysical t a)
    | .wait s1 => .next s1
    | .fail s1 va _ => .next (s1.endLaunch l (some (CmdStatus.pageFault.code, va, 0)))
    | .ok s1 ss =>
      if s1.spansBad ss then
        .next (({ s1 with fresh := s1.fresh + 3 } : State).endLaunch l (some s1.poisonStatus))
      else .next ((s1.addAt ss 1).endLaunch l none)

end Sys2Proof.Machine
end

