-- ==== Sys2Proof/Machine/Checkpoint.lean ====
section
/-! DEFINITION. Checkpoints (spec/19_recovery.md R437 to R443): CHECKPOINT_SAVE and CHECKPOINT_RESTORE. -/

namespace Sys2Proof.Machine

/-! ### Descriptors and manifests -/

/-- Bytes as numbers, for digests and ciphers. -/
def natBytes (bs : List Byte) : List Nat := bs.map BitVec.toNat
/-- Numbers below 256 as bytes. -/
def byteList (xs : List Nat) : List Byte := xs.map (BitVec.ofNat 8)

/-- The offset of the first bad field of a checkpoint descriptor (R437); `conf`: the context is confidential. -/
def badCheckpoint (d : List Byte) (conf : Bool) : Option Nat :=
  let slot := fld d 37 1
  ([(decide (fld d 0 8 % 4096 ≠ 0), 0), (decide (fld d 8 8 % 4096 ≠ 0), 8),
    (decide (fld d 32 4 = 0 ∨ 4096 < fld d 32 4), 32), (decide (1 < fld d 36 1), 36),
    ((decide (32 ≤ slot) && decide (slot ≠ 255)) || (conf && decide (slot = 255)), 37),
    (decide (fld d 38 26 ≠ 0), 38)].find? Prod.fst).map Prod.snd

/-- A stripe (R437): address, length, NARROW. -/
structure Stripe where
  addr   : Nat
  len    : Nat
  narrow : Bool
  deriving DecidableEq, Repr

/-- The stripes of a table; none when an entry has an undefined value (R437). -/
def stripeTable (bs : List Byte) (count : Nat) : Option (List Stripe) :=
  let es := (List.range count).map fun i => (bs.drop (16 * i)).take 16
  if es.all fun e => decide (4 ≤ fld e 8 4) && decide (fld e 8 4 ≤ 2 ^ 31) && decide (fld e 8 4 % 4 = 0) &&
      decide (fld e 12 4 ≤ 1) then
    some (es.map fun e => { addr := fld e 0 8, len := fld e 8 4, narrow := decide (fld e 12 4 = 1) })
  else none

/-- Stored bytes of a stripe (R438). -/
def Stripe.stored (x : Stripe) (enc : Bool) : Nat :=
  (if x.narrow then x.len / 2 else x.len) + if enc then 16 else 0

/-- A number rounded up to a multiple of 4 KiB. -/
def up4k (n : Nat) : Nat := (n + 4095) / 4096 * 4096

/-- Stripes with the offsets at which they are stored from an offset on (R438). -/
def placeStripes (enc : Bool) : Nat → List Stripe → List (Nat × Stripe)
  | _, [] => []
  | off, x :: xs => (off, x) :: placeStripes enc (up4k (off + x.stored enc)) xs

/-- Bytes of an area that stripes need (R438, R443). -/
def areaNeed (enc : Bool) (xs : List Stripe) : Nat :=
  ((placeStripes enc (up4k (128 + 96 * xs.length)) xs).map fun p => p.1 + p.2.stored enc).foldl max 0

/-- The magic of a manifest (R438). -/
def ckptMagic : List Byte := byteList [0x44, 0x43, 0x4B, 0x50]

/-- A manifest is valid (R438): its magic, its version, its digest. -/
def manifestValid (m : List Byte) : Bool :=
  decide (m.take 4 = ckptMagic) && decide (fld m 4 2 = 1) &&
    decide (natBytes ((m.drop 80).take 48) =
      sha384 (natBytes (m.take 80 ++ (m.drop 128).take (96 * fld m 16 4))))

/-- The 96 bytes of stripe record `i` of a manifest. -/
def stripeRecord (m : List Byte) (i : Nat) : List Byte := (m.drop (128 + 96 * i)).take 96

/-- Records of a manifest to be read: none when its magic or version has made it invalid already (R438). -/
def manifestCount (head : List Byte) : Nat :=
  if head.take 4 = ckptMagic && decide (fld head 4 2 = 1) then fld head 16 4 else 0

/-- A manifest that a context's space holds at an address, read as the host party (R437). A poisoned granule in it, in a
descriptor or in a stripe table is read as it stands (log 54). -/
def State.readManifest (s : State) (ctx q : Nat) (x : Cmd) (a : Nat) (k : State → List Byte → Out) : Out :=
  s.hostDo ctx q x (hostParts a 128 false) (fun s _ => s) fun s hs =>
    let head := s.spanBytes hs
    s.hostDo ctx q x (hostParts (a + 128) (96 * manifestCount head) false) (fun s _ => s) fun s rs =>
      k s (head ++ s.spanBytes rs)

/-- A CHECKPOINT with its descriptor, and its stripe table unless the address is 0 (R437); `mode` is the one of
the event. -/
def State.checkpoint (s : State) (ctx q mode : Nat)
    (go : State → Cmd → List Byte → Option (List Stripe) → Out) : Out :=
  s.command ctx q (fun op => decide (op = 7)) fun s x =>
    s.hostDo ctx q x (hostParts (x.arg 0) 64 false) (fun s _ => s) fun s ds =>
      let d := s.spanBytes ds
      match badCheckpoint d (s.ctxAt ctx).conf with
      | some off => .next (s.complete ctx q x CmdStatus.cmdInvalid.code off 0)
      | none =>
        if fld d 36 1 ≠ mode then .next s
        else if fld d 24 8 = 0 && decide (mode = 1) then go s x d none
        else
          s.hostDo ctx q x (hostParts (fld d 24 8) (16 * fld d 32 4) false) (fun s _ => s) fun s ts =>
            match stripeTable (s.spanBytes ts) (fld d 32 4) with
            | none => .next (s.complete ctx q x CmdStatus.cmdInvalid.code 24 0)
            | some xs => go s x d (some xs)

/-! ### Stripes -/

/-- 32-bit words of bytes. -/
def wordsOf (bs : List Byte) : List Nat := (List.range (bs.length / 4)).map fun i => fld bs (4 * i) 4

/-- A stripe as it is stored before encryption (R440): NARROW converts to bf16 under RNE. -/
def narrowBytes (x : Stripe) (bs : List Byte) : List Byte :=
  if x.narrow then (wordsOf bs).flatMap fun w => leBytes 2 (convertElem 4 .rne false w).bits else bs

/-- Stored bytes widened exactly (R440). -/
def widenBytes (x : Stripe) (bs : List Byte) : List Byte :=
  if x.narrow then
    (List.range (bs.length / 2)).flatMap fun i => leBytes 4 (convertElem 5 .rne false (fld bs (2 * i) 2)).bits
  else bs

/-- A stripe sealed under a key slot with a counter (R442): ciphertext, then the tag. -/
def sealStripe (k : Option KeySlot) (counter : Nat) (bs : List Byte) : List Byte :=
  match k with
  | none => bs
  | some k =>
    let y := gcmSeal k.key (gcmIv k.ssalt counter) (natBytes bs)
    byteList (y.1 ++ y.2)

/-- Stored bytes opened (R442); none when the tag does not match. -/
def openStripe (k : Option KeySlot) (counter : Nat) (bs : List Byte) : Option (List Byte) :=
  match k with
  | none => some bs
  | some k =>
    let n := bs.length - 16
    (gcmOpen k.key (gcmIv k.ssalt counter) (natBytes (bs.take n)) (natBytes (bs.drop n))).map byteList

/-- The address of the first poisoned granule among spans. -/
def State.spanPoison (s : State) (ss : List HostSpan) : Option Nat :=
  ss.findSome? fun x =>
    ((List.range x.part.2.1).find? fun i => s.poisonAt x.tier (x.pa + i)).map fun i => (x.part.1 + i) / 32 * 32

/-- The key slot that a checkpoint names, while it can be used (R442). -/
def Ctx.ckptKey (c : Ctx) (slot : Nat) : Option KeySlot := (tfind? c.keys slot).filter fun k => !k.closing

/-! ### Saving -/

/-- One write of a save in order: the parts it reads and writes, and the stripe it stores. -/
structure SaveStep where
  reads  : List HostPart := []
  writes : List HostPart
  bytes  : List Byte := []
  stripe : Option (Nat × Stripe) := none
  deriving DecidableEq, Repr

/-- What a save has done so far: the state, the digests of the stored stripes, the poisoned granule met. -/
structure Saving where
  s       : State
  digests : List (List Nat) := []
  bad     : Option (Nat × Nat) := none

/-- A step of a save on its spans; `key` encrypts from counter `c0` on (R439, R442). -/
def Saving.step (v : Saving) (ctx slot c0 : Nat) (key : Option KeySlot) (x : SaveStep)
    (rs ws : List HostSpan) : Saving :=
  match x.stripe with
  | none => { v with s := v.s.writeCells (spanCells ws x.bytes) }
  | some (i, st) =>
    match v.s.spanPoison rs with
    | some a => { v with bad := some (a, i) }
    | none =>
      let out := sealStripe key (c0 + i) (narrowBytes st (v.s.spanBytes rs))
      let s1 := v.s.writeCells (spanCells ws out)
      let s2 := if key.isSome then s1.updCtx ctx fun c =>
        { c with keys := tmap (fun k y => if k = slot then { y with send := y.send + 1 } else y) c.keys } else s1
      { v with s := s2, digests := v.digests ++ [sha384 (natBytes out)] }

/-- A step of a save that does not come to its end, on the spans that it has read: a poisoned granule among them ends the
save before the part that does not translate (R443). -/
def Saving.meets (v : Saving) (x : SaveStep) (rs : List HostSpan) : Saving :=
  { v with bad := x.stripe.bind fun st => (v.s.spanPoison rs).map fun a => (a, st.1) }

/-- The steps of a save on the spans that translated, in order, up to a poisoned granule or the end of the
spans. -/
def saveSteps (ctx slot c0 : Nat) (key : Option KeySlot) : List SaveStep → List HostSpan → Saving → Saving
  | [], _, v => v
  | x :: xs, ss, v =>
    let rs := ss.take x.reads.length
    let ws := (ss.drop x.reads.length).take x.writes.length
    if v.bad.isSome then v
    else if rs.length < x.reads.length || ws.isEmpty then v.meets x rs
    else
      saveSteps ctx slot c0 key xs (ss.drop (x.reads.length + x.writes.length)) (v.step ctx slot c0 key x rs ws)

/-- The manifest of a save (R438). -/
def makeManifest (enc : Bool) (seq rank jobSize slot cycle c0 : Nat) (xs : List (Nat × Stripe))
    (digests : List (List Nat)) : List Byte :=
  let head := ckptMagic ++ leBytes 2 1 ++ leBytes 2 enc.toNat ++ leBytes 8 seq ++ leBytes 4 xs.length ++
    leBytes 1 rank ++ leBytes 1 jobSize ++ leBytes 2 slot ++ leBytes 8 cycle ++ leBytes 48 0
  let recs := (xs.mapIdx fun i p =>
    leBytes 8 p.2.addr ++ leBytes 4 p.2.len ++ leBytes 4 p.2.narrow.toNat ++ leBytes 8 p.1 ++
      leBytes 8 (if enc then c0 + i else 0) ++ byteList (digests.getD i []) ++ leBytes 16 0).flatten
  head ++ byteList (sha384 (natBytes (head ++ recs))) ++ recs

/-- The sequence number and target of a save (R439): 0 for area A, 1 for area B. -/
def saveTarget (ma mb : List Byte) : Nat × Nat :=
  match manifestValid ma, manifestValid mb with
  | false, false => (1, 0)
  | false, true => (fld mb 8 8 + 1, 0)
  | true, false => (fld ma 8 8 + 1, 1)
  | true, true => (max (fld ma 8 8) (fld mb 8 8) + 1, if fld mb 8 8 < fld ma 8 8 then 1 else 0)

/-- The writes of a save after its checks (R439). A poisoned granule that comes before a part that does not translate ends
it (R443). -/
def State.saveTo (s : State) (ctx q : Nat) (x : Cmd) (d : List Byte) (xs : List Stripe)
    (key : Option KeySlot) (seq target : Nat) : Out :=
  let c := s.ctxAt ctx
  let slot := fld d 37 1
  let enc := key.isSome
  let c0 := (key.map KeySlot.send).getD 0
  let base := fld d (8 * target) 8
  let mlen := 128 + 96 * xs.length
  let ps := placeStripes enc (up4k mlen) xs
  let stripes : List SaveStep := ps.mapIdx fun i p =>
    { reads := hostParts p.2.addr p.2.len false, writes := hostParts (base + p.1) (p.2.stored enc) true
      stripe := some (i, p.2) }
  let steps : List SaveStep :=
    { writes := hostParts base 4 true, bytes := leBytes 4 0 } :: stripes
  let last := hostParts (base + 4) (mlen - 4) true ++ hostParts base 4 true
  let parts := (steps.flatMap fun y => y.reads ++ y.writes) ++ last
  let n := parts.length - last.length
  let done := fun (s : State) (ss : List HostSpan) => saveSteps ctx slot c0 key steps (ss.take n) { s := s }
  let finish := fun (v : Saving) (ss : List HostSpan) =>
    let m := makeManifest enc seq c.rank c.jobSize slot s.cycle c0 ps v.digests
    v.s.writeCells (spanCells (ss.drop n) (m.drop 4 ++ m.take 4))
  let end_ := fun (v : Saving) (k : Out) =>
    match v.bad with
    | some b => Host.Outcome.next (v.s.complete ctx q x CmdStatus.ckptPoison.code b.1 b.2)
    | none => k
  match s.hostAccept ctx q parts with
  | .nowhere t a => .fault (.noPhysical t a)
  | .wait s1 => .next s1
  | .fail s1 va ss =>
    let v := done s1 ss
    end_ v (.next ((finish v ss).complete ctx q x CmdStatus.pageFault.code va 0))
  | .ok s1 ss =>
    let v := done s1 ss
    end_ v (.next ((finish v ss).complete ctx q x CmdStatus.ok.code seq target))

/-- CHECKPOINT_SAVE (R439, R443). -/
def execCheckpointSave (ctx q : Nat) (s : State) : Out :=
  s.checkpoint ctx q 0 fun s x d table =>
    let xs := table.getD []
    let slot := fld d 37 1
    let key := (s.ctxAt ctx).ckptKey slot
    s.readManifest ctx q x (fld d 0 8) fun s ma =>
      s.readManifest ctx q x (fld d 8 8) fun s mb =>
        let need := areaNeed (decide (slot ≠ 255)) xs
        if fld d 16 8 < need then .next (s.complete ctx q x CmdStatus.ckptSpace.code need 0)
        else if slot ≠ 255 && key.all fun k => decide (2 ^ 64 - 1 < k.send + xs.length) then
          .next (s.complete ctx q x CmdStatus.ckptKey.code slot 0)
        else
          let t := saveTarget ma mb
          s.saveTo ctx q x d xs (if slot = 255 then none else key) t.1 t.2

/-! ### Restoring -/

/-- A checkpoint that may be restored: its area (0 for A, 1 for B), address and manifest. -/
structure Candidate where
  area : Nat
  base : Nat
  man  : List Byte
  deriving DecidableEq, Repr

/-- The valid checkpoints, the one with the higher sequence number first (R441). -/
def candidatesOf (a b : Candidate) : List Candidate :=
  match manifestValid a.man, manifestValid b.man with
  | false, false => []
  | true, false => [a]
  | false, true => [b]
  | true, true => if fld a.man 8 8 < fld b.man 8 8 then [b, a] else [a, b]

/-- The stripes that a manifest records. -/
def Candidate.stripes (c : Candidate) : List Stripe :=
  (List.range (fld c.man 16 4)).map fun i =>
    let r := stripeRecord c.man i
    { addr := fld r 0 8, len := fld r 8 4, narrow := decide (fld r 12 4 % 2 = 1) }

/-- The stripes of a checkpoint are encrypted. -/
def Candidate.enc (c : Candidate) : Bool := decide (fld c.man 6 2 % 2 = 1)

/-- The first stripe whose count, length or NARROW flag differs between two lists (R443). -/
def layoutDiff : Nat → List Stripe → List Stripe → Option Nat
  | _, [], [] => none
  | i, x :: xs, y :: ys => if x.len = y.len && x.narrow = y.narrow then layoutDiff (i + 1) xs ys else some i
  | i, _, _ => some i

/-- Where a checkpoint stores its stripes. -/
def Candidate.parts (c : Candidate) : List (List HostPart) :=
  c.stripes.mapIdx fun i x => hostParts (c.base + fld (stripeRecord c.man i) 16 8) (x.stored c.enc) false

/-- The spans of each of several lists of parts. -/
def cutSpans : List (List HostPart) → List HostSpan → List (List HostSpan)
  | [], _ => []
  | p :: ps, ss => ss.take p.length :: cutSpans ps (ss.drop p.length)

/-- The plain bytes of the stripes of a checkpoint; the first that fails its digest (R441, R443). -/
def State.openStripes (s : State) (c : Candidate) (key : Option KeySlot) (ss : List HostSpan) :
    Nat ⊕ List (List Byte) :=
  let ys := (cutSpans c.parts ss).mapIdx fun i sp =>
    let r := stripeRecord c.man i
    let bs := s.spanBytes sp
    if (s.spanPoison sp).isSome || sha384 (natBytes bs) ≠ natBytes ((r.drop 32).take 48) then none
    else openStripe (if c.enc then key else none) (fld r 24 8) bs
  match (List.range ys.length).find? fun i => (ys.getD i none).isNone with
  | some i => .inl i
  | none => .inr (ys.filterMap id)

/-- The writes of a restore (R441). -/
def State.restoreTo (s : State) (ctx q : Nat) (x : Cmd) (c : Candidate) (dst : List Nat)
    (bodies : List (List Byte)) : Out :=
  let st := c.stripes
  let parts := (List.zipWith (fun a (y : Stripe) => hostParts a y.len true) dst st).flatten
  let out := (List.zipWith widenBytes st bodies).flatten
  s.hostDo ctx q x parts (fun s ss => s.writeCells (spanCells ss out)) fun s ss =>
    .next ((s.writeCells (spanCells ss out)).complete ctx q x CmdStatus.ok.code (fld c.man 8 8) c.area)

/-- A restore from the first of the valid checkpoints whose stripes are whole (R441, R443); `first`: the failing
stripe of the newer one. When that one's layout or key does not fit, the status says so, also of the older one after the
newer has failed its digest (log 54). -/
def State.restoreFrom (s : State) (ctx q : Nat) (x : Cmd) (d : List Byte) (table : Option (List Stripe)) :
    Option Nat → List Candidate → Out
  | none, [] => .next (s.complete ctx q x CmdStatus.ckptNone.code 0 0)
  | some i, [] => .next (s.complete ctx q x CmdStatus.ckptDigest.code i 0xFFFFFFFF)
  | first, c :: cs =>
    let want := table.getD (c.stripes.take (fld d 32 4))
    let slot := fld d 37 1
    let key := (s.ctxAt ctx).ckptKey slot
    match (if table.isNone && decide (c.stripes.length < fld d 32 4) then some c.stripes.length
           else layoutDiff 0 c.stripes want) with
    | some i => .next (s.complete ctx q x CmdStatus.ckptLayout.code i 0)
    | none =>
      if c.enc && key.isNone then .next (s.complete ctx q x CmdStatus.ckptKey.code slot 0)
      else
        s.hostDo ctx q x c.parts.flatten (fun s _ => s) fun s ss =>
          match s.openStripes c key ss with
          | .inr bodies => s.restoreTo ctx q x c (want.map Stripe.addr) bodies
          | .inl i =>
            match first with
            | none => State.restoreFrom s ctx q x d table (some i) cs
            | some j => .next (s.complete ctx q x CmdStatus.ckptDigest.code j i)

/-- CHECKPOINT_RESTORE (R441 to R443). -/
def execCheckpointRestore (ctx q : Nat) (s : State) : Out :=
  s.checkpoint ctx q 1 fun s x d table =>
    s.readManifest ctx q x (fld d 0 8) fun s ma =>
      s.readManifest ctx q x (fld d 8 8) fun s mb =>
        s.restoreFrom ctx q x d table none
          (candidatesOf { area := 0, base := fld d 0 8, man := ma } { area := 1, base := fld d 8 8, man := mb })

end Sys2Proof.Machine
end

