-- ==== Sys2Proof/Machine/Owner.lean ====
section
/-! DEFINITION. Masters and ownership (spec/17_host.md R394 to R398), the queue registers that a host writes
(R399) and pre-emption requests (spec/16_contexts.md R377). -/

namespace Sys2Proof.Machine

/-! ### Masters

A master is a number: bits [15:0] its requester id, bits [31:16] 0 or 1 more than the TDI on whose IDE stream
the write comes with its TEE bit, bits from 32 on 0 or 1 more than the TDI whose SPDM session carries it (log
15). -/

/-- The requester id of a master. -/
def requester (m : Nat) : Nat := m % 2 ^ 16

/-- A write on the IDE stream of a TDI with the TEE bit set (R414). -/
def onStream (m tdi : Nat) : Bool := decide (m / 2 ^ 16 % 2 ^ 16 = tdi + 1)

/-- A request over the SPDM session of a TDI (R467). -/
def onSession (m tdi : Nat) : Bool := decide (m / 2 ^ 32 = tdi + 1)

/-- The master is the owner (R395). -/
def State.isOwner (s : State) (m : Nat) : Bool := s.owned && decide (s.owner = requester m)

/-- The master is a context's owner or submitter (R394, R408). -/
def State.mayUse (s : State) (ctx m : Nat) : Bool :=
  let c := s.ctxAt ctx
  (tfind? s.ctxs ctx).isSome &&
    (s.isOwner m || (decide (c.submitter ≠ 0xFFFF) && decide (c.submitter = requester m)))

/-- The master may write a context's control page (R394, R414). -/
def State.mayControl (s : State) (ctx m : Nat) : Bool :=
  s.mayUse ctx m && (!(s.ctxAt ctx).conf || onStream m (s.ctxAt ctx).tdi)

/-- The state with a dropped write counted (R394, R395). -/
def State.drop (s : State) : State := { s with dropcnt := min (s.dropcnt + 1) (2 ^ 32 - 1) }

/-! ### Ownership -/

/-- Arithmetic clocks of a millisecond (R479). -/
def clocksPerMs : Nat := 1400000

/-- The state with an owner (R396, R398): its lease starts. -/
def State.setOwner (s : State) (id : Nat) : State :=
  { s with owned := true, owner := id, openWin := false, claims := [], beat := s.cycle }

/-- The state with the pending handover over (R398), its command completed, if it is still there. -/
def State.endHandover (s : State) (st : CmdStatus) (d0 : Nat) : State :=
  match s.giver with
  | none => s
  | some (c, q) =>
    let s1 : State := { s with giver := none }
    match (s.queueAt c q).busy with
    | some x => if x.op = 8 then s1.complete c q x st.code d0 0 else s1
    | none => s1

/-- OWNCLAIM (R396, R398). -/
def execOwnclaim (rid : Nat) (s : State) : Out :=
  let id := requester rid
  if s.owned then
    if s.giver.isSome && decide (id = s.target) then .next ((s.endHandover .ok 0).setOwner id)
    else .next s
  else if s.openWin then .next { s with claims := s.claims ++ [id] }
  else .next { s with openWin := true, claims := [id], winEnd := s.cycle + 14000 }

/-- OWNBEAT (R395, R397). -/
def execOwnbeat (rid : Nat) (s : State) : Out :=
  if s.isOwner rid then .next { s with beat := s.cycle } else .next s.drop

/-- The election window is over (R396). -/
def State.windowOver (s : State) : Bool := s.openWin && decide (s.winEnd ≤ s.cycle)

/-- ELECTION_WINDOW_END (R396): the claimant with the lowest requester id becomes owner. -/
def execElectionWindowEnd (s : State) : Out :=
  if s.windowOver then .next (s.setOwner ((lowest s.claims).getD 0xFFFF)) else .next s

/-- The ownership lease has run out (R397). -/
def State.leaseOver (s : State) : Bool :=
  s.owned && decide (s.leaseMs ≠ 0) && decide (s.beat + s.leaseMs * clocksPerMs ≤ s.cycle)

/-- OWNERSHIP_LAPSE (R397, R419): owned and give are cleared. -/
def execOwnershipLapse (s : State) : Out :=
  if s.leaseOver then .next { s.endHandover .handoverLapsed s.target with owned := false } else .next s

/-- OWNERSHIP (R398): it waits while another handover is pending; without an owner there is none to hand over
(R419). -/
def execOwnership (ctx q : Nat) (s : State) : Out :=
  s.command ctx q (fun op => decide (op = 8)) fun s x =>
    if s.giver.isSome then .next s
    else
      let t := fld x.ent 8 2
      if !s.owned then .next (s.complete ctx q x CmdStatus.handoverLapsed.code t 0)
      else .next { s with giver := some (ctx, q), target := t, giveEnd := s.cycle + 100 * clocksPerMs }

/-- The target of a handover has not claimed in time (R398). -/
def State.handoverOver (s : State) : Bool := s.giver.isSome && decide (s.giveEnd ≤ s.cycle)

/-- HANDOVER_LAPSED (R398). -/
def execHandoverLapsed (s : State) : Out :=
  if s.handoverOver then .next (s.endHandover .handoverLapsed s.target) else .next s

/-! ### Queue registers -/

/-- The distance from the head of a queue to a TAIL value (R399). -/
def Queue.distance (x : Queue) (v : Nat) : Nat :=
  let h := x.head % x.size
  if h ≤ v then v - h else v + x.size - h

/-- TAIL (R399, R221). -/
def execTail (ctx q master v : Nat) (s : State) : Out :=
  let x := s.queueAt ctx q
  if !s.mayControl ctx master || x.size = 0 || x.size ≤ x.distance v then .next s.drop
  else .next (s.updQueue ctx q fun x => { x with tail := v % x.size })

/-- CRHEAD (R399): a value past the last completion record written is dropped. -/
def execCrhead (ctx q master v : Nat) (s : State) : Out :=
  let x := s.queueAt ctx q
  let d := (v + x.size - x.crhead % x.size) % x.size
  if !s.mayControl ctx master || x.size ≤ v || x.written < x.crhead + d then .next s.drop
  else .next (s.updQueue ctx q fun x => { x with crhead := x.crhead + d })

/-- The launch of a context that a journal number names, with a Resident or Saved block (R399). -/
def State.launchByJournal (s : State) (ctx n : Nat) : Option Nat :=
  (s.launches.find? fun l => l.2.ctx = ctx && !l.2.complete && l.2.cmd.jrn.any (fun j => j.1 = n) &&
    s.blocks.any fun b => b.2.launch = l.1 && (decide (b.2.st = .resident) || decide (b.2.st = .saved))).map
      Prod.fst

/-- The state with a pre-emption request made of a launch (R377). -/
def State.requestLaunch (s : State) (ln : Nat) : State :=
  let q : PreReq := { deadline := s.deadline ln, source := 0 }
  { s with waves := tmap (fun _ w => if w.launch = ln then w.request q else w) s.waves }

/-- PREQ (R377, R399). -/
def execPreq (ctx master v : Nat) (s : State) : Out :=
  if !s.mayControl ctx master then .next s.drop
  else
    match s.launchByJournal ctx (v % 2 ^ 63) with
    | none => .next s
    | some ln =>
      .next ((s.requestLaunch ln).updLaunch ln fun l => { l with hold := l.hold || decide (v / 2 ^ 63 % 2 = 1) })

/-- PRELEASE (R399). -/
def execPrelease (ctx master v : Nat) (s : State) : Out :=
  if !s.mayControl ctx master then .next s.drop
  else
    match s.launches.find? fun l => l.2.ctx = ctx && l.2.cmd.jrn.any fun j => j.1 = v with
    | none => .next s
    | some l => .next (s.updLaunch l.1 fun l => { l with hold := false })

/-- The confidential context of a TDI (R414). -/
def State.ctxOfTdi (s : State) (tdi : Nat) : Option Nat :=
  (s.ctxs.find? fun c => c.2.conf && decide (c.2.tdi = tdi) && !s.dying.contains c.1).map Prod.fst

end Sys2Proof.Machine
end

