-- ==== Sys2Proof/Machine/Admin.lean ====
section
/-! DEFINITION. Administration (spec/17_host.md R407 to R418): contexts, quorum entries, keys, TLB
invalidation, storage leases and their revocation, attestation and SPDM. The operands of a request are 64-bit
numbers from byte 8 on; the addresses among them are addresses in HBM4 (log 16). -/

namespace Sys2Proof.Machine

/-! ### Requests -/

/-- The result codes of R407. -/
inductive AdmRes where
  | ok | badOperand | ctxBusy | tdiState | quorumBusy | slotBusy | confidential | leaseBusy
  deriving DecidableEq, Repr

/-- The number of a result (R407). -/
def AdmRes.code : AdmRes → Nat
  | .ok => 0 | .badOperand => 1 | .ctxBusy => 2 | .tdiState => 3 | .quorumBusy => 4 | .slotBusy => 5
  | .confidential => 6 | .leaseBusy => 7

/-- The op of the request at hand: byte 0. -/
def State.admOp (s : State) : Nat := (tget s.admNow 0 0).toNat % 256

/-- Operand `i` of the request at hand. -/
def State.admArg (s : State) (i : Nat) : Nat :=
  (pairOf (tget s.admNow (2 + 2 * i) 0) (tget s.admNow (3 + 2 * i) 0)).toNat

/-- The state with the request at hand ended. -/
def State.admEnd (s : State) (r : AdmRes) : State := { s with admBusy := false, admRes := r.code }

/-- A request of an op at hand; otherwise nothing happens. -/
def State.admDo (s : State) (op : Nat) (k : Out) : Out :=
  if s.admBusy && decide (s.admOp = op) then k else .next s

/-- A request of an op on a context that exists and is not being destroyed: operand 0. -/
def State.admCtx (s : State) (op : Nat) (k : Nat → Ctx → Out) : Out :=
  s.admDo op
    (match tfind? s.ctxs (s.admArg 0) with
     | some c => if s.dying.contains (s.admArg 0) then .next (s.admEnd .badOperand) else k (s.admArg 0) c
     | none => .next (s.admEnd .badOperand))

/-- Bytes of HBM4 that a request names; none where they do not exist. -/
def State.deviceBytes (s : State) (a n : Nat) : Option (List Byte) :=
  if exists? 0 a n then some (s.readTier 0 a n) else none

/-! ### Contexts -/

/-- A context descriptor within its ranges (R408): page-aligned tables and ring, 20-bit PASID, at most 16
ranks, reserved bytes zero. -/
def descriptorOk (d : List Byte) : Bool :=
  decide (fld d 0 8 % 4096 = 0) && decide (fld d 8 4 < 2 ^ 20) && decide (fld d 14 1 < 4) &&
    decide (fld d 15 1 < 64) && decide (fld d 24 8 % 4096 = 0) && decide (fld d 32 4 % 4096 = 0) &&
    decide (4096 ≤ fld d 32 4) && decide (fld d 36 1 < fld d 37 1) && decide (fld d 37 1 ≤ 16) &&
    decide (fld d 38 26 = 0)

/-- The quorum table of a context from its 256 words (R309); entry 255 stays empty (R24). -/
def quorumTable (bs : List Byte) : Tbl Quorum :=
  (List.range 255).filterMap fun i =>
    let w := fld bs (8 * i) 8
    if w = 0 then none else some (i, { word := BitVec.ofNat 64 w })

/-- The context that a descriptor makes (R408). -/
def makeCtx (d quorums : List Byte) (fresh : Nat) : Ctx :=
  { ptbase := BitVec.ofNat 64 (fld d 0 8), pasid := fld d 8 4, submitter := fld d 12 2
    conf := decide (fld d 14 1 % 2 = 1), debug := decide (fld d 14 1 / 2 = 1), tdi := fld d 15 1
    quorums := quorumTable quorums, evBase := BitVec.ofNat 64 (fld d 24 8), evSize := fld d 32 4
    rank := fld d 36 1, jobSize := fld d 37 1, desc := d
    policy := (Config.freeValue fresh).getLsbD 0, services := Config.services fresh
    imgKey := (List.range 32).map fun i => (Config.freeByte (fresh + i)).toNat }

/-- The state of a TDI; before any TDISP request it is unlocked (log 40). -/
def State.tdiAt (s : State) (tdi : Nat) : TdiState := tget s.tdis tdi .unlocked

/-- The state in which a context has joined a job (R436, R444): a peer that no other job here has counts as heard now, and
as lost no longer. -/
def State.join (s : State) (c : Nat) (x : Ctx) : State :=
  let new := x.peers.filter fun r => s.ctxs.all fun y => y.1 = c || !y.2.peers.contains r
  { s with
    ctxs := tset s.ctxs c x, lostRanks := s.lostRanks.filter fun r => !new.contains r
    heard := new.foldl (fun t r => tset t r s.cycle) s.heard }

/-- CREATE (R407, R408, R414). -/
def execCreate (s : State) : Out :=
  s.admDo 1
    (let c := s.admArg 0
     if 64 ≤ c then .next (s.admEnd .badOperand)
     else if (tfind? s.ctxs c).isSome then .next (s.admEnd .ctxBusy)
     else
       match s.deviceBytes (s.admArg 1) 64 with
       | none => .next (s.admEnd .badOperand)
       | some d =>
         match s.deviceBytes (fld d 16 8) 2048 with
         | none => .next (s.admEnd .badOperand)
         | some q =>
           if !descriptorOk d then .next (s.admEnd .badOperand)
           else if fld d 14 1 % 2 = 1 && decide (s.tdiAt (fld d 15 1) ≠ .run) then .next (s.admEnd .tdiState)
           else
             let s0 : State := { s with fresh := s.fresh + 32 }
             let s1 := s0.join c (makeCtx d q s.fresh)
             .next ((s1.hostWrite c (fld d 24 8) (leBytes 64 0)).admEnd .ok))

/-! ### Revocations of leases -/

/-- A storage command that a revocation covers (R412). -/
def Revocation.covers (v : Revocation) (x : StorageCmd) : Bool :=
  decide (x.ctx = v.ctx) && decide (x.lease = v.lease) && rangesMeet v.first v.count x.first x.count

/-- A lease without a range: cut before it when the range reaches its end (R412). -/
def Lease.cut (l : Lease) (v : Revocation) : Lease :=
  if l.first + l.count ≤ v.first + v.count && decide (v.first < l.first + l.count) then
    { l with count := v.first - l.first }
  else l

/-- The state with a revocation ended (R412): its REVOKE completes, a LEASE_REVOKED report is written. -/
def State.endRevoke (s : State) (v : Revocation) : State :=
  let l := (tfind? (s.ctxAt v.ctx).leases v.lease).map fun l => l.cut v
  let s1 := s.updCtx v.ctx fun c =>
    match l with
    | none => c
    | some l => { c with leases := if l.count = 0 then terase c.leases v.lease else tset c.leases v.lease l }
  let s2 : State := { s1 with revokes := s1.revokes.map fun x => if x = v then { x with phase := 3 } else x }
  if v.adm then (s2.report v.ctx { type := 5, detail := v.lease }).admEnd .ok else s2

/-- The state with every revocation ended that no command is left of (R412). -/
def State.settleRevokes (s : State) : State :=
  (s.revokes.filter fun v => v.phase < 3 && !s.storage.any v.covers).foldl State.endRevoke s

/-! ### The destruction of contexts -/

/-- The blocks of a launch that have left neither by retiring nor by removal. -/
def State.liveBlocks (s : State) (ln : Nat) : List Nat :=
  (s.blocks.filter fun b => b.2.launch = ln &&
    (decide (b.2.st = .resident) || decide (b.2.st = .saved))).map Prod.fst

/-- The state with the quorums poisoned of which a wave of a Pending block is a member that is lost with it (R321). -/
def State.losePending (s : State) (ln : Nat) : State :=
  let l := s.launchAt ln
  let ps := s.pendingBlocks ln
  let qs := (l.quors.filter fun x => ps.any fun b => (List.range l.n).any fun i =>
    decide (l.slotByteOf x.1 (l.linearWave b i) ≠ 255)).map fun x => x.2.1
  qs.foldl (fun s q => s.poisonQuorum l.ctx q (s.pendingIdent l) 0) s

/-- The state with a launch's blocks removed, Pending ones too (R407): the launch is ABORTED, and in ORDERED mode the
Pending ones break its sequence as the others do (R331). -/
def State.killLaunch (s : State) (ln : Nat) : State :=
  let l := s.launchAt ln
  if l.complete then s
  else
    let s1 := (s.liveBlocks ln).foldl (fun s bk =>
      s.removeBlock bk (((s.blockAt bk).waveKeys.find? fun k => (s.waveAt k).alive).getD 0) 0) s
    let pending := s1.pendingBlocks ln
    let s2 := (s1.losePending ln).updLaunch ln fun l =>
      { l with
        nretired := l.nretired + (l.blocks - l.nplaced), nplaced := l.blocks, aborted := true
        broken := if l.ordered then l.broken ++ pending else l.broken }
    ({ s2 with blocks := tmap (fun _ b =>
        if b.launch = ln && decide (b.st = .pending) then { b with st := .removed } else b) s2.blocks } :
          State).endReserve ln

/-- The state with the bytes of every block image of a context erased (R362). -/
def State.eraseImages (s : State) (c : Nat) : State :=
  (s.ctxAt c).images.foldl (fun s x => s.hostWrite c x.1 (List.replicate x.2 0)) (s.updCtx c fun x => { x with images := [] })

/-- The state with the destruction of a context begun (R362, R407, R419): blocks removed, their images erased, every lease
revoked. -/
def State.beginDestroy (s : State) (c : Nat) : State :=
  let ls := (s.launches.filter fun l => l.2.ctx = c).map Prod.fst
  let s1 := (ls.foldl State.killLaunch s).eraseImages c
  let rs := (s.ctxAt c).leases.map fun l =>
    ({ ctx := c, lease := l.1, first := l.2.first, count := l.2.count, since := s.cycle } : Revocation)
  ({ s1 with dying := s1.dying ++ [c], revokes := s1.revokes ++ rs } : State).settleRevokes

/-- What a destruction waits for is over (R362, R419): every launch complete, no block on a core, every
revocation ended, every write of the context done. -/
def State.destroyed (s : State) (c : Nat) : Bool :=
  (s.launches.all fun l => l.2.ctx ≠ c || l.2.complete) &&
    (s.blocks.all fun b => (s.launchAt b.2.launch).ctx ≠ c || b.2.cores.isEmpty) &&
    (s.revokes.all fun v => v.ctx ≠ c || v.phase = 3) && (s.storage.all fun x => x.ctx ≠ c) && !s.posting c

/-- The state without a context and what is tagged with it (R362). -/
def State.endDestroy (s : State) (c : Nat) : State :=
  let ls := (s.launches.filter fun l => l.2.ctx = c).map Prod.fst
  { s with
    ctxs := terase s.ctxs c, dying := s.dying.filter fun x => x ≠ c
    launches := s.launches.filter fun l => !ls.contains l.1
    blocks := s.blocks.filter fun b => !ls.contains b.2.launch
    waves := s.waves.filter fun w => !ls.contains w.2.launch
    tags := s.tags.filter fun t => t.1 / 2 ^ 64 ≠ c
    tlb := s.tlb.filter fun t => t.ctx ≠ c
    frb := s.frb.filter fun t => t.ctx ≠ c
    shoot := s.shoot.filter fun t => t.ctx ≠ c
    revokes := s.revokes.filter fun v => v.ctx ≠ c
    transfers := s.transfers.filter fun t => t.ctx ≠ c
    reserved := s.reserved.filter fun r => r.ctx ≠ c
    waitReqs := s.waitReqs.filter fun r => r.ctx ≠ c
    waitContrs := s.waitContrs.filter fun r => r.ctx ≠ c
    votes := s.votes.filter fun v => v.ctx ≠ c
    results := s.results.filter fun v => (s.launchAt (s.waveAt v.1).launch).ctx ≠ c }

/-- DESTROY (R407, R362): it begins, and is OK when nothing of the context is left. -/
def execDestroy (s : State) : Out :=
  s.admDo 2
    (let c := s.admArg 0
     if (tfind? s.ctxs c).isNone then .next (s.admEnd .badOperand)
     else if !s.dying.contains c then .next (s.beginDestroy c)
     else if s.destroyed c then .next ((s.endDestroy c).admEnd .ok)
     else .next s)

/-- TDI_ERROR (R414): the TDI is in ERROR; its context is destroyed as by DESTROY, with a report. -/
def execTdiError (tdi : Nat) (s : State) : Out :=
  let s1 : State := { s with tdis := tset s.tdis tdi .error }
  match s.ctxs.find? fun c => c.2.conf && decide (c.2.tdi = tdi) with
  | none => .next s1
  | some c =>
    if s.tdiAt tdi ≠ .error then
      .next ((if s.dying.contains c.1 then s1 else s1.beginDestroy c.1).report c.1 { type := 6 })
    else if s.dying.contains c.1 && s.destroyed c.1 then .next (s.endDestroy c.1)
    else .next s1

/-- A TDISP request brings a TDI to a state (R414). -/
def State.tdisp (s : State) (tdi : Nat) (st : TdiState) : Out :=
  match st with
  | .error => execTdiError tdi s
  | .unlocked | .locked | .run => .next { s with tdis := tset s.tdis tdi st }

/-! ### Quorum entries, keys, TLBs -/

/-- QWRITE (R309, R310). -/
def execQwrite (s : State) : Out :=
  s.admCtx 3 fun c x =>
    let e := s.admArg 1
    let v := s.admArg 2
    let q : Quorum := { word := BitVec.ofNat 64 v }
    if 255 ≤ e || 2 ^ 42 ≤ v || 196608 < q.members || x.jobSize ≤ q.home then .next (s.admEnd .badOperand)
    else if s.launches.any fun l => l.2.ctx = c && !l.2.complete && l.2.quors.any fun b => b.2.1 = e then
      .next (s.admEnd .quorumBusy)
    else .next ((s.updCtx c fun x => { x with quorums := tset x.quorums e q }).admEnd .ok)

/-- The result of installing a key in a slot (R409). -/
def Ctx.keyResult (c : Ctx) (slot rsalt ssalt : Nat) : AdmRes :=
  if 32 ≤ slot || 2 ^ 32 ≤ rsalt || 2 ^ 32 ≤ ssalt || rsalt = ssalt then .badOperand
  else if (tfind? c.keys slot).isSome then .slotBusy
  else .ok

/-- The state with a key installed (R409): both counters are 0. -/
def State.installKey (s : State) (c slot : Nat) (key : List Nat) (rsalt ssalt : Nat) : State :=
  s.updCtx c fun x => { x with keys := tset x.keys slot { key := key, rsalt := rsalt, ssalt := ssalt } }

/-- KEYSET (R407, R409). -/
def execKeyset (s : State) : Out :=
  s.admCtx 4 fun c x =>
    if x.conf then .next (s.admEnd .confidential)
    else
      match x.keyResult (s.admArg 1) (s.admArg 3) (s.admArg 4), s.deviceBytes (s.admArg 2) 32 with
      | .ok, some key =>
        .next ((s.installKey c (s.admArg 1) (natBytes key) (s.admArg 3) (s.admArg 4)).admEnd .ok)
      | .ok, none => .next (s.admEnd .badOperand)
      | r, _ => .next (s.admEnd r)

/-- A copy of a context that uses a key slot is in flight (R407, R419). -/
def State.keyInUse (s : State) (c slot : Nat) : Bool :=
  s.cores.any fun x => x.2.copyq.any fun e =>
    e.2.busy && e.2.crypts && decide (e.2.slot = slot) &&
      decide ((s.launchAt (s.blockAt e.2.blk).launch).ctx = c)

/-- KEYCLR (R407, R419): copies that hold the slot finish first, later ones find it empty. -/
def execKeyclr (s : State) : Out :=
  s.admCtx 5 fun c _ =>
    let slot := s.admArg 1
    if 32 ≤ slot then .next (s.admEnd .badOperand)
    else if s.keyInUse c slot then
      .next (s.updCtx c fun x =>
        { x with keys := tmap (fun k y => if k = slot then { y with closing := true } else y) x.keys })
    else .next ((s.updCtx c fun x => { x with keys := terase x.keys slot }).admEnd .ok)

/-- TLBINV (R368): no later access uses an entry for the range. -/
def execTlbinv (s : State) : Out :=
  s.admCtx 6 fun c _ =>
    let base := s.admArg 1
    let n := s.admArg 2
    .next (({ s with tlb := s.tlb.filter fun t =>
      !(t.ctx = c && t.host.isNone && decide (t.page * 2 ^ t.shift < base + n) && decide (base < (t.page + 1) * 2 ^ t.shift)) } :
        State).admEnd .ok)

/-! ### Storage leases -/

/-- LEASE (R411): what has been revoked of an earlier lease of the index binds the new one no more. -/
def execLease (s : State) : Out :=
  s.admCtx 7 fun c x =>
    let i := s.admArg 1
    if 64 ≤ i || 8 ≤ s.admArg 2 || 4 ≤ s.admArg 6 then .next (s.admEnd .badOperand)
    else if (tfind? x.leases i).isSome then .next (s.admEnd .leaseBusy)
    else
      let l : Lease :=
        { drive := s.admArg 2, nsid := s.admArg 3, first := s.admArg 4, count := s.admArg 5, rights := s.admArg 6 }
      let s1 : State := { s with revokes := s.revokes.filter fun v => !(v.ctx = c && v.lease = i && v.phase = 3) }
      .next ((s1.updCtx c fun x => { x with leases := tset x.leases i l }).admEnd .ok)

/-- REVOKE (R412): new commands on the range are refused from its arrival on, which is when its times start. One that
waits for its commands goes on, whatever becomes of its context (R419). -/
def execRevoke (s : State) : Out :=
  if s.revokes.any fun r => r.adm && decide (r.phase < 3) then .next s
  else
    s.admCtx 8 fun c x =>
      let v : Revocation :=
        { ctx := c, lease := s.admArg 1, first := s.admArg 2, count := s.admArg 3, since := s.admAt, adm := true }
      if (tfind? x.leases v.lease).isNone then .next (s.admEnd .badOperand)
      else .next ({ s with revokes := s.revokes ++ [v] } : State).settleRevokes

/-- A revocation is due for its aborts: 50 ms (R412). -/
def Revocation.abortDue (v : Revocation) (cycle : Nat) : Bool :=
  decide (v.phase = 0) && decide (v.since + 50 * clocksPerMs ≤ cycle)

/-- A revocation is due for the reset of its controller: 1.05 s (R412). -/
def Revocation.resetDue (v : Revocation) (cycle : Nat) : Bool :=
  decide (v.phase = 1) && decide (v.since + 1050 * clocksPerMs ≤ cycle)

/-- REVOKE_ABORT (R412): NVMe Abort is sent for each command that remains. -/
def execRevokeAbort (i : Nat) (s : State) : Out :=
  match s.revokes[i]? with
  | none => .next s
  | some v =>
    if !v.abortDue s.cycle then .next s
    else
      let out := (s.storage.filter v.covers).map fun x => Outgoing.message .driveAbort [x.drive, x.wave, x.lane]
      .next { s with
        revokes := s.revokes.set i { v with phase := 1 }
        storage := s.storage.map fun x => if v.covers x then { x with aborted := true } else x
        outbox := s.outbox ++ out }

/-- The state with a storage command ended: the lane's status and blocks wait for the reply (R413). -/
def State.endStorage (s : State) (x : StorageCmd) (status blocks : Nat) : State :=
  let s1 : State := { s with storage := s.storage.erase x }
  s1.updWave x.wave fun w => if w.sysWait.isSome then { w with sysRes := w.sysRes ++ [(x.lane, status, blocks)] } else w

/-- REVOKE_CONTROLLER_RESET (R412): every command on the attach point ends with EXTENT_REVOKED. -/
def execRevokeControllerReset (i : Nat) (s : State) : Out :=
  match s.revokes[i]? with
  | none => .next s
  | some v =>
    if !v.resetDue s.cycle then .next s
    else
      let drives := ((s.storage.filter v.covers).map StorageCmd.drive).eraseDups
      let s1 : State := { s with
        revokes := s.revokes.set i { v with phase := 2 }
        outbox := s.outbox ++ drives.map fun d => Outgoing.message .driveReset [d] }
      .next ((s.storage.filter fun x => drives.contains x.drive).foldl (fun s x => s.endStorage x 2 0) s1).settleRevokes

/-- STORAGE_COMPLETION (R412, R413): a Read's data goes to its buffer as the host party writes; a command that a
revocation aborted ends with EXTENT_REVOKED and delivers nothing. -/
def execStorageCompletion (w lane status blocks : Nat) (data : List Nat) (s : State) : Out :=
  match s.storage.find? fun x => x.wave = w && decide (x.lane = lane) with
  | none => .next s
  | some x =>
    if x.aborted then .next (s.endStorage x 2 0).settleRevokes
    else if status ≠ 0 then .next (s.endStorage x (3 + status % 2 ^ 16 * 2 ^ 16) blocks).settleRevokes
    else
      let s1 := if x.write then s
        else s.hostWrite x.ctx x.addr ((byteList data).take (x.count * Config.blockBytes x.drive x.nsid))
      .next (s1.endStorage x 0 blocks).settleRevokes

/-! ### Attestation and SPDM -/

/-- The first 256 bytes of a context's attestation report (R417). -/
def State.reportBody (s : State) (ctx : Nat) (nonce : List Byte) : List Byte :=
  let c := s.ctxAt ctx
  byteList [0x44, 0x52, 0x41, 0x54] ++ leBytes 2 1 ++ leBytes 2 (Bool.toNat c.debug + 2 * c.conf.toNat) ++
    leBytes 1 ctx ++ leBytes 1 c.tdi ++ leBytes 1 c.rank ++ leBytes 1 c.jobSize ++ leBytes 4 0 ++
    byteList ((List.range 16).map fun i => Config.serial.getD i 0) ++ byteList (sha384 s.firmware) ++
    byteList (sha384 Config.bootRom) ++ nonce ++ byteList (sha384 (natBytes c.desc)) ++ leBytes 48 0

/-- A report with its two signatures, 16,864 bytes (R416, R417). -/
def State.attestation (s : State) (ctx : Nat) (nonce : List Byte) : List Byte :=
  let b := s.reportBody ctx nonce
  let sig := Config.signatures (natBytes b)
  b ++ byteList ((List.range 16608).map fun i => sig.getD i 0)

/-- ATTEST (R417). -/
def execAttest (s : State) : Out :=
  s.admCtx 9 fun c _ =>
    match s.deviceBytes (s.admArg 1) 32 with
    | none => .next (s.admEnd .badOperand)
    | some nonce =>
      if !exists? 0 (s.admArg 2) 16864 then .next (s.admEnd .badOperand)
      else .next ((s.writeDevice (s.admArg 2) (s.attestation c nonce)).admEnd .ok)

/-- The state with an answer to an SPDM request. -/
def State.spdmReply (s : State) (xs : List Nat) : State := { s with outbox := s.outbox ++ [.message .spdm xs] }

/-- SPDM_MESSAGE (R409, R416, R417): a key for the context of a TDI, a measurement, a certificate chain. -/
def execSpdmMessage (m : SpdmMsg) (s : State) : Out :=
  match m with
  | .certificate slot => .next (s.spdmReply (Config.certificate slot))
  | .measure tdi nonce =>
    match s.ctxOfTdi tdi with
    | none => .next (s.spdmReply [AdmRes.badOperand.code])
    | some c =>
      .next (s.spdmReply (natBytes (s.attestation c (byteList ((List.range 32).map fun i => nonce.getD i 0)))))
  | .keyInstall tdi slot key rsalt ssalt =>
    match s.ctxOfTdi tdi with
    | none => .next (s.spdmReply [AdmRes.badOperand.code])
    | some c =>
      let r := if key.length = 32 then (s.ctxAt c).keyResult slot rsalt ssalt else .badOperand
      .next ((if r = .ok then s.installKey c slot key rsalt ssalt else s).spdmReply [r.code])

end Sys2Proof.Machine
end

