-- ==== Sys2Proof/Machine/Attic.lean ====
section
/-! DEFINITION. Stamping gates and replay (spec/20_replay.md R448 to R457), and stopping, scanning and restarting
(R460 to R464). -/

namespace Sys2Proof.Machine

/-! ### Gates -/

/-- The gate of a master's access: the management interface for the board management controller, else PCI Express (R396,
R448). -/
def masterGate (m : Nat) : Nat := if requester m = 0xFFFF then 27 else 0

/-- The gate of an operation or event that arrives (R448), at a fabric port or an attach point; none for what does not come
from outside the domain. -/
def eventGate (port : Nat) : Instr → Option Nat
  | .ownclaim m | .ownbeat m => some (masterGate m)
  | .tail .. | .crhead .. | .preq .. | .prelease .. | .spdmMessage .. | .tdiError ..
  | .priResponse .. | .atsInvalidation .. | .halt .. | .resume .. | .step .. | .readRegister .. | .writeRegister ..
  | .readAtticSections .. => some 0
  | .arrival .. | .remoteRequest .. | .reduceContribution .. | .voteArrival .. | .voteResult ..
  | .loadComplete _ (some _) _ | .storePerformed ⟨_, some _⟩ | .departureFlit .. | .alignmentReply .. | .alignmentResult ..
  | .heartbeat (some _) | .shootdown .. | .linkDown .. => some (1 + port % 16)
  | .linkReplay p | .portDown p => some (1 + p % 16)
  | .ethernetFrame p _ => some (17 + p % 2)
  | .storageCompletion .. => some (19 + port % 8)
  | .registerWrite m page _ _ => some (if page = 3 then 27 else masterGate m)
  | .thrctl .. | .firmwareUpdate .. => some 27
  | .refreshRateChange .. => some 28
  | .uncorrectableError .. | .matrixHang .. | .matrixSelfTest .. | .matrixResetDone .. => some 29
  | _ => none

/-- The gate of an arrival (R448); a corrected error passes none, nor does what a host does to its own memory. -/
def gateOf (port : Nat) : Arrival → Option Nat
  | .event i => eventGate port i
  | .answer _ => some (1 + port % 16)
  | .read .. | .translation .. | .priGrant _ | .tdisp .. | .completion .. => some 0
  | .throttle _ => some 27
  | .corrected _ | .hostStore .. => none

/-- Registers that stay live in a REPLAY session and a freeze, as controls outside the domain (R455, R463, R483): the
replay registers, the recovery page, the management interface's RSTREQ. -/
def liveRegister (page off : Nat) : Bool :=
  (decide (page = 1) && decide (0x100 ≤ off) && decide (off < 0x150)) || decide (page = 2) ||
    (decide (page = 3) && decide (off = 0x10))

/-- Controls outside the domain (R455, R469, R480 to R484): the replay registers, resets, the recovery fetch, what the
module controller measures, and reads of the management interface. -/
def isControl : Arrival → Bool
  | .event (.stopctl ..) | .event (.coldReset ..) | .event (.packageReset ..) | .event .thermalPowerRemoval
  | .event (.powerMeasurement ..) | .event (.rcvgo ..) | .event (.recoveryFetchEnd ..) => true
  | .event (.registerWrite _ page off _) => liveRegister page off
  | .read _ _ page off _ => liveRegister page off || decide (page = 3)
  | _ => false

/-- A posted write of a host, which a REPLAY session drops and counts (R455). -/
def isPosted : Instr → Bool
  | .tail .. | .crhead .. | .preq .. | .prelease .. | .ownclaim .. | .ownbeat .. | .halt .. | .resume .. | .step ..
  | .readRegister .. | .writeRegister .. | .readAtticSections .. => true
  | .registerWrite _ page _ _ => decide (page ≠ 3)
  | _ => false

/-- The context on whose IDE stream a master's access comes (R414). -/
def State.streamCtx (s : State) (m : Nat) : Option Nat :=
  if m / 2 ^ 16 % 2 ^ 16 = 0 then none else s.ctxOfTdi (m / 2 ^ 16 % 2 ^ 16 - 1)

/-- The context of a master's access to a page: that of the control page, else that of the stream (R454). -/
def State.pageCtx (s : State) (m page : Nat) : Option Nat := if 64 ≤ page then some (page - 64) else s.streamCtx m

/-- The context whose traffic an operation or event is (R453, R454). -/
def State.eventCtx (s : State) : Instr → Option Nat
  | .tail c _ _ _ | .crhead c _ _ _ | .preq c _ _ | .prelease c _ _ | .halt c _ _ | .resume c _ _ | .step c _ _ _
  | .readRegister c _ _ _ | .writeRegister c _ _ _ | .readAtticSections c _ _ | .priResponse c _ _ _
  | .arrival c _ _ _ _ _ | .shootdown c _ _ | .voteResult _ ⟨c, _⟩ _ => some c
  | .registerWrite m page _ _ => s.pageCtx m page
  | .ownclaim m | .ownbeat m => s.streamCtx m
  | .tdiError tdi => s.ctxOfTdi tdi
  | .remoteRequest r => some r.ctx
  | .reduceContribution c => some c.ctx
  | .voteArrival v => some v.ctx
  | .loadComplete w _ _ | .storePerformed ⟨w, _⟩ | .storageCompletion w _ _ _ _ =>
    some (s.launchAt (s.waveAt w).launch).ctx
  | .atsInvalidation p _ _ => (s.ctxs.find? fun c => decide (c.2.pasid = p)).map Prod.fst
  | _ => none

/-- The wave of an identity word (R375). -/
def State.waveOf (s : State) (ident : Nat) : Option (Nat × Wave) := s.waves.find? fun w => decide (w.2.ident.toNat = ident)

/-- The context whose traffic an arrival is (R453, R454). -/
def State.arrivalCtx (s : State) : Arrival → Option Nat
  | .event i => s.eventCtx i
  | .answer a => (s.waveOf a.ident).map fun w => (s.launchAt w.2.launch).ctx
  | .read _ m page _ _ => s.pageCtx m page
  | .completion c _ _ => some c
  | .translation c _ _ _ _ => some c
  | .tdisp tdi _ => s.ctxOfTdi tdi
  | .priGrant _ | .throttle _ | .hostStore .. | .corrected _ => none

/-- The rank that a flit comes from (R436). -/
def State.flitRank (s : State) : Arrival → Option Nat
  | .answer a => some a.rank
  | .event (.loadComplete _ (some a) _) | .event (.storePerformed ⟨_, some a⟩) => some a.rank
  | .event (.arrival _ _ ident _ _ _) => some (ident / 2 ^ 28 % 16)
  | .event (.remoteRequest r) => some (r.ident / 2 ^ 28 % 16)
  | .event (.reduceContribution c) => some c.rank
  | .event (.voteArrival v) => some (v.member % 2 ^ 32 / 2 ^ 28)
  | .event (.voteResult _ q _) => some (s.quorumAt q.ctx q.entry).home
  | .event (.heartbeat (some r)) | .event (.departureFlit r) | .event (.alignmentReply r _) => some r
  | .event (.alignmentResult ..) => some 0
  | _ => none

/-- The state with a flit's rank heard (R436). -/
def State.noteFlit (s : State) (a : Arrival) : State :=
  match s.flitRank a with
  | none => s
  | some r => { s with heard := tset s.heard r s.cycle }

/-! ### Recording -/

/-- The state with the payload of an arrival in its confidential context's log (R454), encrypted under slot 0, with the
address there, the counter and the bytes; none when the slot is empty or the log full. -/
def State.clog (s : State) (c : Nat) (payload : List Byte) : Option (State × Nat × Nat × List Byte) :=
  let x := s.ctxAt c
  match tfind? x.keys 0 with
  | none => none
  | some k =>
    let y := gcmSeal k.key (gcmIv k.ssalt k.send) (natBytes payload)
    let bs := byteList (y.1 ++ y.2)
    let at_ := x.clogbase.toNat + x.clogused
    if x.clogsize < x.clogused + bs.length then none
    else
      some ((s.hostWrite c at_ bs).updCtx c fun x =>
        { x with clogused := x.clogused + bs.length, keys := tset x.keys 0 { k with send := k.send + 1 } }, at_, k.send, bs)

/-- The state with an arrival in the log (R452 to R454). -/
def State.logArrival (s : State) (port : Nat) (a : Arrival) (gate : Nat) : State :=
  let c := s.arrivalCtx a
  let e : LogEntry := { cycle := s.cycle, gate := gate, ctx := c.getD noCtx, body := .arrival port a }
  match c.filter fun c => (s.ctxAt c).conf with
  | none => s.appendLog e
  | some c =>
    match s.clog c a.payload with
    | some y => y.1.appendLog { e with held := some y.2 }
    | none => ({ s with rep := { s.rep with lost := true } } : State).appendLog { e with body := .lost }

/-- An internal event is in the log at this cycle (R457). -/
def Replay.logs (rp : Replay) (a : Arrival) (cycle : Nat) : Bool :=
  rp.log.entries.any fun e =>
    match e.body with
    | .arrival _ b => decide (e.cycle = cycle) && decide (b = a)
    | .lost | .host _ _ | .marker _ _ | .check _ _ _ => false

/-- What a REPLAY session makes of a live arrival (R455): a read ends with Unsupported Request, a posted write is dropped
and counted, and nothing of either, nor of another, enters the domain. -/
def State.turnAway (s : State) : Arrival → State
  | .read id _ _ _ _ => { s with outbox := s.outbox ++ [.completion id none] }
  | .event i => if isPosted i then s.drop else s
  | _ => s

/-- A store of the host to its own memory: a RECORD session notes it, and in a REPLAY session what the package reads does
not show it (log 60). -/
def State.takeStore (s : State) (addr : Nat) (bs : List Nat) : State × Bool :=
  if s.rep.mode = 1 then
    (s.appendLog { cycle := s.cycle, gate := 0, ctx := noCtx, body := .host addr bs }, true)
  else if s.rep.mode = 2 then
    ({ s with hostLive := s.hostLive.map fun m => Memory.writeList m addr (toBytes bs) }, false)
  else (s, true)

/-- Whether what comes next from outside is delivered, and the state before it (R449, R452, R455, R457). -/
def State.takeIn (s : State) (port : Nat) (a : Arrival) : State × Bool :=
  if isControl a then (s, true)
  else match gateOf port a with
  | none =>
    match a with
    | .corrected _ => (s, true)
    | .hostStore addr bs => s.takeStore addr bs
    | _ => (s, false)
  | some g =>
    if s.rep.mode = 1 then (s.logArrival port a g, true)
    else if s.rep.mode = 2 then
      if g = 29 then
        if s.rep.logs a s.cycle then (s, false) else (s.endReplay 3, true)
      else (s.turnAway a, false)
    else (s, true)

/-! ### Replaying -/

/-- What an entry of a log delivers, with its port. -/
def LogEntry.delivers (e : LogEntry) : Option (Nat × Arrival) :=
  match e.body with
  | .arrival port a => some (port, a)
  | .host addr bs => some (0, .hostStore addr bs)
  | .lost | .marker _ _ | .check _ _ _ => none

/-- The entries of a log that can be delivered, with port and arrival. -/
def SessionLog.arrivals (x : SessionLog) : List (LogEntry × Nat × Arrival) :=
  x.entries.filterMap fun e => e.delivers.map fun a => (e, a)

/-- Bytes of a log before its `n`-th arrival. -/
def offsetIn : Nat → List LogEntry → Nat
  | _, [] => 0
  | n, e :: es =>
    match e.delivers with
    | some _ => match n with | 0 => 0 | k + 1 => e.bytes.length + offsetIn k es
    | none => e.bytes.length + offsetIn n es

/-- The log offset of the next arrival to deliver (R462). -/
def Replay.offset (rp : Replay) : Nat := if rp.mode = 2 then offsetIn rp.next rp.log.entries else rp.used

/-- The next logged arrival is due, or none is left (R455, R457). -/
def State.loggedDue (s : State) : Bool :=
  decide (s.rep.mode = 2) && (s.rep.log.arrivals[s.rep.next]?).all fun x => decide (x.1.cycle ≤ s.cycle)

/-- A payload that a context's log holds, read back with the recorded counter (R455): its bytes there open under the key
that the slot holds, they are in the log again, and the context's counter stands after it as it did. One that does not
open is not delivered (log 60). -/
def State.readBack (s : State) (e : LogEntry) (a : Arrival) : Option State :=
  match e.held with
  | none => some s
  | some (at_, counter, bs) =>
    let n := a.payload.length
    match tfind? (s.ctxAt e.ctx).keys 0 with
    | none => none
    | some k =>
      let xs := natBytes bs
      if gcmOpen k.key (gcmIv k.ssalt counter) (xs.take n) (xs.drop n) = some (natBytes a.payload) then
        some ((s.hostWrite e.ctx at_ bs).updCtx e.ctx fun x =>
          { x with clogused := x.clogused + bs.length, keys := tset x.keys 0 { k with send := counter + 1 } })
      else none

/-- LOGGED_ARRIVAL_DELIVERY (R455, R457): the next logged arrival is admitted; the last ends the session with cause
1. -/
def execLoggedArrivalDelivery (s : State) : Out :=
  if !s.loggedDue then .next s
  else match s.rep.log.arrivals[s.rep.next]? with
  | none => .next (s.endReplay 1)
  | some (e, _, a) =>
    let n := s.rep.next + 1
    let rp := { s.rep with next := n, used := offsetIn n s.rep.log.entries }
    let s1 : State := { s with rep := rp }
    let last := fun (s : State) => if n < rp.log.arrivals.length then s else s.endReplay 1
    match s1.readBack e a with
    | some s2 => .next (last { s2 with admitted := s2.admitted ++ [a] })
    | none => .next (last s1)

/-- What a RECORD session has logged so far of arrivals, and of check entries and markers by wave (R458, R456): where a
replay from an image scanned now begins. -/
def SessionLog.place (x : SessionLog) : Nat × Tbl Nat :=
  (x.arrivals.length, x.entries.foldl (fun t e =>
    match e.body with
    | .arrival _ _ | .host _ _ | .lost => t
    | .marker _ _ => tset t markerKey (tget t markerKey 0 + 1)
    | .check i _ _ => tset t i (tget t i 0 + 1)) [])

/-- The place in the log at which the package stands (R462). -/
def Replay.place (rp : Replay) : Nat × Tbl Nat := if rp.mode = 1 then rp.log.place else (rp.next, rp.taken)

/-- A log covers a start point (R452): its session began there, or the image that is restarted was scanned during it; with
the place where the replay begins and the host's memory as it stood there (log 60). -/
def SessionLog.covers (x : SessionLog) (image : Option Image) : Option ((Nat × Tbl Nat) × Memory) :=
  match image with
  | none => if x.atReset then some ((0, []), x.host) else none
  | some m =>
    if x.image = some m.num then some ((0, []), x.host)
    else if m.mode ≠ 0 && decide (m.session = x.session) then some ((m.next, m.taken), m.host)
    else none

/-- The log that RPLBASE names, with its bytes in DDR-5 as they were written (R455). -/
def Replay.named (rp : Replay) (ddr : Memory) : Option SessionLog :=
  (rp.log :: rp.old).find? fun x => !x.entries.isEmpty && decide (x.base = rp.base.toNat) &&
    decide (ddr.readList x.base x.bytes.length = x.bytes)

/-- The state at a start point, a package reset or the restart from an image (R452, R455): a session begins as RPCTL has
it; a log that does not cover the point ends it with cause 5. -/
def State.startPoint (s0 : State) (image : Option Image) : State :=
  let live := s0.hostLive.getD s0.hostMem
  let s : State := { s0 with hostMem := live, hostLive := none }
  let rp : Replay := { s.rep with ended := none }
  if rp.rpctl % 4 = 1 then { s with rep := rp.record live image.isNone (image.map Image.num) }
  else if rp.rpctl % 4 = 2 then
    match (rp.named s.ddr).bind fun x => (x.covers image).map fun y => (x, y) with
    | some (x, (next, taken), host) =>
      { s with
        hostMem := host, hostLive := some live
        rep := { rp with
          mode := 2, next := next, taken := taken, used := offsetIn next x.entries
          log := x, old := rp.logsBut x.base } }
    | none => { s with rep := { rp with mode := 0, cause := 5 } }
  else { s with rep := { rp with mode := 0 } }

/-! ### Stopping -/

/-- The job cycle (R466). -/
def State.jobCycle (s : State) : Int := (s.cycle : Int) - s.alignofs.toInt

/-- The stop cycle has passed (R460). -/
def State.stopPassed (s : State) (job : Bool) : Bool :=
  if job then decide ((s.rep.stopcyc : Int) < s.jobCycle) else decide (s.rep.stopcyc < s.cycle)

/-- The clock that is being completed is the one that an armed stop names: of its job cycle, the first that is not less
(R460, R466). -/
def State.stopsHere (s : State) : Bool :=
  decide (s.rep.stopctl % 2 = 1) &&
    if s.rep.stopctl / 2 % 2 = 1 then decide ((s.rep.stopcyc : Int) ≤ s.jobCycle) else decide (s.cycle = s.rep.stopcyc)

/-- STOPCTL (R460): bit 0 arm, 1 job, 2 scan, 3 past. -/
def execStopctl (master v : Nat) (s : State) : Out :=
  if !s.isOwner master then .next s.drop
  else
    let job := decide (v / 2 % 2 = 1)
    let arm := decide (v % 2 = 1)
    let past := if arm then s.stopPassed job else decide (s.rep.stopctl / 8 % 2 = 1)
    let n := (arm && !past).toNat + 2 * job.toNat + v / 4 % 2 * 4 + 8 * past.toNat
    .next { s with rep := { s.rep with stopctl := n, stopped := false } }

/-- The clock that an armed stop names has been completed (R460, R466). -/
def State.freezeDue (s : State) : Bool := !s.frozen && decide (s.rep.stopctl % 2 = 1) && s.rep.stopped

/-- ATTCTL with a request begun: its op and busy (R463). -/
def startAtt (attctl op : Nat) : Nat := attctl / 16 % 2 * 16 + 8 + op

/-- ATTCTL with its request ended with a result (R463). -/
def endAtt (attctl result : Nat) : Nat := attctl / 16 % 2 * 16 + result * 2 ^ 24

/-- A frozen package at work on a request of ATTCTL (R463). -/
def State.attBusy (s : State) (op : Nat) : Bool :=
  s.frozen && decide (s.rep.attctl / 8 % 2 = 1) && decide (s.rep.attctl % 8 = op)

/-- FREEZE (R460): arm is cleared; with the scan bit an image is scanned. -/
def execFreeze (s : State) : Out :=
  if !s.freezeDue then .next s
  else
    let n := s.rep.stopctl
    .next { s with
      frozen := true
      rep := { s.rep with
        stopctl := n / 2 * 2, stopped := false
        attctl := if n / 4 % 2 = 1 then startAtt s.rep.attctl 1 else s.rep.attctl } }

/-! ### Images -/

/-- The addresses of DDR-5 outside the reserved region. -/
def openAddrs : List Nat := (List.range (2 ^ 41)).filter fun a => !Config.reserved a

/-- The digests of all HBM4 and of DDR-5 outside the reserved region (R463). -/
def State.dramDigests (s : State) : List Byte :=
  byteList (sha384 (natBytes (s.hbm.readList 0 Config.hbmBytes))) ++
    byteList (sha384 (natBytes (openAddrs.flatMap fun a => s.ddr.readList a 1)))

/-- An arrival and the cycle and port of its delivery, which a gate buffer holds. -/
abbrev GateEntry := Nat × Nat × Arrival

/-- The arrivals that the gate buffers hold (R461): those that have come, but for the controls, which pass no gate; in a
REPLAY session those of the log that are to be delivered by now. -/
def State.gateHeld (s : State) : List GateEntry :=
  if s.rep.mode = 2 then
    ((s.rep.log.arrivals.drop s.rep.next).filter fun x =>
      decide (x.1.cycle ≤ s.cycle) && (gateOf x.2.1 x.2.2).isSome).map fun x => (x.1.cycle, x.2)
  else s.agenda.filter fun x => decide (x.1 ≤ s.cycle) && (gateOf x.2.1 x.2.2).isSome && !isControl x.2.2

/-- A section of an image (R462): its id, die and kind, the context to which its state is tagged, whether it is encrypted,
and its stored bytes. -/
structure AtticPart where
  id   : Nat
  die  : Nat
  kind : Nat
  ctx  : Option Nat
  enc  : Bool := false
  body : List Byte
  deriving DecidableEq, Repr

/-- The state that a section holds, as its bytes: the spec does not give their layout (R462; log 9). They depend on nothing
else, so that equal domains give equal images (R465). -/
opaque atticBody : Domain → List GateEntry → List Byte

/-- The domain and the gate buffers that the bytes of an image hold which this package has not scanned (R464; log 20). -/
opaque atticLoad : List Byte → Domain × List GateEntry

/-- The tags and line data of the L2 of a die, as its section stores them (R471; log 9). -/
opaque atticLines : Domain → Nat → List Byte

/-- The id of a section, by its kind and its die or context; its die, where it is not that of the L2; its kind, where that
is neither 5 nor 11 (R462; log 9). -/
opaque atticId : Nat → Nat → Nat

/-- A byte of an image outside its header's fields and its sections (R462; log 9). -/
opaque atticByte : Domain → Nat → Byte

/-- Bytes of an image from one on. -/
def atticFill (d : Domain) (first n : Nat) : List Byte := (List.range n).map fun i => atticByte d (first + i)

/-- The ports of a slice at which requests wait (R471). -/
def Domain.waiting (d : Domain) (slice : Nat) : List Nat :=
  ((d.l2reqs.filter fun r => decide (r.slice = slice) && decide (r.at_ < d.cycle)).map L2Req.port).eraseDups

/-- An arbiter record (R471). -/
def L2Arb.word (a : L2Arb) (pend : List Nat) : Nat :=
  a.cont * 2 ^ 48 + a.last * 2 ^ 36 + a.ptr * 2 ^ 32 + (pend.map fun p => 2 ^ p).sum * 2 ^ 16 + a.gcnt

/-- A set record (R471). -/
def L2Set.word (x : L2Set) : Nat :=
  ((List.range 16).filter fun w => (tfind? x.ways w).isSome).foldl (fun n w => n + 2 ^ (16 + w)) (x.tree % 2 ^ 15)

/-- The arbiter and set records of a die (R471). -/
def Domain.l2Records (d : Domain) (die : Nat) : List Byte :=
  (List.range 48).flatMap (fun k =>
      leBytes 8 ((tget d.arbs (48 * die + k) {}).word (d.waiting (48 * die + k)))) ++
    (List.range 24576).flatMap fun k => leBytes 4 (tget d.sets (24576 * die + k) {}).word

/-- State tagged to a context that is not debuggable, or confidential, is stored encrypted (R462). -/
def Domain.hides (d : Domain) (c : Nat) : Bool := (tfind? d.ctxs c).any fun x => !x.debug || x.conf

/-- The section of kind 5 of a die, which is plain and of no context (R471). -/
def Domain.l2Part (d : Domain) (die : Nat) : AtticPart :=
  { id := atticId 5 die, die := die, kind := 5, ctx := none, body := d.l2Records die ++ atticLines d die }

/-- A domain with what of another is tagged to the contexts of a kind (R462), and `base` beside that. -/
def Domain.only (d : Domain) (mine : Nat → Bool) (base : Domain) : Domain :=
  let of := fun ln => mine (tget d.launches ln {}).ctx
  { base with
    waves := d.waves.filter fun w => of w.2.launch
    blocks := d.blocks.filter fun b => of b.2.launch
    launches := d.launches.filter fun l => mine l.2.ctx
    cores := d.cores.filter fun c => match c.2.loaded with | some ln => of ln | none => mine noCtx
    ctxs := d.ctxs.filter fun c => mine c.1
    tags := d.tags.filter fun t => mine (t.1 / 2 ^ 64)
    tlb := d.tlb.filter fun t => mine t.ctx
    frb := d.frb.filter fun e => mine e.ctx
    posts := d.posts.filter fun p => mine p.ctx
    shoot := d.shoot.filter fun x => mine x.ctx
    storage := d.storage.filter fun x => mine x.ctx
    revokes := d.revokes.filter fun v => mine v.ctx
    transfers := d.transfers.filter fun t => mine t.ctx
    waitReqs := d.waitReqs.filter fun r => mine r.ctx
    reserved := d.reserved.filter fun r => mine r.ctx
    waitContrs := d.waitContrs.filter fun c => mine c.ctx
    votes := d.votes.filter fun v => mine v.ctx
    results := d.results.filter fun r => of (tget d.waves r.1 {}).launch }

/-- What is tagged to a context. -/
def Domain.own (d : Domain) (c : Nat) : Domain := d.only (fun x => decide (x = c)) {}

/-- What is tagged to none of the contexts. -/
def Domain.shared (d : Domain) : Domain := d.only (fun x => (tfind? d.ctxs x).isNone) d

/-- The arrivals of a list that are a context's traffic, or no context's. -/
def State.gatesOf (s : State) (gates : List GateEntry) (c : Option Nat) : List GateEntry :=
  gates.filter fun x => decide ((s.arrivalCtx x.2.2).filter (fun c => (tfind? s.ctxs c).isSome) = c)

/-- The plain bytes of a context's own sections. -/
def State.ownBytes (s : State) (gates : List GateEntry) (c : Nat) : List Byte :=
  atticBody (s.toDomain.own c) (s.gatesOf gates (some c))

/-- A kind of section that is neither 5 nor 11. -/
def otherKind (k : Nat) : Nat := [1, 2, 3, 4, 6, 7, 8, 9, 10].getD (atticId 14 k % 9) 1

/-- The sections of a context (R462): encrypted under the package's key where it is not debuggable, or confidential, else
plain. -/
def State.ctxPart (s : State) (gates : List GateEntry) (c : Nat) : AtticPart :=
  let enc := s.toDomain.hides c
  let b := s.ownBytes gates c
  { id := atticId 12 c, die := atticId 13 c, kind := otherKind c, ctx := some c, enc := enc
    body := if enc then byteList (Config.packageSeal (natBytes b)) else b }

/-- The sections of an image of the package (R462, R463, R471): the L2 of each die, what is no context's, the contexts, and
the digests of the DRAM when they are asked for. -/
def State.sections (s : State) (dram : Bool) : List AtticPart :=
  let gates := s.gateHeld
  (List.range 4).map s.toDomain.l2Part ++
    [{ id := atticId 12 64, die := atticId 13 64, kind := otherKind 64, ctx := none
       body := atticBody s.toDomain.shared (s.gatesOf gates none) }] ++
    (s.ctxs.map Prod.fst).map (s.ctxPart gates) ++
    if dram then [{ id := atticId 11 0, die := atticId 11 1, kind := 11, ctx := none, body := s.dramDigests }] else []

/-- Sections with their offsets in an image, each aligned to 4 KiB, from an offset on (R462). -/
def placeParts : Nat → List AtticPart → List (Nat × AtticPart)
  | _, [] => []
  | cur, p :: ps => (up4k cur, p) :: placeParts (up4k cur + p.body.length) ps

/-- An entry of the section table (R462). -/
def partEntry (x : Nat × AtticPart) : List Byte :=
  let p := x.2
  leBytes 4 p.id ++ leBytes 1 p.die ++ leBytes 1 p.kind ++ leBytes 2 0 ++ leBytes 8 x.1 ++ leBytes 8 p.body.length ++
    leBytes 4 (p.ctx.getD noCtx) ++ leBytes 4 p.enc.toNat ++ byteList (sha384 (natBytes p.body))

/-- The bytes of an image from an offset on (R462): its sections, and what lies between them. -/
def Domain.partBytes (d : Domain) : Nat → List (Nat × AtticPart) → List Byte
  | _, [] => []
  | cur, (off, p) :: xs => atticFill d cur (off - cur) ++ p.body ++ d.partBytes (off + p.body.length) xs

/-- Bytes of the header with a table of `n` sections: 4 KiB (R462), which hold 49 (log 20). -/
def headSize (n : Nat) : Nat := up4k (144 + 80 * n)

/-- The sections of an image of the package, with their offsets. -/
def State.parts (s : State) (dram : Bool) : List (Nat × AtticPart) :=
  let ps := s.sections dram
  placeParts (headSize ps.length) ps

/-- The magic of an image. -/
def atticMagic : List Byte := byteList [0x41, 0x54, 0x54, 0x43]

/-- The first 96 bytes of an image's header (R462). -/
def State.imageHead (s : State) (dram : Bool) : List Byte :=
  let ps := s.parts dram
  atticMagic ++ leBytes 2 1 ++
    leBytes 2 ((ps.any fun x => x.2.enc).toNat + 2 * dram.toNat) ++
    leBytes 8 (s.cycle - 1) ++ leBytes 16 (leNat (byteList Config.serial)) ++
    byteList (sha384 s.firmware) ++ leBytes 4 ps.length ++
    leBytes 4 s.rep.mode ++ leBytes 8 s.rep.offset

/-- The header of an image, with its section table (R462). -/
def State.imageHeader (s : State) (dram : Bool) : List Byte :=
  let h := s.imageHead dram
  let t := (s.parts dram).flatMap partEntry
  h ++ byteList (sha384 (natBytes (h ++ t))) ++ t ++
    atticFill s.toDomain (144 + t.length) (headSize (s.parts dram).length - 144 - t.length)

/-- The bytes of an image after its header; a digest-only scan writes none (R463). -/
def State.imageBody (s : State) (full dram : Bool) : List Byte :=
  if full then s.toDomain.partBytes (headSize (s.parts dram).length) (s.parts dram) else []

/-- A scan asks for the digests of the DRAM (R463). -/
def State.scanDram (s : State) : Bool := decide (s.rep.attctl / 16 % 2 = 1)

/-- The bytes of an image (R462, R463). -/
def State.imageNow (s : State) (full : Bool) : List Byte := s.imageHeader s.scanDram ++ s.imageBody full s.scanDram

/-- The state with an image scanned (R462, R463), or the result 1. -/
def State.scanImage (s : State) (full : Bool) : Out :=
  let bs := s.imageNow full
  let a := s.rep.attBase.toNat
  if s.rep.attSize < bs.length then .next { s with rep := { s.rep with attctl := endAtt s.rep.attctl 1 } }
  else if !exists? 1 a bs.length then .fault (.noPhysical 1 a)
  else
    let x : Image :=
      { base := a, bytes := bs, mode := s.rep.mode, next := s.rep.place.1, taken := s.rep.place.2
        session := s.rep.log.session, domain := s.toDomain, num := s.rep.scans, host := s.hostMem, gates := s.gateHeld }
    let s1 := s.writeCells (bs.mapIdx fun i b => (1, a + i, b))
    .next { s1 with
      images := (s.images.filter fun y => y.base ≠ a) ++ [x]
      rep := { s.rep with attctl := endAtt s.rep.attctl 0, scans := s.rep.scans + 1 } }

/-- SCAN (R462, R463). -/
def execScan (s : State) : Out := if s.attBusy 1 then s.scanImage true else .next s

/-- DIGEST_ONLY_SCAN (R463). -/
def execDigestOnlyScan (s : State) : Out := if s.attBusy 4 then s.scanImage false else .next s

/-- ATTIC_RESUME (R461, R463): the package goes on at the next clock. -/
def execAtticResume (s : State) : Out :=
  if s.attBusy 2 then .next { s with frozen := false, rep := { s.rep with attctl := endAtt s.rep.attctl 0 } }
  else .next s

/-! ### Restarting -/

/-- The header and the section table of what stands at ATTBASE. -/
def State.attHead (s : State) : List Byte × List (List Byte) :=
  let a := s.rep.attBase.toNat
  let h := s.ddr.readList a 144
  (h, records 80 (fld h 80 4) (s.ddr.readList (a + 144) (80 * fld h 80 4)))

/-- The stored bytes of a section that a table entry names, of what stands at ATTBASE (R462). -/
def State.attBody (s : State) (e : List Byte) : List Byte :=
  s.ddr.readList (s.rep.attBase.toNat + fld e 8 8) (fld e 16 8)

/-- Every digest of what stands at ATTBASE holds, and it is an image (R462, R464). -/
def State.digestsHold (s : State) : Bool :=
  let x := s.attHead
  decide (x.1.take 4 = atticMagic) && decide (fld x.1 4 2 = 1) &&
    decide (natBytes ((x.1.drop 96).take 48) = sha384 (natBytes (x.1.take 96 ++ x.2.flatten))) &&
    x.2.all fun e => decide (natBytes ((e.drop 32).take 48) = sha384 (natBytes (s.attBody e)))

/-- The result of the checks of a restart (R463, R464). -/
def State.restartCheck (s : State) : Nat :=
  let x := s.attHead
  if !s.digestsHold then 2
  else if natBytes ((x.1.drop 32).take 48) ≠ sha384 s.firmware then 3
  else if (x.2.any fun e => fld e 28 4 = 1) && decide (fld x.1 16 16 ≠ leNat (byteList Config.serial) % 2 ^ 128) then 4
  else if s.scanDram && !(x.2.any fun e => fld e 5 1 = 11 && decide (s.attBody e = s.dramDigests)) then 5
  else 0

/-- The image at ATTBASE: the one that this package has scanned, by its bytes; of another, its bytes say what it holds
(log 20). -/
def State.attImage (s : State) : Image :=
  let a := s.rep.attBase.toNat
  match s.images.find? fun x => x.base = a && decide (s.ddr.readList a x.bytes.length = x.bytes) with
  | some x => x
  | none =>
    let h := s.attHead
    let size := (h.2.map fun e => fld e 8 8 + fld e 16 8).foldl max (headSize h.2.length)
    let y := atticLoad (s.ddr.readList a size)
    { base := a, bytes := s.ddr.readList a size, mode := fld h.1 84 4, next := 0, taken := [], session := 0
      domain := { y.1 with cycle := fld h.1 8 8 + 1 }, num := 2 ^ 64, gates := y.2 }

/-- What is to come after a restart (R461, R464): the gate buffers hold what the image's held, which the log supplies in a
REPLAY session, in place of what they hold now. -/
def State.restartAgenda (s : State) (x : Image) : List GateEntry :=
  (if s.rep.rpctl % 4 = 2 then [] else x.gates) ++
    s.agenda.filter fun y => decide (s.cycle < y.1) || (gateOf y.2.1 y.2.2).isNone || isControl y.2.2

/-- The state restarted from an image (R464): its domain, its gate buffers, and a start point (R452). -/
def State.restartFrom (s : State) (x : Image) : State :=
  ({ s with
    toDomain := x.domain, frozen := false, agenda := s.restartAgenda x
    rep := { s.rep with attctl := endAtt s.rep.attctl 0 } } : State).startPoint (some x)

/-- RESTART (R464): what stands at ATTBASE is checked, then loaded. -/
def execRestart (s : State) : Out :=
  if !s.attBusy 3 then .next s
  else
    let r := s.restartCheck
    if r = 0 then .next (s.restartFrom s.attImage)
    else .next { s with rep := { s.rep with attctl := endAtt s.rep.attctl r } }

end Sys2Proof.Machine
end

