-- ==== Sys2Proof/Machine/Boot.lean ====
section
/-! DEFINITION. Reset, boot and recovery (spec/22_package.md R478, R482 to R484; spec/21_prog_histogram.md R469), power
and throttling (R480, R481), firmware update (R485). -/

namespace Sys2Proof.Machine

/-! ### Resets -/

/-- The lowest failed core of a die, in whose place the spare stands (R478). -/
def spareFor (die : Nat) (bad : List Nat) : Option Nat :=
  lowest ((bad.filter fun p => decide (p / 16 = die) && decide (p % 16 < 12)).map fun p => p % 16)

/-- The remap entry of a logical core after a boot in which the physical cores `bad` (die · 16 + number) have failed
their self-test (R340, R478). A die has one spare: a second failed core is not mapped (log 21). -/
def bootRemap (bad : List Nat) (c : Nat) : Word :=
  let die := c / 12
  let p := c % 12
  if !bad.contains (die * 16 + p) then State.resetRemap c
  else if spareFor die bad = some p && !bad.contains (die * 16 + 12) then BitVec.ofNat 32 (0x8000 + die * 256 + 12)
  else 0

/-- The state with the self-tests of step 4 done (R482): the remap table written, the failing Shelf banks (core,
partition, bank) fenced. -/
def State.selfTest (s : State) (bad : List Nat) (banks : List (Nat × Nat × Nat)) : State :=
  let s1 : State := { s with remap := (List.range 48).map fun c => (c, bootRemap bad c) }
  banks.foldl (fun s b => (s.fenceBank b.1 b.2.1 b.2.2).checkLost b.1 b.2.1) s1

/-- The domain released at cycle 0 with every state at its reset value (R482 step 6). What lies outside the package
stays: the host's memory, what has left and what is still to come; what the gates held is gone. -/
def State.released (s : State) (bad : List Nat) (banks : List (Nat × Nat × Nat)) : State :=
  let z : State := State.reset
  ({ z with
    hostMem := s.hostLive.getD s.hostMem, agenda := s.agenda.filter fun x => decide (s.cycle < x.1)
    outbox := s.outbox, boot := s.boot, reads := s.reads } : State).selfTest bad banks

/-- FWSTAT (R485): image from flash, image from host, flash image failed. -/
def fwstat (flash host failed : Bool) : Word := wrd (flash.toNat + 2 * host.toNat + 4 * failed.toNat)

/-- COLD_RESET (R482): with an image in flash that verifies the package boots through; otherwise the boot stage waits
for an image (R483). -/
def execColdReset (flashOk : Bool) (bad : List Nat) (banks : List (Nat × Nat × Nat)) (s : State) : Out :=
  let b := s.boot
  let s1 := s.released bad banks
  let b1 : Boot := { b with power := true, rcvstat := 0x80000000#32, rcvaddr := 0, rcvlen := 0 }
  .next { s1 with boot :=
    if flashOk then { b1 with stage := 6, fwstat := fwstat true false false, image := b.stored }
    else { b1 with stage := 2, fwstat := fwstat false false true } }

/-- PACKAGE_RESET (R469, R484): reset from step 4. The registers 0x100 to 0x148 and the reserved region stay, a
freeze and a request of ATTCTL in progress are discarded; it is a start point (R452). -/
def execPackageReset (bad : List Nat) (banks : List (Nat × Nat × Nat)) (s : State) : Out :=
  if s.boot.stage < 6 then .next s
  else
    let s1 := s.released bad banks
    let att := if s.rep.attctl / 8 % 2 = 1 then s.rep.attctl / 16 % 2 * 16 else s.rep.attctl
    .next (({ s1 with
      ddr := s.ddr.filter fun c => Config.reserved c.1
      poison := s.poison.filter fun g => decide (g / 2 ^ 59 = 1) && Config.reserved (g % 2 ^ 59 * 32)
      images := s.images, alignofs := s.alignofs
      rep := { s.rep with attctl := att, stopped := false } } : State).startPoint none)

/-! ### The recovery fetch -/

/-- The boot stage waits for an image (R483). -/
def State.waitsImage (s : State) : Bool := decide (s.boot.stage < 6) && s.boot.rcvstat.getLsbD 31

/-- A recovery fetch is in progress (R483). -/
def State.fetching (s : State) : Bool := s.boot.rcvstat.getLsbD 30

/-- RCVGO (R483): a fetch starts; one written while busy, or when no image is awaited, is dropped. -/
def execRcvgo (_master : Nat) (s : State) : Out :=
  if s.waitsImage && !s.fetching then .next { s with boot := { s.boot with rcvstat := s.boot.rcvstat ||| 0x40000000#32 } }
  else .next s.drop

/-- The result of a fetch (R483): a length outside 4 KiB to 32 MiB comes before what the reads and the signatures
give. -/
def fetchResult (len given : Nat) : Nat :=
  if len < 4096 || 2 ^ 25 < len then 3
  else if given = 1 || given = 2 then given
  else 4

/-- RECOVERY_FETCH_END (R483): the result is recorded; after a success boot goes on with the fetched image, whose
self-tests find `bad` cores and `banks`. -/
def execRecoveryFetchEnd (result : Nat) (bad : List Nat) (banks : List (Nat × Nat × Nat)) (s : State) : Out :=
  if !s.waitsImage || !s.fetching then .next s
  else
    let b := s.boot
    let r := fetchResult b.rcvlen.toNat result
    if r ≠ 1 then .next { s with boot := { b with rcvstat := wrd (0x80000000 + r) } }
    else
      let img := (s.hostMem.readList b.rcvaddr.toNat b.rcvlen.toNat).map BitVec.toNat
      let s1 := s.released bad banks
      .next { s1 with boot := { b with
        stage := 6, rcvstat := 1, fwstat := fwstat false true true, image := some img } }

/-! ### Power -/

/-- THRCTL (R480): a skip takes effect from the first group of 16 clocks after this one, a hold at once. -/
def execThrctl (v : Nat) (s : State) : Out := .next { s with thrctl := wrd (v % 32) }

/-- The sum of a list's first hundred entries, the measurements of 1 ms (R480). -/
def lastMs (xs : List Nat) : Nat := (xs.take 100).sum

/-- The state without power (R481): a RECORD session ends with it. -/
def State.powerOff (s : State) : State :=
  { s with
    boot := { s.boot with power := false }
    rep := if s.rep.mode = 1 then { s.rep with mode := 0 } else s.rep }

/-- POWER_MEASUREMENT (R480, R481): the module controller's measurement, outside the domain. When the average over 1 ms
exceeds the cap or the hottest die exceeds 100 °C it writes THRCTL through the management interface, with a value that the
spec does not give (log 9), which arrives at gate 27; at 115 °C it removes power. -/
def execPowerMeasurement (watts : Nat) (temps : List Nat) (s : State) : Out :=
  let ps := watts :: s.boot.powers.take 99
  let s1 : State := { s with boot := { s.boot with powers := ps, temps := temps.mapIdx fun i t => (i, t) } }
  if temps.any fun t => 920 ≤ t then .next s1.powerOff
  else if (decide (100 * s.pwrcap < lastMs ps) || temps.any fun t => 800 < t) && decide (6 ≤ s.boot.stage) then
    .next { s1 with
      reads := s.reads + 1
      agenda := s.agenda ++ [(s.cycle, 27, .throttle ((Config.readValue s.reads).toNat % 32))] }
  else .next s1

/-- THERMAL_POWER_REMOVAL (R481): power is gone at once. -/
def execThermalPowerRemoval (s : State) : Out := .next s.powerOff

/-- FIRMWARE_UPDATE (R485): the image in flash, which runs from the next cold reset. -/
def execFirmwareUpdate (data : List Nat) (s : State) : Out := .next { s with boot := { s.boot with stored := some data } }

end Sys2Proof.Machine
end

