-- ==== Sys2Proof/Machine/Control.lean ====
section
/-! DEFINITION. Control flow and divergence: SCTL and MASK (spec/12_control.md R290 to R308). -/

namespace Sys2Proof.Machine

/-- A branch: taken to its target, or on to the next instruction (R44, R294). -/
def State.branch (s : State) (p : Plan) (off : Nat) (taken : WaveRegs → Bool) : Out :=
  s.run p (if taken s.regs then .jump s (target s.regs.pc off) else .done s)

/-- `br` (R294). -/
def execBr (off : Nat) (s : State) : Out := s.branch {} off fun _ => true
/-- `bz` (R294). -/
def execBz (a off : Nat) (s : State) : Out :=
  s.branch { ops := [.s a 1 true] } off fun r => decide (r.s a = 0)
/-- `bnz` (R294). -/
def execBnz (a off : Nat) (s : State) : Out :=
  s.branch { ops := [.s a 1 true] } off fun r => decide (r.s a ≠ 0)
/-- `blt` (R294). -/
def execBlt (a off : Nat) (s : State) : Out :=
  s.branch { ops := [.s a 1 true] } off fun r => (r.s a).slt 0
/-- `bge` (R294). -/
def execBge (a off : Nat) (s : State) : Out :=
  s.branch { ops := [.s a 1 true] } off fun r => !(r.s a).slt 0

/-- `call`: the link is the 18-bit address of the next instruction (R294). -/
def execCall (a off : Nat) (s : State) : Out :=
  let pc := s.regs.pc
  s.run { ops := [.s a 1 false], writes := 1 }
    (.jump (s.updRegs fun r => r.putS a ((nextPc pc).setWidth 32)) (target pc off))

/-- The jump of `jr` and `ret`: within the slot and aligned, or PROTECTION (R295). -/
def State.jumpReg (s : State) (a imm : Nat) : Out :=
  let r := s.regs
  let t := r.s a + ((BitVec.ofNat 16 imm).signExtend 32 <<< 2)
  s.run { ops := [.s a 1 true] }
    (if t.toNat % 4 = 0 && decide (t.toNat < 2 ^ 18) && decide (t.toNat / 2 ^ 16 = r.pc.toNat / 2 ^ 16)
     then .jump s (t.setWidth 18) else .trap (jumpTrap t))

/-- `ret` (R295). -/
def execRet (a : Nat) (s : State) : Out := s.jumpReg a 0
/-- `jr` (R295). -/
def execJr (a imm : Nat) (s : State) : Out := s.jumpReg a imm

/-- `bem0` (R294). -/
def execBem0 (off : Nat) (s : State) : Out := s.branch {} off fun r => decide (r.em = 0)

/-- `bemx` (R294). -/
def execBemx (a off : Nat) (s : State) : Out :=
  let m := widthMask s.wave.width
  s.branch { ops := [.s a 2 true] } off fun r => decide (r.em &&& m = r.s2 a &&& m)

/-- A vote of the wave is cast and not resolved on some quorum (R311). -/
def Wave.casting (w : Wave) : Bool := w.quor.any fun e => e.2.cast

/-- The exit of the acting wave's last lanes: from now it counts as exited (R251), and it drains (R38). -/
def State.finalExit (s : State) (x : Mask) : Res :=
  let s1 := s.setWave { s.wave with
    final := true, life := .draining,
    regs := { s.regs with exited := s.regs.exited ||| x, em := 0 } }
  .stay (s1.settleBars s.wave.blk) 25 0

/-- `exit` (R296): pending copy errors are delivered (R264); lanes leave; the last ones end the
wave, once no vote of it is cast (R332). R194 has a block retire at an exit of one lane, which R296 makes a partial exit:
R296 holds (log 61). -/
def execExit (s : State) : Out :=
  let w := s.wave
  let x := w.regs.em &&& w.live
  let final := decide (x ≠ 0) && decide (w.live &&& ~~~x = 0)
  s.run { spec := !final, writes := 2 }
    (s.deliverOr PendTrap.copyError
      (if x = 0 then .done s
       else if final then
         if w.casting then .wait 19 0 else s.checkEntry fun s => s.finalExit x
       else .done (s.updRegs fun r => { r with exited := r.exited ||| x, em := 0 })))

/-! ### The mask stack -/

/-- The trap of a MASK instruction that needs `room` free entries and `need` used ones, at a depth (R292). -/
def depthTrap (n room need : Nat) : Option TrapRec :=
  if 16 < n + room then some (mkTrap 0x18 [wrd n]) else if n < need then some (mkTrap 0x19 [wrd n]) else none

/-- A MASK instruction that needs `room` free entries and `need` used ones, which is looked at before its operands
(R292, R373, R486). -/
def State.maskRun (s : State) (p : Plan) (room need : Nat) (k : WaveRegs → Res) : Out :=
  s.run { p with own := depthTrap s.regs.stack.length room need } (k s.regs)

/-- The registers with an entry pushed, with the pc of the instruction (R291). -/
def WaveRegs.push (r : WaveRegs) (m : Mask) : WaveRegs := { r with stack := (m, r.pc) :: r.stack }

/-- The entry at a depth. -/
def WaveRegs.entry (r : WaveRegs) (n : Nat) : Mask := (r.stack.getD n (0, 0)).1

/-- The registers with the entry at a depth written. -/
def WaveRegs.setEntry (r : WaveRegs) (n : Nat) (m : Mask) : WaveRegs :=
  { r with stack := r.stack.set n (m, r.pc) }

/-- The registers with `n` entries popped. -/
def WaveRegs.drop (r : WaveRegs) (n : Nat) : WaveRegs := { r with stack := r.stack.drop n }

/-- On to the target when `em` is zero, else to the next instruction. -/
def State.unlessActive (s : State) (off : Nat) (r : WaveRegs) : Res :=
  if r.em = 0 then .jump (s.setRegs r) (target r.pc off) else .done (s.setRegs r)

/-- `if` (R298). -/
def execMaskIf (a off : Nat) (s : State) : Out :=
  s.maskRun { ops := [.s a 2 true], writes := 3 } 1 0 fun r =>
    s.unlessActive off { r.push (r.em &&& ~~~(r.s2 a)) with em := r.em &&& r.s2 a }

/-- `else` (R298). -/
def execMaskElse (off : Nat) (s : State) : Out :=
  let live := s.wave.live
  s.maskRun { writes := 2 } 0 1 fun r =>
    s.unlessActive off { r.setEntry 0 r.em with em := r.entry 0 &&& live }

/-- `endif` (R298). -/
def execMaskEndif (s : State) : Out :=
  let live := s.wave.live
  s.maskRun { writes := 3 } 0 1 fun r =>
    .done (s.setRegs { r.drop 1 with em := (r.em ||| r.entry 0) &&& live })

/-- `loop` (R299): a skipped body pushes nothing. -/
def execMaskLoop (off : Nat) (s : State) : Out :=
  let r := s.regs
  if r.lc = 0 || r.em = 0 then s.run { writes := 4 } (.jump s (target r.pc off))
  else s.maskRun { writes := 4 } 2 0 fun r => .done (s.setRegs ((r.push 0).push 0))

/-- `endl` (R299). -/
def execEndl (off : Nat) (s : State) : Out :=
  let live := s.wave.live
  s.maskRun { writes := 6 } 0 2 fun r =>
    let m := (r.em ||| r.entry 0) &&& live
    if r.lc.toNat ≤ 1 || m = 0 then
      .done (s.setRegs { r.drop 2 with
        lc := if r.lc.toNat ≤ 1 then 0 else r.lc, em := (m ||| r.entry 1) &&& live })
    else .jump (s.setRegs { r.setEntry 0 0 with lc := r.lc - 1, em := m }) (target r.pc off)

/-- `brk` and `cont`: the active lanes join the entry at depth `k`; when the `n` inner entries are empty
they are popped (R300). -/
def State.leaveBody (s : State) (n k off : Nat) : Out :=
  s.maskRun { writes := 2 + 2 * n } 0 (n + 2) fun r =>
    let r1 := { r.setEntry k (r.entry k ||| r.em) with em := 0 }
    if (List.range n).all fun i => decide (r.entry i = 0) then
      .jump (s.setRegs (r1.drop n)) (target r.pc off)
    else .done (s.setRegs r1)

/-- `brk` (R300). -/
def execBrk (n off : Nat) (s : State) : Out := s.leaveBody n (n + 1) off
/-- `cont` (R300). -/
def execCont (n off : Nat) (s : State) : Out := s.leaveBody n n off

/-- `mpush` (R298). -/
def execMpush (a : Nat) (s : State) : Out :=
  s.maskRun { ops := [.s a 2 true], writes := 3 } 1 0 fun r =>
    .done (s.setRegs { r.push r.em with em := r.em &&& r.s2 a })

/-- `mpop` (R298). -/
def execMpop (s : State) : Out :=
  let live := s.wave.live
  s.maskRun { writes := 3 } 0 1 fun r =>
    .done (s.setRegs { r.drop 1 with em := r.entry 0 &&& live })

end Sys2Proof.Machine
end

