-- ==== Sys2Proof/Machine/Watch.lean ====
section
/-! DEFINITION. What firmware observes of the waves: the sampler (spec/14_scheduling.md R349 to R351) and the
wait-for graph with its findings (R352 to R354). -/

namespace Sys2Proof.Machine

/-! ### Stall reasons -/

/-- The clock is taken from issue by power-cap throttling (R346, R480): a hold from its delivery on, a skip from the group
of 16 clocks that begins after it. -/
def State.throttled (s : State) : Bool :=
  s.thrctl.getLsbD 4 || decide (s.cycle % 16 < s.thrLive.toNat % 16)

/-- A wave that the debugger holds (R467): it runs on in a trap handler once it is to be pre-empted. -/
def Wave.held (w : Wave) : Bool := w.halted && !(w.regs.priv && w.preq.isSome)

/-- The stall reasons of R351 that apply to a wave whose instruction waits with a reason, or 0, beside those of a wave that
could issue. -/
def State.reasons (s : State) (w : Wave) (wait : Nat) : List Nat :=
  [(decide (wait ≠ 0), wait), (s.overlayBusy w, 23), (decide (w.life = .draining), 25), ((s.boundary w).isSome, 26),
    (s.throttled, 29), (w.held, 30)].filterMap fun x => if x.1 then some x.2 else none

/-- The stall reason of a wave as it stood when it was last tried (R351, R352): the lowest that applies, 0 when it could
issue. -/
def State.reason (s : State) (w : Wave) : Nat := (lowest (s.reasons w w.stall)).getD 0

/-! ### The sampler -/

/-- A context samples (R349): en stands at 1 only in a debuggable context. -/
def Ctx.samples (c : Ctx) : Bool := c.smpctl.getLsbD 16

/-- The sample period of a context as a power of two (R349). -/
def Ctx.samplePower (c : Ctx) : Nat := min (max (c.smpctl.toNat / 2 ^ 8 % 32) 10) 24

/-- A context samples in this clock (R350): the cycle counter is a multiple of its period. -/
def State.sampleDue (s : State) (c : Ctx) : Bool := c.samples && decide (s.cycle % 2 ^ c.samplePower = 0)

/-- The waves in the slots of a partition of a core's physical core. -/
def State.occupied (s : State) (core p : Nat) : List (Nat × Wave) :=
  s.waves.filter fun w => (s.group core).contains w.2.core && w.2.part = p && s.holdsSlot w.2

/-- The next occupied slot after one, in slot order with wrap-around (R350). -/
def nextSlot (last : Nat) (ws : List (Nat × Wave)) : Option (Nat × Wave) :=
  ws.foldl (fun best w =>
    match best with
    | none => some w
    | some b => if (w.2.slot + 64 - last - 1) % 64 < (b.2.slot + 64 - last - 1) % 64 then some w else best) none

/-- What a wave did in this clock (R350, R351, R355): the pc of its instruction, whether it issued, and its reason: 26 as
it enters its handler, the lowest that applies as it waits (`wait` is that of its instruction), 1 when it could have
issued. -/
def State.didNow (s : State) (k : Nat) (w : Wave) (wait : Nat) : Pc × Bool × Nat :=
  let other := (w.regs.pc, false, (lowest (s.reasons w wait)).getD 1)
  match s.acted with
  | some (j, pc, entered) => if j = k then (pc, !entered, if entered then 26 else 0) else other
  | none => other

/-- The fields of a sample of a wave, given the port of its instruction and the reason why that waits (R350). -/
def State.sampleWord (s : State) (p seq port wait : Nat) (k : Nat) (w : Wave) : Nat :=
  let d := s.didNow k w wait
  seq % 2 ^ 16 * 2 ^ 48 + w.core * 2 ^ 42 + port * 2 ^ 40 + w.slot * 2 ^ 35 +
    p * 2 ^ 32 + w.spec.isSome.toNat * 2 ^ 24 + d.2.1.toNat * 2 ^ 23 + d.2.2 * 2 ^ 18 + d.1.toNat

/-- A sample of a partition without a wave (R351). -/
def emptySample (core p seq : Nat) : Nat := seq % 2 ^ 16 * 2 ^ 48 + core * 2 ^ 42 + p * 2 ^ 32 + 31 * 2 ^ 18

/-- The state with a record in a context's ring of a core (R349): the record, then the count. -/
def State.putSample (s : State) (ctx core word : Nat) : State :=
  let c := s.ctxAt ctx
  let n := tget c.smpCounts core 0
  let size := c.smpsize.toNat
  let room := (size - 64) / 8
  if room = 0 then s
  else
    let base := c.smpbase.toNat + core * size
    let s1 := s.hostWrite ctx (base + 64 + 8 * (n % room)) (leBytes 8 word)
    let s2 := s1.hostWrite ctx base (leBytes 64 (n + 1))
    s2.updCtx ctx fun c => { c with smpCounts := tset c.smpCounts core (n + 1) }

/-- The records of one context of a physical core's samples, in partition order, each in the ring of the wave's logical
core; a partition without a wave shows its first logical core (log 41). -/
def State.sampleCtx (s : State) (ctx core : Nat) (info : Tbl (Nat × Nat)) (picked : List (Nat × Option (Nat × Wave))) :
    State :=
  picked.foldl (fun s x =>
    match x.2 with
    | none => s.putSample ctx core (emptySample core x.1 (tget (s.ctxAt ctx).smpCounts core 0))
    | some w =>
      if (s.launchAt w.2.launch).ctx = ctx then
        let i := tget info w.1 (3, w.2.stall)
        s.putSample ctx w.2.core (s.sampleWord x.1 (tget (s.ctxAt ctx).smpCounts w.2.core 0) i.1 i.2 w.1 w.2)
      else s) s

/-- The contexts that sample in this clock. -/
def State.sampling (s : State) : List Nat := (s.ctxs.filter fun c => s.sampleDue c.2).map Prod.fst

/-- The wave that each partition of a physical core samples (R350). -/
def State.sampledWaves (s : State) (core : Nat) : List (Nat × Option (Nat × Wave)) :=
  (List.range 8).map fun p => (p, nextSlot (tget (s.engineAt core).smpPtr p 63) (s.occupied core p))

/-- The state with the samples of a physical core in this clock (R350): the scheduler of every partition samples for the
contexts whose period it is. `info` gives the port of each wave's instruction (R344) and the reason why it waits. -/
def State.sample (s : State) (core : Nat) (info : Tbl (Nat × Nat)) : State :=
  let cs := s.sampling
  if cs.isEmpty then s
  else
    let picked := s.sampledWaves core
    (cs.foldl (fun s c => s.sampleCtx c core info picked) s).updEngine core fun x => { x with
      smpPtr := picked.foldl (fun t y => match y.2 with
        | none => t
        | some w => tset t y.1 w.2.slot) x.smpPtr }

/-- SAMPLE (R350). -/
def execSample (x : Sampling) (s : State) : Out := .next (s.sample x.core x.waves)

/-! ### Nodes and edges -/

/-- A node of the wait-for graph (R352): its number (twice a wave's key, or twice a block's and 1), identity
word, context, wait descriptor, since when it waits, and the nodes its edges lead to, none for unknown. -/
structure WaitNode where
  id    : Nat
  ident : Nat
  ctx   : Nat
  desc  : Nat
  since : Nat
  edges : List (Option Nat)
  deriving DecidableEq, Repr

/-- The number of a wave's node. -/
def waveNode (k : Nat) : Nat := 2 * k
/-- The number of a Pending block's node. -/
def blockNode (bk : Nat) : Nat := 2 * bk + 1

/-- A node's edges without doubles; unknown when there is none. -/
def edgesOr (es : List (Option Nat)) : List (Option Nat) := if es.isEmpty then [none] else es.eraseDups

/-- A wave of a Resident block that has a slot: one that drains or parks is still Resident (R36). -/
def Wave.onCore (w : Wave) : Bool :=
  match w.life with
  | .resident | .draining | .parking | .parked => true
  | .saved | .exited | .removed => false

/-- The Resident waves on the logical cores where a Pending block may be placed (R352). -/
def State.blockEdges (s : State) (ln b : Nat) : List (Option Nat) :=
  let l := s.launchAt ln
  let cores := if l.bound then [b % 48] else (List.range 48).filter (s.receives false)
  (s.waves.filter fun w => w.2.onCore && cores.contains w.2.core).map fun w => some (waveNode w.1)

/-- The edges of a wave that waits for lines to be read (R352): an owning wave, or unknown. -/
def State.lineEdges (s : State) (w : Wave) (lns : List Nat) : List (Option Nat) :=
  let b := s.blockAt w.blk
  edgesOr ((lns.filter fun i => decide ((b.line i).st ≠ .full)).map fun i =>
    match (b.line i).st, (b.line i).owner with
    | .filling, .wave k => some (waveNode k)
    | _, _ => none)

/-- The slots of a wave that wait for a vote (R311, R317). -/
def Wave.votingSlots (w : Wave) : List Nat :=
  match w.spec with
  | some sp => [sp.slot]
  | none => (List.range 4).filter fun i => (tget w.quor i {}).cast

/-- A wave still owes a vote of quorum `q` at an ordinal (R352). -/
def Wave.owesVote (w : Wave) (q ord : Nat) : Bool :=
  w.alive && (List.range 4).any fun i =>
    decide (w.slotByte i = q) &&
      (let m := tget w.quor i {}
       decide (m.ord < ord) || (decide (m.ord = ord) && !m.cast && !m.proxy))

/-- A member of a quorum at another rank may not have cast at an ordinal (R352): the home knows those that have; to
another package they are all unknown. -/
def State.votesElsewhere (s : State) (ctx q ord : Nat) : Bool :=
  let c := s.ctxAt ctx
  let e := tget c.quorums q {}
  let cast := ((tget e.ords ord {}).votes.filter fun v => decide (v.1 / 2 ^ 28 % 16 ≠ c.rank)).length
  if e.home = c.rank then decide (e.bound + cast < e.members) else decide (e.bound < e.members)

/-- The members of a quorum that have not cast at an ordinal, Pending ones included (R352); one at another rank is no node
of this package, and unknown (log 41). -/
def State.voteEdges (s : State) (ctx q ord : Nat) : List (Option Nat) :=
  let ws := s.waves.filter fun w => (s.launchAt w.2.launch).ctx = ctx && w.2.owesVote q ord
  let bs := s.launches.flatMap fun l =>
    if l.2.ctx = ctx then
      let ps := (s.pendingBlocks l.1).filter fun b =>
        (List.range l.2.n).any fun i => (List.range 4).any fun k =>
          l.2.slotByteOf k (l.2.linearWave b i) = q
      ps.map fun b => blockKey l.1 b
    else []
  (ws.map fun w => some (waveNode w.1)) ++ bs.map (fun b => some (blockNode b)) ++
    if s.votesElsewhere ctx q ord then [none] else []

/-- The waves of the block that holds the current ticket, or that block while it is Pending (R352). -/
def State.ticketEdges (s : State) (ln : Nat) : List (Option Nat) :=
  let l := s.launchAt ln
  if (s.pendingBlocks ln).contains l.ordc then [some (blockNode (blockKey ln l.ordc))]
  else (s.unfinished (s.blockAt (blockKey ln l.ordc))).map fun k => some (waveNode k)

/-- The wait descriptor's object and the edges of a waiting wave (R352, R410). -/
def State.waveEdges (s : State) (k : Nat) (w : Wave) (code : Nat) : Nat × List (Option Nat) :=
  let b := s.blockAt w.blk
  if code = 16 then
    let br := tget b.bars w.stallObj {}
    (w.stallObj, edgesOr (((s.unfinished b).filter fun x => !br.arrived.contains x).map fun x => some (waveNode x)))
  else if code = 13 then
    let lns := w.accept.map Prod.fst
    (lns.headD 0, s.lineEdges w lns)
  else if code = 14 then
    ((w.accept.map Prod.fst).headD 0,
      edgesOr (((s.unfinished b).filter fun x => x ≠ k).map fun x => some (waveNode x)))
  else if code = 15 then
    let first := w.stallObj % 2 ^ 16
    (first, s.lineEdges w ((List.range (w.stallObj / 2 ^ 16)).map fun i => first + i))
  else if code = 18 then
    ((s.launchAt w.launch).ordc, edgesOr (s.ticketEdges w.launch))
  else if code = 19 || code = 20 then
    let ctx := (s.launchAt w.launch).ctx
    let vs := w.votingSlots.map fun i => (w.slotByte i, (tget w.quor i {}).ord)
    let obj := match vs with
      | [] => 0
      | v :: _ => v.2 % 2 ^ 16 + v.1 * 2 ^ 19
    (obj, edgesOr (vs.flatMap fun v => s.voteEdges ctx v.1 v.2))
  else (0, [none])

/-- A wait descriptor word (R410). -/
def descWord (code obj : Nat) : Nat := code * 2 ^ 27 + obj % 2 ^ 27

/-- A wave as the graph sees it: one that has been pre-empted waits as it did before, and is stalled for as long (R355). -/
def Wave.asWaiting (w : Wave) : Wave :=
  match w.aged with
  | none => w
  | some (code, obj, since, lines) => { w with stall := code, stallObj := obj, since := since, accept := lines }

/-- The kind of wait of a wave in the graph (R352): a pre-empted wave that did not wait does not. -/
def State.waitKind (s : State) (w : Wave) : Nat :=
  match w.aged, w.life with
  | some x, _ => x.1
  | none, .parking | none, .parked | none, .saved => 0
  | none, .resident | none, .draining | none, .exited | none, .removed => s.reason w

/-- The nodes of the waves. -/
def State.waveNodes (s : State) : List WaitNode :=
  (s.waves.filter fun w => w.2.alive && decide (s.waitKind w.2 ≠ 0)).map fun w =>
    let code := s.waitKind w.2
    let v := w.2.asWaiting
    let y := s.waveEdges w.1 v code
    { id := waveNode w.1, ident := v.ident.toNat, ctx := (s.launchAt v.launch).ctx
      desc := descWord code y.1, since := v.since, edges := y.2 }

/-- The nodes of the Pending blocks. -/
def State.pendingNodes (s : State) : List WaitNode :=
  s.launches.flatMap fun l => (s.pendingBlocks l.1).map fun b =>
    { id := blockNode (blockKey l.1 b), ident := s.pendingIdent l.2, ctx := l.2.ctx
      desc := b % 2 ^ 27, since := l.2.accepted, edges := s.blockEdges l.1 b }

/-- The threshold of a context (R353, R399). -/
def Ctx.threshold (c : Ctx) : Nat := 2 ^ min (max (c.wfgt % 64) 20) 40

/-- A node is stalled (R353). -/
def State.nodeStalled (s : State) (n : WaitNode) : Bool :=
  decide ((s.ctxAt n.ctx).threshold ≤ s.cycle - n.since)

/-! ### Findings -/

/-- A finding (R353): its report type, type detail, nodes; the contexts it is reported to, and what it is known by: its
nodes with the time since which each waits. -/
structure Finding where
  type   : Nat
  detail : Nat
  nodes  : List WaitNode
  ctxs   : List Nat
  key    : List (Nat × Nat)
  deriving DecidableEq, Repr

/-- A finding about nodes, for their contexts. -/
def findingOf (type detail : Nat) (nodes : List WaitNode) : Finding :=
  { type := type, detail := detail, nodes := nodes, ctxs := (nodes.map WaitNode.ctx).eraseDups
    key := nodes.map fun n => (n.id, n.since) }

/-- The stalled nodes that a list of nodes leads to, in at most `fuel` rounds. -/
def reachFrom (stalled : List WaitNode) : Nat → List Nat → List Nat
  | 0, xs => xs
  | fuel + 1, xs =>
    let next := (stalled.filter fun n => !xs.contains n.id &&
      stalled.any fun m => xs.contains m.id && m.edges.contains (some n.id)).map WaitNode.id
    if next.isEmpty then xs else reachFrom stalled fuel (xs ++ next)

/-- The stalled nodes that a node's edges lead to, near or far. -/
def nodeReach (stalled : List WaitNode) (n : WaitNode) : List Nat :=
  reachFrom stalled stalled.length ((stalled.filter fun m => n.edges.contains (some m.id)).map WaitNode.id)

/-- Ascending identity, Pending blocks of one launch by their ids (R353). -/
def nodeLe (x y : WaitNode) : Bool :=
  decide (x.ident < y.ident) || (decide (x.ident = y.ident) && decide (x.id ≤ y.id))

/-- DEADLOCK (R353): the nodes that lie on cycles of stalled nodes with one another. -/
def deadlocks (stalled : List WaitNode) : List Finding :=
  let reach := stalled.map fun n => (n, nodeReach stalled n)
  let cyc := reach.filter fun x => x.2.contains x.1.id
  (cyc.map fun x =>
    let ms := cyc.filter fun y => x.2.contains y.1.id && y.2.contains x.1.id
    findingOf 1 0 (inOrder nodeLe (ms.map Prod.fst))).eraseDups

/-- UNSATISFIABLE (R251, R353): barriers whose count exceeds the waves that can still arrive, reported to the context of
the block, and known by block, barrier and the arrived waves that wait. -/
def State.unsatisfiable (s : State) (ns : List WaitNode) : List Finding :=
  s.blocks.flatMap fun b =>
    b.2.bars.filterMap fun br =>
      match br.2.expect with
      | none => none
      | some e =>
        let can := br.2.arrived.length + ((s.unfinished b.2).filter fun k => !br.2.arrived.contains k).length
        if e ≠ 0 && !br.2.arrived.isEmpty && decide (can < e) && decide (b.2.st = .resident ∨ b.2.st = .saved) then
          let nodes := inOrder nodeLe (ns.filter fun n => br.2.arrived.any fun k => n.id = waveNode k)
          let f := findingOf 2 (b.2.lin + br.1 * 2 ^ 32 + e * 2 ^ 40 + can * 2 ^ 48) nodes
          some { f with ctxs := [(s.launchAt b.2.launch).ctx], key := (b.1, br.1) :: f.key }
        else none

/-- STARVED and LONG_WAIT (R353). -/
def State.loneFindings (s : State) (stalled : List WaitNode) : List Finding :=
  stalled.filterMap fun n =>
    let toStalled := n.edges.any fun e => stalled.any fun m => e = some m.id
    if n.id % 2 = 1 then
      if toStalled then none
      else
        let l := s.launchAt (n.id / 2 / 2 ^ 32)
        some (findingOf 3 ((s.queueAt l.ctx l.queue).ctl / 2 % 4) [n])
    else if n.edges.all fun e => e = none then some (findingOf 4 0 [n])
    else none

/-- The findings of a reading. -/
def State.findings (s : State) : List Finding :=
  let ns := s.waveNodes ++ s.pendingNodes
  let stalled := ns.filter s.nodeStalled
  deadlocks stalled ++ s.unsatisfiable ns ++ s.loneFindings stalled

/-- A node as a report to a context shows it (R354, R410). -/
def State.nodeWords (s : State) (ctx : Nat) (n : WaitNode) : Nat × Nat :=
  (n.ident, if n.ctx ≠ ctx then 0 else if (s.ctxAt ctx).debug then n.desc else n.desc / 2 ^ 27 * 2 ^ 27)

/-- The state with the reports of a finding, five nodes to each (R410). -/
def State.reportNodes (s : State) (ctx : Nat) (f : Finding) : Nat → List (Nat × Nat) → State
  | 0, _ => s
  | fuel + 1, ns =>
    let r : Report :=
      { type := f.type, stamp := some (s.reading * 2 ^ 21), find := (s.ctxAt ctx).findNo, detail := f.detail, more := decide (5 < ns.length)
        nodes := ns.take 5 }
    let s1 := s.report ctx r
    if ns.length ≤ 5 then s1 else State.reportNodes s1 ctx f fuel (ns.drop 5)

/-- The state with a finding reported to its contexts, unless it has been (R353). -/
def State.reportFinding (s : State) (f : Finding) : State :=
  f.ctxs.foldl (fun s ctx =>
    if (s.ctxAt ctx).findings.contains (f.type, f.key) then s
    else
      let s1 := s.reportNodes ctx f (f.nodes.length + 1) (f.nodes.map (s.nodeWords ctx))
      s1.updCtx ctx fun c => { c with findings := c.findings ++ [(f.type, f.key)], findNo := c.findNo + 1 }) s

/-- A reading of the wait-for graph is due: every 2^21 clocks (R352). -/
def State.readingDue (s : State) : Bool := decide (s.reading < s.cycle / 2 ^ 21)

/-- WAIT_FOR_READING (R352 to R354). -/
def execWaitForReading (s : State) : Out :=
  .next (s.findings.foldl State.reportFinding { s with reading := s.cycle / 2 ^ 21 })

end Sys2Proof.Machine
end

