-- ==== Sys2Proof/Machine/Debug.lean ====
section
/-! DEFINITION. Debug requests (spec/20_replay.md R467). -/

namespace Sys2Proof.Machine

/-- What DBGRSP holds after a refused request (R467). -/
def refusedRsp : DWord := 0xFFFFFFFFFFFFFFFF#64

/-- A master may debug a context (R4, R467): never one whose debuggable bit is 0; a confidential one only over its
SPDM session. -/
def State.mayDebug (s : State) (ctx m : Nat) : Bool :=
  let c := s.ctxAt ctx
  (tfind? s.ctxs ctx).isSome && c.debug && (if c.conf then onSession m c.tdi else s.mayUse ctx m)

/-- The state with a context's DBGRSP written. -/
def State.setRsp (s : State) (ctx : Nat) (v : DWord) : State := s.updCtx ctx fun c => { c with dbgrsp := v }

/-- A request that is not allowed (R394, R467): one by a master that may write the control page is answered, any
other is dropped. -/
def State.refuseDebug (s : State) (ctx m : Nat) : State :=
  if s.mayControl ctx m then s.setRsp ctx refusedRsp else s.drop

/-- The wave of a context that an identity word names: one on its core before one that is Saved. -/
def State.waveByIdent (s : State) (ctx ident : Nat) : Option Nat :=
  let ws := s.waves.filter fun w =>
    decide (w.2.ident.toNat = ident) && w.2.alive && decide ((s.launchAt w.2.launch).ctx = ctx)
  ((ws.find? fun w => decide (w.2.life ≠ .saved)).or ws.head?).map Prod.fst

/-- A debug request about a wave (R467). -/
def State.debugReq (s : State) (ctx m ident : Nat) (k : Nat → State) : Out :=
  if !s.mayDebug ctx m then .next (s.refuseDebug ctx m)
  else match s.waveByIdent ctx ident with
  | none => .next (s.setRsp ctx refusedRsp)
  | some w => .next (k w)

/-- HALT (R467): the wave stops at an instruction boundary. -/
def execHalt (ctx master ident : Nat) (s : State) : Out :=
  s.debugReq ctx master ident fun w => s.updWave w fun v => { v with halted := true, steps := none }

/-- RESUME (R467). -/
def execResume (ctx master ident : Nat) (s : State) : Out :=
  s.debugReq ctx master ident fun w => s.updWave w fun v => { v with halted := false, steps := none }

/-- STEP (R467): the wave halts again after the count of instructions. -/
def execStep (ctx master ident count : Nat) (s : State) : Out :=
  s.debugReq ctx master ident fun w => s.updWave w fun v =>
    if count = 0 then { v with halted := true, steps := none } else { v with halted := false, steps := some count }

/-- A register that an operand names (R467, log 17): a vector register's lane with bit 23 set, by its physical number
and lane, or a system register. -/
inductive DebugReg where
  | vec (reg lane : Nat)
  | sys (n : Nat)
  deriving DecidableEq, Repr

/-- The register of an operand of a wave; none when there is no such register. -/
def Wave.debugReg (w : Wave) (operand : Nat) : Option DebugReg :=
  if operand / 2 ^ 23 % 2 = 1 then
    let r := operand % 2 ^ 9
    let l := operand / 2 ^ 9 % 64
    if r < w.nregs && decide (l < w.width) then some (.vec r l) else none
  else
    let n := operand % 2 ^ 7
    if n < 25 || (decide (32 ≤ n) && decide (n < 80)) || (decide (96 ≤ n) && decide (n < 104)) then some (.sys n)
    else none

/-- READ_REGISTER (R467). -/
def execReadRegister (ctx master ident operand : Nat) (s : State) : Out :=
  s.debugReq ctx master ident fun w =>
    match (s.waveAt w).debugReg operand with
    | none => s.setRsp ctx refusedRsp
    | some (.vec r l) => s.setRsp ctx ((lane (tget (s.waveAt w).regs.vregs r []) l).setWidth 64)
    | some (.sys n) => s.setRsp ctx ((({ s with cur := w } : State).sysRead n).setWidth 64)

/-- The registers with one lane of a physical vector register written whole (R429). -/
def WaveRegs.pokeLane (r : WaveRegs) (k l : Nat) (x : Word) : WaveRegs :=
  let old := tget r.vregs k []
  { r with
    vregs := tset r.vregs k (mkLanes fun i => if i = l then x else lane old i)
    vpois := terase r.vpois (k * 64 + l) }

/-- WRITE_REGISTER (R467): the low word of DBGRSP is written; a system register that is only read is refused. -/
def execWriteRegister (ctx master ident operand : Nat) (s : State) : Out :=
  s.debugReq ctx master ident fun w =>
    let v := s.waveAt w
    let x := loWord (s.ctxAt ctx).dbgrsp
    match v.debugReg operand with
    | none => s.setRsp ctx refusedRsp
    | some (.vec r l) => s.updWave w fun v => { v with regs := v.regs.pokeLane r l x }
    | some (.sys n) =>
      if !sysWritable n then s.setRsp ctx refusedRsp
      else s.updWave w fun v => { v with
        regs := v.regs.sysWrite v.width (privBound (s.launchAt v.launch).privstr v.width) n x }

/-- The plain bytes of a context's sections in the image scanned last; none without one (R467). -/
def State.lastSections (s : State) (ctx : Nat) : Option (List Byte) :=
  (s.images.getLast?).map fun x => ({ s with toDomain := x.domain } : State).ownBytes x.gates ctx

/-- READ_ATTIC_SECTIONS (R467): eight bytes of the context's sections of the last scan, plain; the operand numbers them, and
past the end they are free (log 17). Without an image there is none. -/
def execReadAtticSections (ctx master operand : Nat) (s : State) : Out :=
  if !s.mayDebug ctx master then .next (s.refuseDebug ctx master)
  else match s.lastSections ctx with
  | none => .next (s.setRsp ctx refusedRsp)
  | some bs =>
    .next (s.drawn.setRsp ctx
      (if 8 * operand + 8 ≤ bs.length then BitVec.ofNat 64 (fld bs (8 * operand) 8) else Config.freeValue s.fresh))

end Sys2Proof.Machine
end

