-- ==== Sys2Proof/Machine/Faults.lean ====
section
/-! DEFINITION. Answers to what waits in the fault replay buffers (spec/16_contexts.md R369, R370; spec/17_host.md
R393), the shoot-down of a read-only page (spec/10_copy_fabric.md R280) and uncorrectable errors
(spec/19_recovery.md R427). -/

namespace Sys2Proof.Machine

/-! ### Answers -/

/-- The buffer with the first entry that satisfies a test answered. -/
def answerOne (f : FrbEntry → Bool) (a : Bool × Nat) : List FrbEntry → List FrbEntry
  | [] => []
  | e :: es => if f e then { e with answer := some a } :: es else e :: answerOne f a es

/-- The buffer with every entry that satisfies a test answered. -/
def answerAll (f : FrbEntry → Bool) (a : Bool × Nat) (es : List FrbEntry) : List FrbEntry :=
  es.map fun e => if f e then { e with answer := some a } else e

/-- An entry that waits for the service cores about a page of a context. -/
def FrbEntry.asks (e : FrbEntry) (kind : FrbKind) (ctx page : Nat) : Bool :=
  decide (e.kind = kind) && decide (e.ctx = ctx) && decide (e.page = page) && e.answer.isNone

/-- Where the leaf entry of an address lies, from a table of a level downwards (R367). -/
def State.leafAt (s : State) (ctx va : Nat) : Nat → Nat → Nat → Option (Nat × Nat)
  | level, tier, base =>
    match placeOf (s.anyHostPage ctx) tier (base + 8 * tableIndex level va) with
    | none => none
    | some a =>
      let e := leNat (s.readTier tier a 8)
      if !exists? tier a 8 || !entryBit e 0 || entryBad e then none
      else
        match level with
        | 0 => some (tier, a)
        | l + 1 =>
          if entryBit e 1 then if 2 ≤ l then none else some (tier, a)
          else State.leafAt s ctx va l (entryTier e) (entryAddr e)

/-- The state with a bit of the leaf entry of an address written by the service cores (R367). -/
def State.setLeafBit (s : State) (ctx va bit : Nat) (on : Bool) : State :=
  match s.leafAt ctx va 4 0 (s.ctxAt ctx).ptbase.toNat with
  | none => s
  | some (t, a) =>
    let e := leNat (s.readTier t a 8)
    s.writeTier t a (leBytes 8 (if on = entryBit e bit then e else if on then e + 2 ^ bit else e - 2 ^ bit))

/-- Where the entry with v = 0 lies at which the walk of an address ends, from a table of a level downwards (R369). -/
def State.absentAt (s : State) (ctx va : Nat) : Nat → Nat → Nat → Option (Nat × Nat)
  | level, tier, base =>
    match placeOf (s.anyHostPage ctx) tier (base + 8 * tableIndex level va) with
    | none => none
    | some a =>
      let e := leNat (s.readTier tier a 8)
      if !exists? tier a 8 then none
      else if !entryBit e 0 then some (tier, a)
      else if entryBad e then none
      else
        match level with
        | 0 => none
        | l + 1 => if entryBit e 1 then none else State.absentAt s ctx va l (entryTier e) (entryAddr e)

/-- The state in which the policy of a context has provided for an address: it writes the entry at which the walk ended,
with a value that the spec leaves to it (R369; log 9). -/
def State.providePage (s : State) (ctx va : Nat) : State :=
  match s.absentAt ctx va 4 0 (s.ctxAt ctx).ptbase.toNat with
  | none => s
  | some (t, a) => s.writeTier t a (leBytes 8 (Config.freeValue (s.fresh + 1)).toNat)

/-- FAULT_REPLY (R369, R370): the oldest request about the page is answered; without a policy it is
unresolvable, with a response code that the spec does not give (log 9). -/
def execFaultReply (ctx va : Nat) (ok : Bool) (code : Nat) (s : State) : Out :=
  let f := fun e : FrbEntry => e.asks .service ctx (va / 2 ^ 16)
  if !s.frb.any f then .next s
  else if (s.ctxAt ctx).policy then
    let s1 := if ok then s.providePage ctx va else s
    .next ({ s1 with fresh := s.fresh + 2, frb := answerOne f (ok, code) s.frb } : State).retryPosts
  else
    let a := (false, (Config.freeValue s.fresh).toNat % 2 ^ 32)
    .next ({ s.drawn with frb := answerOne f a s.frb } : State).retryPosts

/-! ### Migration -/

/-- A page that has moved (R211): tier, address and size, and where it lies now. -/
structure Moved where
  tier : Nat
  pa   : Nat
  n    : Nat
  to_  : Nat
  at_  : Nat
  deriving DecidableEq, Repr

/-- A physical address after a page has moved. -/
def Moved.place (m : Moved) (tier pa : Nat) : Nat × Nat :=
  if tier = m.tier && decide (m.pa ≤ pa) && decide (pa < m.pa + m.n) then (m.to_, m.at_ + (pa - m.pa)) else (tier, pa)

/-- The place of an access after a page has moved. -/
def Moved.access (m : Moved) (x : Place) : Place :=
  { x with tier := (m.place x.tier x.pa).1, pa := (m.place x.tier x.pa).2 }

/-- The number of a granule, and of a granule's tags in a context, after a page has moved. -/
def Moved.granule (m : Moved) (g : Nat) : Nat :=
  let old := Machine.granule m.tier m.pa
  let k := g % 2 ^ 64
  if old ≤ k && decide (k < old + m.n / 32) then g - k + Machine.granule m.to_ m.at_ + (k - old) else g

/-- Held stores and tracked loads of a speculating wave after a page has moved. -/
def Moved.spec (m : Moved) (sp : Spec) : Spec :=
  { sp with
    held := sp.held.map fun h =>
      if h.pad then h
      else { h with
        cells := h.cells.map fun c => let p := m.place c.1 c.2.1; (p.1, p.2, c.2.2)
        places := h.places.map m.access }
    tracked := sp.tracked.map fun x => (m.access x.1, x.2) }

/-- Nothing is known of the bytes of a frame: memory lists none, and no poison and no tag stands there. -/
def State.frameFree (s : State) (tier at_ n : Nat) : Bool :=
  let out := fun g => decide (g < granule tier at_) || decide (granule tier at_ + n / 32 ≤ g)
  ((if tier = 0 then s.hbm else s.ddr).all fun c => decide (c.1 < at_) || decide (at_ + n ≤ c.1)) && s.poison.all out &&
    s.tags.all fun x => out (x.1 % 2 ^ 64)

/-- A migration that ends: the leaf's page, and the frame that the policy of the service cores picks, when nothing is
known of its bytes (log 59). -/
def State.migration (s : State) (ctx va : Nat) : Option Moved :=
  match s.walk (s.anyHostPage ctx) va 4 0 (s.ctxAt ctx).ptbase.toNat with
  | .leaf l e =>
    let n := 2 ^ pageShift l
    let x := Config.migTarget s.fresh
    let to_ := x.1 % 2
    let at_ := x.2 % ((if to_ = 0 then Config.hbmBytes else 2 ^ 41) / n) * n
    let m : Moved := { tier := entryTier e, pa := entryAddr e / n * n, n := n, to_ := to_, at_ := at_ }
    if s.frameFree to_ at_ n && decide (m.tier < 2) && decide ((m.tier, m.pa) ≠ (to_, at_)) then some m else none
  | _ => none

/-- The state in which a page has moved (R211): its bytes, its poison, its tags and what waits at its addresses. -/
def State.movePage (s : State) (m : Moved) : State :=
  let mem := if m.tier = 0 then s.hbm else s.ddr
  let cells := (mem.filter fun c => decide (m.pa ≤ c.1) && decide (c.1 < m.pa + m.n)).map fun c =>
    (m.to_, m.at_ + (c.1 - m.pa), c.2)
  let s1 := s.writeCells cells
  { s1.dropLines m.tier m.pa m.n with
    poison := s.poison.map m.granule
    tags := s.tags.map fun x => (m.granule x.1, x.2)
    reserved := s.reserved.map fun r => { r with places := r.places.map m.access }
    waves := tmap (fun _ w => { w with spec := w.spec.map m.spec }) s.waves }

/-- The state with the address and tier of the leaf entry of an address written by the service cores (R367). -/
def State.setLeafPlace (s : State) (ctx va : Nat) (m : Moved) : State :=
  match s.leafAt ctx va 4 0 (s.ctxAt ctx).ptbase.toNat with
  | none => s
  | some (t, a) =>
    let e := leNat (s.readTier t a 8)
    s.writeTier t a (leBytes 8 (e / 2 ^ 56 * 2 ^ 56 + m.at_ / 2 ^ 8 % 2 ^ 48 * 2 ^ 8 +
      e % 2 ^ 8 - entryTier e * 2 ^ 4 + m.to_ * 2 ^ 4))

/-- The number, in units of 64 KiB, at which the page of an address begins (R367). -/
def State.pageStart (s : State) (ctx va : Nat) : Nat :=
  match s.walk (s.anyHostPage ctx) va 4 0 (s.ctxAt ctx).ptbase.toNat with
  | .leaf l _ => va / 2 ^ pageShift l * 2 ^ pageShift l / 2 ^ 16
  | _ => va / 2 ^ 16

/-- MIG_CLEAR (R211, R367, R369): the page is where the service cores have moved it, its tags with it; its mig bit is
cleared, and the accesses that wait for it go on. -/
def execMigClear (ctx va : Nat) (s : State) : Out :=
  let s0 : State := { s.drawn with tlb := s.tlb.filter fun t => !t.maps ctx va }
  let s1 := match s.migration ctx va with
    | none => s0
    | some m => (s0.movePage m).setLeafPlace ctx va m
  let s2 := s1.setLeafBit ctx va 6 false
  let page := s.pageStart ctx va
  .next ({ s2 with frb := answerAll (fun e => e.asks .mig ctx page) (true, 0) s2.frb } : State).retryPosts

/-! ### The host's answers -/

/-- The state with a translation of the host in the TLBs of the cores whose accesses have asked for it (R392). -/
def State.cacheHost (s : State) (ctx page host : Nat) (w : Bool) : State :=
  let locs := ((s.frb.filter fun e => e.asks .ats ctx page).flatMap fun e => s.tlbs (s.coreOf e.party)).eraseDups
  s.fillTlb (locs.map fun l => { loc := l, ctx := ctx, page := page, shift := 12, leaf := 0, host := some (host, w) })

/-- The state after the host's answer to a translation request (R369, R392): what it grants is cached, the entries that
wait for it hold it, and an access that needs more makes a page request. -/
def State.translated (s : State) (ctx page host : Nat) (r w : Bool) : State :=
  if !s.frb.any fun e => e.asks .ats ctx page then s
  else
    let s1 := if r then s.cacheHost ctx page host w else s
    let s2 : State := { s1 with
      frb := s.frb.map fun e =>
        if e.asks .ats ctx page then
          let e1 := if r then { e with host := some (host, w) } else e
          if r && (w || !e.write) then { e1 with answer := some (true, 0) } else { e1 with kind := .pri }
        else e }
    s2.sendPri.retryPosts

/-- A page request that has been sent. -/
def FrbEntry.sentFor (e : FrbEntry) (ctx page : Nat) : Bool := e.asks .pri ctx page && e.sent.isSome

/-- PRI_RESPONSE (R369, R370, R393): upon success (code 0) the accesses that share the request ask for the translation
again; another code is the fault's. The host's answer to that request says which right it grants. -/
def execPriResponse (ctx va : Nat) (_w : Bool) (code : Nat) (s : State) : Out :=
  let page := va / 4096
  let mine := s.frb.filter fun e => e.sentFor ctx page
  if mine.isEmpty then .next s
  else if code = 0 then
    let s1 : State := { s with
      frb := s.frb.map fun e => if e.sentFor ctx page then { e with kind := .ats, sent := none } else e
      outbox := s.outbox ++ [.ats (s.ctxAt ctx).pasid page (mine.any FrbEntry.write)] }
    .next s1.sendPri
  else
    let s1 : State := { s with frb := answerAll (fun e => e.sentFor ctx page) (false, code) s.frb }
    .next s1.sendPri.retryPosts

/-- Clocks of 10 ms, after which a page request has failed (R369, R479). -/
def priLimit : Nat := 14000000

/-- A page request that has run out of time (R369). -/
def State.priExpired (s : State) (e : FrbEntry) : Bool :=
  decide (e.kind = .pri) && e.answer.isNone && e.sent.any fun t => decide (t + priLimit ≤ s.cycle)

/-- PRI_TIMEOUT (R369): the response code is that of no response, which the spec does not number (log 9). -/
def execPriTimeout (ctx va : Nat) (s : State) : Out :=
  let page := va / 4096
  if !s.frb.any fun e => e.sentFor ctx page && s.priExpired e then .next s
  else
    let a := (false, (Config.freeValue s.fresh).toNat % 2 ^ 32)
    let s1 : State := { s.drawn with frb := answerAll (fun e => e.sentFor ctx page && s.priExpired e) a s.frb }
    .next s1.sendPri.retryPosts

/-- An I/O page of a context lies under an invalidation (R393). -/
def State.invalidates (s : State) (v : Inval) (ctx page : Nat) : Bool :=
  decide ((s.ctxAt ctx).pasid = v.pasid) && decide (page * 4096 < v.base + v.len) &&
    decide (v.base < (page + 1) * 4096)

/-- An access of a context that was accepted under a translation that is being invalidated, and is not yet performed at
the host (R393). -/
def State.inFlight (s : State) (v : Inval) (ctx : Nat) (ps : List Place) : Bool :=
  ps.any fun x => decide (x.tier = 2) && s.invalidates v ctx x.io

/-- The accesses accepted under an invalidation's translations have all been performed at the host: no held store and no
reserved access of another rank is left of them; every other has been performed when it was accepted (log 5). -/
def State.invalOver (s : State) (v : Inval) : Bool :=
  (s.waves.all fun w => w.2.spec.all fun sp => sp.held.all fun h => !s.inFlight v (s.launchAt w.2.launch).ctx h.places) &&
    s.reserved.all fun r => !s.inFlight v r.ctx r.places

/-- The state with the invalidations complete that are over (R393). -/
def State.settleInvals (s : State) : State :=
  let done := s.invals.filter s.invalOver
  if done.isEmpty then s
  else { s with
    invals := s.invals.filter fun v => !s.invalOver v
    outbox := s.outbox ++ done.map fun v => .atsDone v.pasid v.base v.len }

/-- ATS_INVALIDATION (R393): the translations of the PASID's contexts in the range are dropped; it completes when what was
accepted under them has been performed. -/
def execAtsInvalidation (pasid base len : Nat) (s : State) : Out :=
  let v : Inval := { pasid := pasid, base := base, len := len }
  let s1 : State := { s with
    tlb := s.tlb.filter fun e => !(e.host.isSome && s.invalidates v e.ctx e.page)
    frb := s.frb.map fun e => if e.host.isSome && s.invalidates v e.ctx e.page then { e with host := none } else e
    invals := s.invals ++ [v] }
  .next s1.settleInvals

/-! ### Shoot-downs -/

/-- The bytes of the page that an address lies in: tier, address, size. -/
def State.pageOf (s : State) (ctx va : Nat) : Option (Nat × Nat × Nat) :=
  match s.walk (s.anyHostPage ctx) va 4 0 (s.ctxAt ctx).ptbase.toNat with
  | .leaf l e => some (entryTier e, entryAddr e / 2 ^ pageShift l * 2 ^ pageShift l, 2 ^ pageShift l)
  | _ => none

/-- The state with the copies of a page discarded. -/
def State.dropPage (s : State) (ctx va : Nat) : State :=
  match s.pageOf ctx va with
  | none => s
  | some (t, a, n) => s.dropLines t a n

/-- The state with a page writable and tracked, without live tags (R280 step 3). -/
def State.makeWritable (s : State) (ctx va : Nat) : State :=
  let s1 := s.setLeafBit ctx va 2 true
  let s2 : State := { s1 with tlb := s1.tlb.filter fun t => !t.maps ctx va }
  match s.pageOf ctx va with
  | none => s2
  | some (t, a, n) => { s2 with tags := s2.tags.filter fun x =>
      !(decide (tagKey ctx t a ≤ x.1) && decide (x.1 < tagKey ctx t a + n / 32)) }

/-- SHOOTDOWN (R280): the four steps at the home of a read-only page; step 2 at another rank discards its copies
and acknowledges. A step that is not next does nothing. -/
def execShootdown (ctx va phase : Nat) (s : State) : Out :=
  let page := va / 2 ^ 16
  let at_ := s.shoot.find? fun x => decide (x.ctx = ctx) && decide (x.page = page)
  let put := fun (s : State) (n : Nat) => ({ s with shoot := s.shoot.map fun x =>
    if x.ctx = ctx && x.page = page then { x with step := n } else x } : State)
  match at_ with
  | none =>
    if phase = 1 then .next { s with shoot := s.shoot ++ [({ ctx := ctx, page := page, step := 1 } : Shoot)] }
    else if phase = 2 then
      .next { s.dropPage ctx va with outbox := s.outbox ++ [.message .shootdown [ctx, page]] }
    else .next s
  | some x =>
    if phase = 2 && decide (x.step = 1) then .next (put (s.dropPage ctx va) 2)
    else if phase = 3 && decide (x.step = 2) then .next (put (s.makeWritable ctx va) 3)
    else if phase = 4 && decide (x.step = 3) then
      .next { s with
        shoot := s.shoot.filter fun y => !(y.ctx = ctx && decide (y.page = page))
        outbox := s.outbox ++ [.message .shootdown [ctx, page]] }
    else .next s

/-! ### Uncorrectable errors -/

/-- Numbers added to a list that does not hold them. -/
def addAll (xs ys : List Nat) : List Nat := xs ++ ys.filter fun y => !xs.contains y

/-- The state with the data of an error poisoned (R427): of DDR-5 each granule of the burst of 64 bytes, of a dirty line
each of its granules. A word struck in place was brought by no load: a POISON of it names address 0, no peer and kind 0
(log 54). -/
def State.strike (s : State) : ErrLoc → State
  | .vreg w reg l => s.updWave w fun v =>
      let r := v.regs
      { v with regs := { r with vpois := tset r.vpois (reg * 64 + l) {} } }
  | .sreg w reg => s.updWave w fun v =>
      let r := v.regs
      { v with regs := { r with spois := tset r.spois reg {} } }
  | .fpc w l => s.updWave w fun v =>
      let r := v.regs
      { v with regs := { r with vpois := tset r.vpois (fpcKey * 64 + l) {} } }
  | .tile w t e => s.updWave w fun v =>
      let x := v.regs.tile t
      { v with regs := v.regs.setTile t { x with pois := addAll x.pois [e] } }
  | .shelf b k e => s.updBlock b fun x =>
      let y := tget x.shelf k {}
      { x with shelf := tset x.shelf k { y with pois := addAll y.pois [e] } }
  | .scratch b a => s.updBlock b fun x => { x with spois := addAll x.spois [a / 4] }
  | .line b l => s.updBlock b fun x => { x with spois := addAll x.spois ((List.range 32).map fun i => 32 * l + i) }
  | .imem c k i => s.updCore c fun x =>
      let y := tget x.slots k {}
      { x with slots := tset x.slots k { y with pois := addAll y.pois [i] } }
  | .granule t a =>
    if t = 1 then s.poisonGranules [granule t (a / 64 * 64), granule t (a / 64 * 64 + 32)]
    else s.poisonGranules [granule t a]
  | .tags t a => s.poisonGranules [granule t a]
  | .cache _ t a => s.poisonGranules ((List.range 4).map fun i => granule t (a / 128 * 128 + 32 * i))

/-- The place of an error that exists in the machine: a wave's, a block's, an instruction memory's that is there. -/
def State.struck (s : State) : ErrLoc → Bool
  | .vreg w reg l => (tfind? s.waves w).isSome && (decide (reg < (s.waveAt w).nregs) ||
      (decide (1024 ≤ reg) && decide (reg < 1032))) && decide (l < (s.waveAt w).width)
  | .sreg w reg => (tfind? s.waves w).isSome && (decide (reg < 128) || (decide (1024 ≤ reg) && decide (reg < 1032)))
  | .fpc w l => (tfind? s.waves w).isSome && decide (l < (s.waveAt w).width)
  | .tile w t e => (tfind? s.waves w).isSome && decide (t < (s.waveAt w).ntiles) && decide (e < 1024)
  | .shelf b k e => (tfind? s.blocks b).isSome && ((s.blockAt b).shelf.any fun x => x.1 = k) && decide (e < 1024)
  | .scratch b a => (tfind? s.blocks b).isSome && decide (a < (s.blockAt b).ssize)
  | .line b l => (tfind? s.blocks b).isSome && decide (128 * l < (s.blockAt b).ssize)
  | .imem c k i => decide (c < 48) && decide (k < 4) && decide (i < 16384)
  | .granule t a => decide (t < 2) && exists? t a 1
  | .tags t a => exists? t a 1
  | .cache d t a => decide (d < 4) && exists? t a 1

/-- The die, context and, where there is one, physical address of an error's record (R431). -/
def State.errPlace (s : State) : ErrLoc → Nat × Nat × Option Nat
  | .vreg w _ _ | .sreg w _ | .fpc w _ | .tile w _ _ =>
    (s.dieOf (s.waveAt w).core, (s.launchAt (s.waveAt w).launch).ctx, none)
  | .shelf b _ _ | .scratch b _ | .line b _ =>
    (s.dieOf ((s.blockAt b).cores.headD 0), (s.launchAt (s.blockAt b).launch).ctx, none)
  | .imem c _ _ => (s.dieOf c, noCtx, none)
  | .granule _ a => (4, noCtx, some (a / 32 * 32))
  | .tags t a => (Config.homeHash (granule t a / 4) % 192 / 48, noCtx, some (a / 32 * 32))
  | .cache d _ a => (d, noCtx, some (a / 32 * 32))

/-- UNCORRECTABLE_ERROR (R427, R431): the data is poisoned, a POISONED record is written. A place without a physical
address gives a free value there (log 9). -/
def execUncorrectableError (e : ErrLoc) (s : State) : Out :=
  if !s.struck e then .next s
  else
    let x := s.errPlace e
    let phys := x.2.2.getD (Config.freeValue s.fresh).toNat
    .next (({ s.strike e with fresh := s.fresh + 1 } : State).errRecord .poisoned x.1 0 x.2.1 phys 0)

/-- The state after an error that has been corrected (R427, R428): a clean line or a TLB's entry is dropped, and each
counts in the error log. What has no die or no physical address shows free values there (log 9). -/
def State.correct (s : State) : Corrected → State
  | .word die ctx phys => s.corrRecord die ctx phys
  | .line t a => (s.drawn.dropLines t (a / 128 * 128) 128).corrRecord ((Config.freeValue s.fresh).toNat % 4) noCtx a
  | .tlb loc ctx page =>
    ({ s.drawn with tlb := s.tlb.filter fun t => !(t.loc = loc && t.ctx = ctx && t.page = page) } : State).corrRecord
      (if loc < 1024 then loc / 16 else loc - 1024) ctx (Config.freeValue s.fresh).toNat

end Sys2Proof.Machine
end

