-- ==== Sys2Proof/Machine/Fabric.lean ====
section
/-! DEFINITION. The links to other ranks (spec/10_copy_fabric.md R273, R274), the loss of a rank
(spec/19_recovery.md R436), heartbeats, the alignment of job cycles (spec/20_replay.md R466), refresh rates and
Ethernet frames (R448). A rank number names the same package in every job (log 18). -/

namespace Sys2Proof.Machine

/-! ### Ends of accesses -/

/-- The passes of a wave to a rank. -/
def Wave.passesTo (w : Wave) (rank : Nat) : List Pass :=
  (w.loads.flatMap PendLoad.passes ++ w.stores.flatMap PendStore.passes).filter fun p => p.rank = rank

/-- The state with a wave's accesses to a rank ended (R274, R436). -/
def State.cutWave (s : State) (rank k : Nat) : State :=
  (((s.waveAt k).passesTo rank).foldl (fun s p =>
    s.passAnswered k { rank := rank, ident := 0, seq := p.id, code := 14 } []) s).updWave k fun w =>
      { w with homes := w.homes.filter fun r => r ≠ rank, ending := w.ending.filter fun r => r.1 ≠ rank }

/-- The copies that wait for an answer of a rank, of the contexts that a test picks. -/
def State.copiesTo (s : State) (rank : Nat) (f : Nat → Bool) : List (Nat × Nat) :=
  s.cores.flatMap fun c =>
    (c.2.copyq.filter fun e => e.2.busy && e.2.waiting && s.copyRemote c.1 e.1 && decide (e.2.peer = rank) &&
      f (s.copyActor c.1 e.1).ctx).map fun e => (c.1, e.1)

/-- The state with every access to a rank ended, of the contexts that a test picks (R274, R436). -/
def State.cutAccesses (s : State) (rank : Nat) (f : Nat → Bool) : State :=
  let ks := (s.waves.filter fun w => w.2.alive && f (s.launchAt w.2.launch).ctx).map Prod.fst
  let s1 := ks.foldl (fun s k => s.cutWave rank k) s
  (s1.copiesTo rank f).foldl (fun s c =>
    let x := (s.entryAt c.1 c.2).closing.getD (14, 0)
    s.endCopy c.1 c.2 x.1 x.2) s1

/-! ### The loss of a rank -/

/-- A line that a transfer of a rank had left FILLING, emptied (R433, R436). -/
def Line.cut (l : Line) (rank : Nat) : Line :=
  match l.owner with
  | .xfer x =>
    if l.st = .filling && decide (x.issuer / 2 ^ 28 % 16 = rank) then
      { l with st := .empty, owner := .none, mask := 0, wrote := [] }
    else l
  | .none | .wave _ => l

/-- A reduction region after the loss of a rank (R436): held contributions of it go, and a SUM region that lacks one that
the rank owed. What a rank owes a region is the programs' agreement: `owed` says it (log 45). -/
def Region.cut (g : Region) (rank : Nat) (owed : Bool) : Region :=
  { g with waiting := g.waiting.filter fun c => c.rank ≠ rank, parts := if owed then [] else g.parts }

/-- A member of a quorum at a rank that is known here, the home, by its votes (R313). -/
def Quorum.memberAt (e : Quorum) (rank : Nat) : Option Nat :=
  (e.seen.find? fun m => !m.2 && decide (m.1 / 2 ^ 28 % 16 = rank)).map fun m => m.1 % 2 ^ 32

/-- Whether a quorum that has its home here has lost a member with a rank (R436). Members that are not bound here are
known by their votes, and in a job of two ranks; whether one that is not known belongs to the rank is a free value
(log 9, log 45). -/
def State.quorumLost (s : State) (c : Ctx) (e : Quorum) (rank : Nat) : Bool :=
  (e.memberAt rank).isSome || (decide (e.bound + e.seen.length < e.members) &&
    (decide (c.jobSize = 2) || (Config.freeValue s.fresh).getLsbD 0))

/-- The state with a context's quorums poisoned by the loss of a rank (R321, R436): those that had their home there, and
those of here that lost a member, of which the other ranks are told. A member that is not known here has a free identity
(log 9). -/
def State.cutQuorums (s : State) (ctx rank : Nat) : State :=
  let c := s.ctxAt ctx
  c.quorums.foldl (fun s q =>
    let ident := (q.2.memberAt rank).getD (rank * 2 ^ 28 + (Config.freeValue s.fresh).toNat % 2 ^ 28)
    if q.2.home = rank then s.drawn.poisonLocal ctx q.1 ident 0
    else if q.2.home = c.rank && s.quorumLost c q.2 rank then s.drawn.poisonQuorum ctx q.1 ident 0
    else s.drawn) s

/-- The state with the reduction regions of a context cut by the loss of a rank (R436), each with a free value for what the
rank owed it (log 45). -/
def State.cutRegions (s : State) (ctx rank : Nat) : State :=
  (s.ctxAt ctx).regions.foldl (fun s g =>
    s.drawn.updCtx ctx fun c => { c with
      regions := tset c.regions g.1 (g.2.cut rank ((Config.freeValue s.fresh).getLsbD 0)) }) s

/-- The state with every access ended that can reach its rank no longer, over a link or a detour (R274). -/
def State.cutUnreached (s : State) : State :=
  s.linksDown.foldl (fun t r => t.cutAccesses r fun c => !s.reaches c r) s

/-- The state after a survivor has declared a rank lost: the five steps of R436. -/
def State.loseRank (s : State) (rank : Nat) : State :=
  let s0 : State := { s with lostRanks := addAll s.lostRanks [rank] }
  let s1 := s0.errRecord .rankLost 4 0 noCtx rank 0
  let s2 := s1.cutAccesses rank fun c => (s.ctxAt c).peers.contains rank
  let s3 : State := { s2 with
    blocks := tmap (fun _ b => { b with lines := tmap (fun _ l => l.cut rank) b.lines }) s2.blocks
    transfers := s2.transfers.filter fun t => t.rank ≠ rank
    waitReqs := s2.waitReqs.filter fun r => r.ident / 2 ^ 28 % 16 ≠ rank
    reserved := s2.reserved.filter fun r => r.tag.ident.toNat / 2 ^ 28 ≠ rank
    answers := s2.answers.filter fun a => a.rank ≠ rank
    waitContrs := s2.waitContrs.filter fun c => c.rank ≠ rank }
  let cs := (s3.ctxs.filter fun c => c.2.peers.contains rank).map Prod.fst
  (cs.foldl (fun s c => (s.cutQuorums c rank).cutRegions c rank) s3).cutUnreached

/-- A rank is a peer of some job here, and not lost. -/
def State.isPeer (s : State) (rank : Nat) : Bool :=
  !s.lostRanks.contains rank && s.ctxs.any fun c => c.2.peers.contains rank

/-- A peer has been silent for HBLOST µs (R431, R436). -/
def State.silent (s : State) (rank : Nat) : Bool :=
  s.isPeer rank && decide (tget s.heard rank 0 + max s.hblost 100 * 1400 ≤ s.cycle)

/-- RANK_LOST (R436). -/
def execRankLost (rank : Nat) (s : State) : Out :=
  if s.silent rank then .next (s.loseRank rank) else .next s

/-- Clocks between heartbeats: 10 µs (R436). -/
def beatPeriod : Nat := 14000

/-- The ranks that are peers here. -/
def State.peerRanks (s : State) : List Nat := (List.range 16).filter s.isPeer

/-- The rank is this package's in some job here. -/
def State.isOwn (s : State) (rank : Nat) : Bool := s.ctxs.any fun c => c.2.rank = rank

/-- DEPARTURE_FLIT (R436): the peer is declared lost on receipt; this package's own, when its firmware meets a fatal
error, goes to its peers. -/
def execDepartureFlit (rank : Nat) (s : State) : Out :=
  if s.isPeer rank then .next (s.loseRank rank)
  else if s.isOwn rank then
    .next { s with outbox := s.outbox ++ s.peerRanks.map fun r => Outgoing.message .departure [r] }
  else .next s

/-- Heartbeats are due (R436). -/
def State.beatDue (s : State) : Bool := decide (s.beatAt + beatPeriod ≤ s.cycle) && !s.peerRanks.isEmpty

/-- HEARTBEAT (R436): one goes to every peer; or one of a peer's arrives. -/
def execHeartbeat (rank : Option Nat) (s : State) : Out :=
  match rank with
  | some r => .next { s with heard := tset s.heard r s.cycle }
  | none =>
    if s.beatDue then
      .next { s with
        beatAt := s.cycle, outbox := s.outbox ++ s.peerRanks.map fun r => Outgoing.message .heartbeat [r] }
    else .next s

/-! ### Links -/

/-- The lowest third rank that gives a detour to a peer (R274). -/
def State.detour (s : State) (rank : Nat) : Option Nat :=
  (List.range 16).find? fun r => decide (r ≠ rank) && s.isPeer r && !s.linksDown.contains r

/-- Clocks of the flowlet gap (R273), of 14 to 10 ns: a gap at or below the greatest path skew gives way to that and
100 ns, and one below 16 acts as 16. -/
def State.flowletGap (s : State) : Nat :=
  let g := s.flgap.toNat % 2 ^ 16
  14 * if g ≤ Config.pathSkew then Config.pathSkew + 10 else max g 16

/-- LINK_DOWN (R274, R431): traffic takes a detour; without one it fails. The port named in the record is a free
value (log 9). -/
def execLinkDown (rank : Nat) (s : State) : Out :=
  if s.linksDown.contains rank then .next s
  else
    let port := (Config.freeValue s.fresh).toNat % 16
    let s1 : State := { s.drawn with linksDown := s.linksDown ++ [rank] }
    match s1.detour rank with
    | some r =>
      let s2 : State := { s1 with resends := s1.resends ++ [(rank, s.cycle + s.flowletGap)] }
      .next (s2.errRecord .detour 4 port noCtx rank r).cutUnreached
    | none => .next (s1.errRecord .linkLost 4 port noCtx rank 0).cutUnreached

/-- The ranks whose flits may be resent over a detour by now (R274). -/
def State.resendDue (s : State) : List Nat := (s.resends.filter fun x => decide (x.2 ≤ s.cycle)).map Prod.fst

/-- DETOUR_RESEND (R274): unacknowledged flits go over the detour in their order, a flowlet gap after the failure. -/
def execDetourResend (rank : Nat) (s : State) : Out :=
  if s.resendDue.contains rank then
    let s1 : State := { s with resends := s.resends.filter fun x => x.1 ≠ rank }
    .next (if (s.detour rank).isSome then { s1 with outbox := s1.outbox ++ [.message .resend [rank]] } else s1)
  else .next s

/-- LINK_REPLAY (R274, R428): a flit is sent again, which counts as corrected. The error has no physical address:
the one recorded is a free value (log 9). -/
def execLinkReplay (port : Nat) (s : State) : Out :=
  let s1 := s.drawn.corrRecord 4 noCtx (Config.freeValue s.fresh).toNat
  .next { s1 with outbox := s1.outbox ++ [.message .resend [16 + port]] }

/-- PORT_DOWN (R274, R431): the peer named in the record is a free value, as no rule gives the wiring (log 9). -/
def execPortDown (port : Nat) (s : State) : Out :=
  if s.ports.contains port then .next s
  else
    .next (({ s.drawn with ports := s.ports ++ [port] } : State).errRecord .portDown 4 port noCtx
      ((Config.freeValue s.fresh).toNat % 16) 0)

/-! ### Alignment -/

/-- Clocks between alignment exchanges (R466). -/
def alignPeriod : Nat := 2 ^ 20

/-- This package is a rank other than 0 of a linked job. -/
def State.aligns (s : State) : Bool := s.ctxs.any fun c => decide (c.2.rank ≠ 0) && decide (1 < c.2.jobSize)

/-- An exchange is due (R466). -/
def State.alignDue (s : State) : Bool :=
  s.aligns && decide ((s.alignAt.getD 0) / alignPeriod < s.cycle / alignPeriod)

/-- ALIGNMENT_EXCHANGE (R466): a flit leaves for rank 0 at t1. -/
def execAlignmentExchange (s : State) : Out :=
  if s.alignDue then
    .next { s with alignAt := some s.cycle, outbox := s.outbox ++ [.message .align [s.cycle]] }
  else .next s

/-- ALIGNMENT_REPLY (R466): rank 0 receives a flit at t2 and replies in that clock, t3. -/
def execAlignmentReply (rank t1 : Nat) (s : State) : Out :=
  .next { s with outbox := s.outbox ++ [.message .alignReply [rank, t1, s.cycle, s.cycle]] }

/-- ALIGNOFS from the four times (R466): half the difference of the two ways, rounded toward zero. -/
def alignOffset (t1 t2 t3 t4 : Nat) : Int := (((t4 : Int) - t3) - ((t2 : Int) - t1)).tdiv 2

/-- ALIGNMENT_RESULT (R466): the reply arrives at t4; rank 0 keeps 0. -/
def execAlignmentResult (t1 t2 t3 : Nat) (s : State) : Out :=
  if s.aligns then .next { s with alignofs := BitVec.ofInt 64 (alignOffset t1 t2 t3 s.cycle) } else .next s

/-! ### Other arrivals -/

/-- REFRESH_RATE_CHANGE (R448): a sensor's request sets the refresh rate of its memory. -/
def execRefreshRateChange (sensor rate : Nat) (s : State) : Out :=
  .next { s with refresh := tset s.refresh sensor rate }

/-- ETHERNET_FRAME (R448): a frame passes its gate; the spec gives it no effect beyond that. -/
def execEthernetFrame (_port : Nat) (_data : List Nat) (s : State) : Out := .next s

end Sys2Proof.Machine
end

