-- ==== Sys2Proof/Machine/Special.lean ====
section
/-! DEFINITION. The special functions VSFU (spec/05_float.md R160 to R163). `frcp` and `frsq` are computed
exactly. The transcendental functions are computed in fixed point with units of 2^-p and an error
below 2^16 units; when the two ends of the interval have different leading digits, p is doubled. -/

namespace Sys2Proof.Machine

/-! ### Fixed-point series, in units of 2^-p -/

/-- Terms of the series of atan (alternating) and atanh of 1/q, from `t` = (1/q)^(2k+1). -/
def invSeries (alt : Bool) (q2 : Nat) : Nat → Nat → Nat → Int → Int
  | 0, _, _, acc => acc
  | n + 1, k, t, acc =>
    let u : Int := (t / (2 * k + 1) : Nat)
    invSeries alt q2 n (k + 1) (t / q2) (if alt && decide (k % 2 = 1) then acc - u else acc + u)

/-- atan(1/q). -/
def atanInv (q p : Nat) : Int := invSeries true (q * q) (p / 4 + 8) 0 (2 ^ p / q) 0

/-- ln 2 = 2 atanh(1/3). -/
def ln2Fix (p : Nat) : Nat := (2 * invSeries false 9 (p / 3 + 8) 0 (2 ^ p / 3) 0).toNat

/-- π/2 = 8 atan(1/5) − 2 atan(1/239). -/
def halfPiFix (p : Nat) : Nat := (8 * atanInv 5 p - 2 * atanInv 239 p).toNat

/-- Terms of the exponential series of `x`, from `t` = x^(k−1)/(k−1)!. -/
def expTerms (p x : Nat) : Nat → Nat → Nat → Nat → Nat
  | 0, _, _, acc => acc
  | n + 1, k, t, acc =>
    if t = 0 then acc
    else
      let u := t * x / 2 ^ p / k
      expTerms p x n (k + 1) u (acc + u)

/-- e^x for 0 ≤ x < 1. -/
def expFix (p x : Nat) : Nat := expTerms p x p 1 (2 ^ p) (2 ^ p)

/-- Terms of the sine and cosine series, `x2` the square of the argument, from the term `t` of degree
`d`. -/
def trigTerms (p x2 : Nat) : Nat → Nat → Nat → Bool → Int → Int
  | 0, _, _, _, acc => acc
  | n + 1, d, t, neg, acc =>
    if t = 0 then acc
    else
      let u : Int := (t : Nat)
      trigTerms p x2 n (d + 2) (t * x2 / 2 ^ p / ((d + 1) * (d + 2))) (!neg)
        (if neg then acc - u else acc + u)

/-- sin r for 0 ≤ r < 2. -/
def sinFix (p r : Nat) : Int := trigTerms p (r * r / 2 ^ p) p 1 r false 0

/-- cos r for 0 ≤ r < 2. -/
def cosFix (p r : Nat) : Int := trigTerms p (r * r / 2 ^ p) p 0 (2 ^ p) false 0

/-- Terms of the series of atanh z, from `t` = z^(2k+1). -/
def atanhTerms (p z2 : Nat) : Nat → Nat → Nat → Nat → Nat
  | 0, _, _, acc => acc
  | n + 1, k, t, acc =>
    if t = 0 then acc else atanhTerms p z2 n (k + 1) (t * z2 / 2 ^ p) (acc + t / (2 * k + 1))

/-- The number `n`·2^`e` in units of 2^-`p`, rounded down. -/
def toFix (p n : Nat) (e : Int) : Nat :=
  let k : Int := e + p
  if 0 ≤ k then n * 2 ^ k.toNat else n / 2 ^ (-k).toNat

/-- log₂ of `n`·2^`e` for `n` of `b` bits: the exponent of the leading bit and 2 atanh((m−1)/(m+1)) / ln 2
for the significand 1 ≤ m < 2. -/
def log2Fix (p n : Nat) (e : Int) : Int :=
  let k : Int := e + (bitLen n : Int) - 1
  let m := toFix p n (1 - (bitLen n : Int))
  let z := (m - 2 ^ p) * 2 ^ p / (m + 2 ^ p)
  let l := 2 * atanhTerms p (z * z / 2 ^ p) p 0 z 0
  k * 2 ^ p + ((l * 2 ^ p / ln2Fix p : Nat) : Int)

/-- The quadrant of `n`·2^`e` and what lies above it, as the number of quarter turns and a fixed-point
angle: exact reduction, with as many digits of π as the argument needs (R161). -/
def reduce (p n : Nat) (e : Int) : Nat × Nat :=
  let extra := 64 + (e + (bitLen n : Int)).toNat
  let p' := p + extra
  let h := halfPiFix p'
  let x := toFix p' n e
  (x / h % 4, x % h / 2 ^ extra)

/-- Sine after `q` quarter turns. -/
def quarterSin (p q r : Nat) : Int :=
  match q % 4 with
  | 0 => sinFix p r
  | 1 => cosFix p r
  | 2 => -sinFix p r
  | _ => -cosFix p r

/-! ### From an interval to a rounded result -/

/-- The largest error of a fixed-point value, in its units. -/
def fixErr : Nat := 2 ^ 16

/-- A fixed-point value whose interval lies between two neighbouring units, as a sign, a magnitude with the
true value strictly above it, and its exponent. -/
def settled (mbits p : Nat) (y : Int) : Option (Bool × Nat × Int) :=
  let m := y.natAbs
  if m ≤ 2 * fixErr then none
  else
    let lo := m - fixErr
    let hi := m + fixErr
    let j := bitLen lo - (mbits + 4)
    if bitLen lo < mbits + 24 then none
    else if lo / 2 ^ j = hi / 2 ^ j then some (decide (y < 0), lo / 2 ^ j, (j : Int) - p)
    else none

/-- A value computed with doubling precision until its leading digits are settled. -/
def settle (mbits : Nat) (y : Nat → Int) : Nat → Nat → Option (Bool × Nat × Int)
  | 0, _ => none
  | n + 1, p =>
    match settled mbits p (y p) with
    | some r => some r
    | none => settle mbits y n (2 * p)

/-- An irrational value rounded (R161). The true value lies in the interval of the last precision too: where that
does not settle the digits, one of its ends is rounded, which one is free (log 9). -/
def FFmt.roundReal (f : FFmt) (rm : Rnd) (flush : Bool) (op a : Nat) (scale : Int)
    (y : Nat → Int) : FRes :=
  match settle f.mbits y 6 160 with
  | some (neg, n, e) => f.round rm flush false neg n (e + scale) true
  | none =>
    let v := y 5120
    let m := if Config.unresolved op a then v.natAbs + fixErr else v.natAbs - fixErr
    f.round rm flush false (decide (v < 0)) m (scale - 5120) true

/-! ### The functions on a value that is no NaN (R161, R162) -/

/-- The bits of 1. -/
def FFmt.oneBits (f : FFmt) : Nat := f.bias * 2 ^ f.mbits

/-- 1 ÷ a. -/
def FFmt.rcp (f : FFmt) (rm : Rnd) (flush : Bool) (a : Nat) : FRes := f.div rm flush f.oneBits a

/-- 1 ÷ √a. -/
def FFmt.rsq (f : FFmt) (rm : Rnd) (flush : Bool) (a : Nat) : FRes :=
  if f.isZero a then { bits := f.infBits (f.neg a), flags := flagDZ }
  else if f.neg a then f.invalid
  else if f.isInf a then { bits := 0 }
  else
    let e := f.scale a
    let odd : Nat := if e % 2 = 0 then 0 else 1
    let s := f.sig a * 2 ^ odd
    let k := f.mbits + 4 + bitLen s
    let q := isqrt (2 ^ (2 * k) / s)
    f.round rm flush false false q (-((e - odd) / 2) - k) (decide (q * q * s ≠ 2 ^ (2 * k)))

/-- 2^a. -/
def FFmt.exp2 (f : FFmt) (rm : Rnd) (flush : Bool) (a : Nat) : FRes :=
  let n := f.sig a
  let e := f.scale a
  let top := e + (bitLen n : Int) - 1
  if f.isInf a then { bits := if f.neg a then 0 else a }
  else if f.isZero a then { bits := f.oneBits }
  else if 12 ≤ top then f.round rm flush false false 1 (if f.neg a then -20000 else 20000) true
  else if top < -62 then
    f.round rm flush false false (if f.neg a then 2 ^ 60 - 1 else 2 ^ 60) (-60) true
  else
    -- |a| as whole and fraction of 2^-k
    let k := (-e).toNat
    let x : Int := if f.neg a then -(n * 2 ^ e.toNat : Nat) else (n * 2 ^ e.toNat : Nat)
    let w := x / 2 ^ k
    let fr := (x % 2 ^ k).toNat
    if fr = 0 then f.round rm flush false false 1 w false
    else f.roundReal rm flush 2 a w fun p =>
      (expFix p (toFix p fr (-(k : Int)) * ln2Fix p / 2 ^ p) : Nat)

/-- log₂ a. -/
def FFmt.log2 (f : FFmt) (rm : Rnd) (flush : Bool) (a : Nat) : FRes :=
  if f.isZero a then { bits := f.infBits true, flags := flagDZ }
  else if f.neg a then f.invalid
  else if f.isInf a then { bits := a }
  else
    let n := f.sig a
    let e := f.scale a
    if n = 2 ^ (bitLen n - 1) then
      f.roundInt rm flush false false (e + (bitLen n : Int) - 1) 0
    else f.roundReal rm flush 3 a 0 fun p => log2Fix p n e

/-- sin a. -/
def FFmt.sin (f : FFmt) (rm : Rnd) (flush : Bool) (a : Nat) : FRes :=
  let n := f.sig a
  let e := f.scale a
  if f.isInf a then f.invalid
  else if f.isZero a then { bits := a }
  else if e + (bitLen n : Int) < -30 then
    f.round rm flush false (f.neg a) (n * 64 - 1) (e - 6) true
  else f.roundReal rm flush 4 a 0 fun p =>
    let q := reduce p n e
    let y := quarterSin p q.1 q.2
    if f.neg a then -y else y

/-- cos a. -/
def FFmt.cos (f : FFmt) (rm : Rnd) (flush : Bool) (a : Nat) : FRes :=
  let n := f.sig a
  let e := f.scale a
  if f.isInf a then f.invalid
  else if f.isZero a then { bits := f.oneBits }
  else if e + (bitLen n : Int) < -30 then f.round rm flush false false (2 ^ 60 - 1) (-60) true
  else f.roundReal rm flush 5 a 0 fun p =>
    let q := reduce p n e
    quarterSin p (q.1 + 1) q.2

/-! ### Instructions -/

/-- A special function in each active lane (R161). -/
def State.sfu (s : State) (op : FFmt → Rnd → Bool → Nat → FRes) (fm : EFmt) (d a : Nat) : Out :=
  s.fpRun (planVV (fregs fm) d a).rounds fm d fun l => fUnary op fm (laneRnd s.regs l) (fval fm s.regs a l)

/-- `frcp` (R160 to R162). -/
def execFrcp (fm : EFmt) (d a : Nat) (s : State) : Out := s.sfu FFmt.rcp fm d a
/-- `frsq` (R160 to R162). -/
def execFrsq (fm : EFmt) (d a : Nat) (s : State) : Out := s.sfu FFmt.rsq fm d a
/-- `fexp2` (R160 to R162). -/
def execFexp2 (fm : EFmt) (d a : Nat) (s : State) : Out := s.sfu FFmt.exp2 fm d a
/-- `flog2` (R160 to R162). -/
def execFlog2 (fm : EFmt) (d a : Nat) (s : State) : Out := s.sfu FFmt.log2 fm d a
/-- `fsin` (R160 to R162). -/
def execFsin (fm : EFmt) (d a : Nat) (s : State) : Out := s.sfu FFmt.sin fm d a
/-- `fcos` (R160 to R162). -/
def execFcos (fm : EFmt) (d a : Nat) (s : State) : Out := s.sfu FFmt.cos fm d a

end Sys2Proof.Machine
end

