-- ==== Sys2Proof/Machine/Moves.lean ====
section
/-! DEFINITION. Moves and special registers VMOV (spec/04_integer.md R125 to R130) and the lane-moving,
voting, matching and compacting forms of XLANE (R131 to R137). -/

namespace Sys2Proof.Machine

/-! ### VMOV -/

/-- `vmov` (R126). -/
def execVmov (d a : Nat) (s : State) : Out :=
  s.runRegs (planVV 1 d a) fun r => r.putV d fun l => lane (r.v a) l

/-- `vsel` (R126). -/
def execVsel (d a b : Nat) (s : State) : Out :=
  s.runRegs { ops := [.v d 1 false, .v a 1 true, .s b 2 true], writes := 1 } fun r =>
    r.setV d (r.em &&& r.s2 b) fun l => lane (r.v a) l

/-- `vmovs` (R126). -/
def execVmovs (d a : Nat) (s : State) : Out :=
  s.runRegs { ops := [.v d 1 false, .s a 1 true], writes := 1 } fun r => r.putV d fun _ => r.s a

/-- One lane as a mask. -/
def oneLane (k : Nat) : Mask := mkMask fun l => decide (l = k)

/-- An instruction that reads vector register `a` in the lanes `from` alone: POISON for an active one
among them, then the change of registers. -/
def State.runLanes (s : State) (p : Plan) (a : Nat) (src : Mask) (f : WaveRegs → WaveRegs) : Out :=
  s.run p (s.poisonOr (s.regs.poisonV [s.regs.vkey a] src) (.done (s.updRegs f)))

/-- `vread`: lane k of A, whatever `em` holds; 0 when k ≥ W (R127). -/
def execVread (d a b : Nat) (s : State) : Out :=
  let w := s.wave.width
  s.runLanes { ops := [.s d 1 false, .v a 1 false, .s b 1 true], writes := 1 } a
    (oneLane (s.regs.s b).toNat) fun r =>
      r.putS d (if w ≤ (r.s b).toNat then 0 else lane (r.v a) (r.s b).toNat)

/-- `vwrite`: lane k of D, whatever `em` holds; nothing when k ≥ W (R127). -/
def execVwrite (d a b : Nat) (s : State) : Out :=
  let w := s.wave.width
  s.runRegs { ops := [.v d 1 false, .s a 1 true, .s b 1 true], writes := 1 } fun r =>
    if w ≤ (r.s b).toNat then r else r.setV d (oneLane (r.s b).toNat) fun _ => r.s a

/-- `emget` (R126). -/
def execEmget (d : Nat) (s : State) : Out :=
  let m := widthMask s.wave.width
  s.runRegs { ops := [.s d 2 false], writes := 2 } fun r => r.putS2 d (r.em &&& m)

/-- `emset`: the pair within the live lanes (R128). -/
def execEmset (a : Nat) (s : State) : Out :=
  let m := s.wave.live
  s.runRegs { ops := [.s a 2 true], writes := 1 } fun r => { r with em := r.s2 a &&& m }

/-- `fpc` with its reserved bits dropped and an rm of 5 to 7 stored as 0 (R88, R89). -/
def fpcStore (x : Word) : Word :=
  let f := x &&& 0x3F00#32
  if 5 ≤ x.toNat % 8 then f else f ||| (x &&& 7#32)

/-- `fpcget` (R129). -/
def execFpcget (d : Nat) (s : State) : Out :=
  s.runRegs { ops := [.v d 1 false, .fpc], writes := 1 } fun r =>
    r.putV d fun l => lane r.fpc l &&& 0x3F07#32

/-- The registers with each active lane's `fpc` changed. -/
def WaveRegs.mapFpc (r : WaveRegs) (f : Nat → Word → Word) : WaveRegs :=
  { r with fpc := mkLanes fun l => if bitOf r.em l then f l (lane r.fpc l) else lane r.fpc l }

/-- `fpcset` (R129). -/
def execFpcset (a : Nat) (s : State) : Out :=
  s.runRegs { ops := [.v a 1 true], writes := 1 } fun r =>
    { r.mapFpc fun l _ => fpcStore (lane (r.v a) l) with
      vpois := r.vpois.filter fun e => !(decide (e.1 / 64 = fpcKey) && bitOf r.em (e.1 % 64)) }

/-- `fpcclr`: the flags cleared, rm kept (R129). -/
def execFpcclr (s : State) : Out := s.runRegs { writes := 1 } fun r => r.mapFpc fun _ x => x &&& 7#32

/-- `vlaneid` (R126). -/
def execVlaneid (d : Nat) (s : State) : Out :=
  s.runRegs { ops := [.v d 1 false], writes := 1 } fun r => r.putV d fun l => wrd l

/-- `smov` (R126). -/
def execSmov (d a : Nat) (s : State) : Out :=
  s.runRegs (planSS d a) fun r => r.putS d (r.s a)

/-- `smovx`: a context scalar; `n` is its number less 128 (R130). -/
def execSmovx (d n : Nat) (s : State) : Out :=
  s.runRegs { ops := [.s d 1 false], writes := 1 } fun r => r.putS d (r.ctxS n)

/-- `lcset` (R126). -/
def execLcset (a : Nat) (s : State) : Out :=
  s.runRegs { ops := [.s a 1 true], writes := 1 } fun r => { r with lc := r.s a }

/-- `lcget` (R126). -/
def execLcget (d : Nat) (s : State) : Out :=
  s.runRegs { ops := [.s d 1 false], writes := 1 } fun r => r.putS d r.lc

/-! ### XLANE: lane-moving forms (R132, R133) -/

/-- The lanes that the active lanes read, given each lane's source. -/
def sourceLanes (r : WaveRegs) (src : Nat → Nat) : Mask :=
  mkMask fun k => (lanesOf r.em).any fun l => decide (src l = k)

/-- A lane-moving form: lane l receives A of lane `src l`, or 0 when that is no lane of the wave. -/
def State.moveLanes (s : State) (ops : List Opnd) (d a : Nat) (src : Nat → Nat) : Out :=
  let w := s.wave.width
  s.runLanes { ops := ops, writes := 1 } a (sourceLanes s.regs src) fun r =>
    r.putV d fun l => if src l < w then lane (r.v a) (src l) else 0

/-- `vbcast` (R133). -/
def execVbcast (d a b : Nat) (s : State) : Out :=
  s.moveLanes [.v d 1 false, .v a 1 false, .s b 1 true] d a fun _ => (s.regs.s b).toNat

/-- `vperm` (R133). -/
def execVperm (d a b : Nat) (s : State) : Out :=
  s.moveLanes [.v d 1 false, .v a 1 false, .v b 1 true] d a fun l => (lane (s.regs.v b) l).toNat

/-- `vshfup` (R133). -/
def execVshfup (d a b : Nat) (s : State) : Out :=
  let n := (s.regs.s b).toNat
  s.moveLanes [.v d 1 false, .v a 1 false, .s b 1 true] d a fun l => if l < n then l else l - n

/-- `vshfdn` (R133). -/
def execVshfdn (d a b : Nat) (s : State) : Out :=
  let n := (s.regs.s b).toNat
  s.moveLanes [.v d 1 false, .v a 1 false, .s b 1 true] d a fun l =>
    if s.wave.width ≤ l + n then l else l + n

/-- `vshfx` (R133). -/
def execVshfx (d a b : Nat) (s : State) : Out :=
  let n := (s.regs.s b).toNat
  s.moveLanes [.v d 1 false, .v a 1 false, .s b 1 true] d a fun l => l ^^^ (n % s.wave.width)

/-! ### Votes, ballots, matches (R134 to R137) -/

/-- The active lanes whose element of A is nonzero (R134). -/
def WaveRegs.ballot (r : WaveRegs) (a : Nat) : Mask :=
  mkMask fun l => bitOf r.em l && decide (lane (r.v a) l ≠ 0)

/-- `vvote.any` (R134). -/
def execVvoteAny (d a : Nat) (s : State) : Out :=
  s.runRegs { ops := [.s d 1 false, .v a 1 true], writes := 1 } fun r =>
    r.putS d (if r.ballot a = 0 then 0 else 1)

/-- `vvote.all` (R134). -/
def execVvoteAll (d a : Nat) (s : State) : Out :=
  s.runRegs { ops := [.s d 1 false, .v a 1 true], writes := 1 } fun r =>
    r.putS d (if r.ballot a = r.em then 1 else 0)

/-- `vballot` (R134). -/
def execVballot (d a : Nat) (s : State) : Out :=
  s.runRegs { ops := [.s d 2 false, .v a 1 true], writes := 2 } fun r => r.putS2 d (r.ballot a)

/-- The word of `vmatch` for a lane, given when two keys match (R135). -/
def matchWord (eqv : Word → Word → Bool) (m : Mask) (v : Lanes) (l : Nat) : Word :=
  let grp := (lanesOf m).filter fun k => eqv (lane v k) (lane v l)
  let last := grp.all fun k => decide (k ≤ l)
  wrd (last.toNat * 2 ^ 31 + grp.length * 2 ^ 16 + (grp.filter fun k => decide (k < l)).length * 2 ^ 8
    + grp.headD l)

/-- Keys match as f32 values (R136). -/
def matchF32 (x y : Word) : Bool :=
  decide (x = y) || (fmtF32.isZero x.toNat && fmtF32.isZero y.toNat) ||
    (fmtF32.isNan x.toNat && fmtF32.isNan y.toNat)

/-- `vmatch.b32` (R135, R136). -/
def execVmatchB32 (d a : Nat) (s : State) : Out :=
  s.runRegs (planVV 1 d a) fun r => r.putV d (matchWord (fun x y => decide (x = y)) r.em (r.v a))

/-- `vmatch.f32` (R135, R136). -/
def execVmatchF32 (d a : Nat) (s : State) : Out :=
  s.runRegs (planVV 1 d a) fun r => r.putV d (matchWord matchF32 r.em (r.v a))

/-- `vcompact` (R137). -/
def execVcompact (d a b : Nat) (s : State) : Out :=
  s.runLanes { ops := [.v d 1 false, .v a 1 false, .s b 2 true], writes := 1 } a (s.regs.s2 b) fun r =>
    let kept := lanesOf (r.em &&& r.s2 b)
    r.setV d (mkMask fun j => decide (j < kept.length)) fun j => lane (r.v a) (kept.getD j 0)

end Sys2Proof.Machine
end

