-- ==== Sys2Proof/Machine/Private.lean ====
section
/-! DEFINITION. Private memory PRIV (spec/09_memory_instr.md R243 to R245). -/

namespace Sys2Proof.Machine

/-- The word index of a lane: a 33-bit sum that never wraps (R243). -/
def privIndex (r : WaveRegs) (a b l : Nat) : Nat := (lane (r.v a) l).toNat + (r.s b).toNat

/-- The address of word `i` of lane `l` (R30). -/
def Wave.privAddr (w : Wave) (i l : Nat) : Nat := w.privbase + 4 * (i * w.width + l)

/-- The private accesses of the active lanes for word `k` of a quad (R243). -/
def Wave.privReqs (w : Wave) (a b k : Nat) : List Req :=
  (lanesOf w.regs.em).map fun l =>
    { lane := l, va := w.privAddr (privIndex w.regs a b l + k) l, n := 4 }

/-- STACK_LIMIT (R244): the lanes whose last word is at or above s144. -/
def privStage (r : WaveRegs) (a b n : Nat) : Option TrapRec :=
  let lim := r.ctxS 16
  let bad := (lanesOf r.em).filter fun l => decide (lim.toNat ≤ privIndex r a b l + (n - 1))
  match bad with
  | [] => none
  | l :: _ => some (laneTrap 0x0C (mkMask fun k => bad.contains k) [wrd (privIndex r a b l), lim])

/-- The places of a private access: never tracked (R245). -/
def asPrivate (ps : List Place) : List Place := ps.map fun x => { x with pmem := true }

/-- The accesses of all `n` words, word by word. -/
def Wave.privAll (w : Wave) (a b n : Nat) : List Req :=
  (List.range n).flatMap fun k => w.privReqs a b k

/-- `pld` and `pldq` (R243). -/
def State.privLoad (s : State) (n d a b : Nat) : Out :=
  let rs := s.wave.privAll a b n
  s.run { ops := [.v d n false, .v a 1 true, .s b 1 true], writes := n,
          keys := [.v a 1 true, .s b 1 true], own := privStage s.regs a b n }
    (if rs.isEmpty then .done s
     else
       if s.wave.ldFull then .wait 8 0
       else s.accepting kRead false true rs fun s ps =>
         let ps := asPrivate ps
         let m := (lanesOf s.regs.em).length
         let qs := fun i => (ps.drop (i * m)).take m
         let vs := fun i => (qs i).map fun x => (x.req.lane, s.loadAt x)
         .done (s.issueLoad d n (fun i l => wrd (laneVal (vs i) l)) (fun i => s.badLanes kRead (qs i)) (requests ps)))

/-- `pst` and `pstq` (R243). -/
def State.privStore (s : State) (n d a b : Nat) : Out :=
  let rs := s.wave.privAll a b n
  s.run { ops := [.v d n true, .v a 1 true, .s b 1 true],
          keys := [.v a 1 true, .s b 1 true], own := privStage s.regs a b n }
    (if rs.isEmpty then .done s
     else
       (s.wave.storeWait).getD
         (s.accepting kWrite true true rs fun s ps =>
           let ps := asPrivate ps
           let m := (lanesOf s.regs.em).length
           let cells := (List.range n).flatMap fun i =>
             storeCells ((ps.drop (i * m)).take m) fun l => (lane (s.regs.v (d + i)) l).toNat
           if s.wave.spec.isSome then
             .done (s.setWave (s.wave.hold { before := s.regs, cells := cells, places := ps }))
           else .done ((s.writeCells cells).countStore (requests ps))))

/-- `pld` (R243). -/
def execPld (d a b : Nat) (s : State) : Out := s.privLoad 1 d a b
/-- `pst` (R243). -/
def execPst (d a b : Nat) (s : State) : Out := s.privStore 1 d a b
/-- `pldq` (R243). -/
def execPldq (d a b : Nat) (s : State) : Out := s.privLoad 2 d a b
/-- `pstq` (R243). -/
def execPstq (d a b : Nat) (s : State) : Out := s.privStore 2 d a b

end Sys2Proof.Machine
end

