-- ==== Sys2Proof/Machine/Registers.lean ====
section
/-! DEFINITION. Registers as masters write and read them (spec/17_host.md R394, R395, R399, R407; spec/20_replay.md R450,
R467; spec/22_package.md R483, R485). Pages are numbered 0 global, 1 administration, 2 recovery, 3 management interface,
64 + c control page of context c; the management interface's registers are numbered by the model (log 17). Each access
below is one of 4 bytes; one of 8 is two. -/

namespace Sys2Proof.Machine

/-- The state after a write by a master that needs a right. -/
def State.owned? (s : State) (right : Bool) (k : State) : Out := .next (if right then k else s.drop)

/-- A 64-bit register after a write of the half at an offset. -/
def wordAt (x : DWord) (off v : Nat) : DWord := setHalf x (off / 4) (wrd v)

/-- A register of 64 bits that a number holds, after a write of the half at an offset. -/
def numAt (n off v : Nat) : Nat := (wordAt (BitVec.ofNat 64 n) off v).toNat

/-- An offset lies in the register of 8 bytes at another. -/
def inReg (off base : Nat) : Bool := decide (off = base) || decide (off = base + 4)

/-- A write of the global page (R394, R395). -/
def State.writeGlobal (s : State) (m off v : Nat) : Out :=
  let own := s.isOwner m
  if off = 0x004 then execOwnclaim m s
  else if off = 0x008 then execOwnbeat m s
  else if off = 0x00C then s.owned? own { s with leaseMs := v }
  else if inReg off 0x018 then s.owned? own { s with jrnBase := wordAt s.jrnBase off v }
  else if off = 0x020 then s.owned? own { s with jrnSize := v }
  else .next s.drop

/-- A write of ADMGO (R407): 1 begins the request at hand, dropped while one is in progress; an undefined op is out
of range. -/
def State.admGo (s : State) (v : Nat) : State :=
  if v ≠ 1 then s
  else if s.admBusy then s.drop
  else
    let s1 : State := { s with admNow := s.admReq, admBusy := true, admAt := s.cycle }
    let op := (tget s.admReq 0 0).toNat % 256
    if op = 0 || 9 < op then s1.admEnd .badOperand else s1

/-- A write of ATTCTL (R463): a request is dropped while one is in progress or the package is not frozen. -/
def State.writeAttctl (s : State) (v : Nat) : State :=
  let op := v % 8
  let dram := v / 16 % 2 * 16
  let n := s.rep.attctl
  if op = 0 then { s with rep := { s.rep with attctl := n / 2 ^ 24 * 2 ^ 24 + n % 16 + dram } }
  else if n / 8 % 2 = 1 || !s.frozen || 4 < op then s.drop
  else { s with rep := { s.rep with attctl := startAtt dram op } }

/-- A write of the administration page by the owner (R394, R407, R431, R450). A ring of the error log that is moved begins
without records to merge into. -/
def State.writeAdmin (s : State) (m off v : Nat) : Out :=
  let own := s.isOwner m
  let rp := s.rep
  if off < 0x040 then s.owned? own { s with admReq := tset s.admReq (off / 4) (wrd v) }
  else if off = 0x040 then s.owned? own (s.admGo v)
  else if inReg off 0x080 then s.owned? own { s with errBase := wordAt s.errBase off v, corrs := [] }
  else if off = 0x088 then s.owned? own { s with errSize := v, corrs := [] }
  else if off = 0x090 then s.owned? own { s with hblost := v }
  else if off = 0x100 then s.owned? own { s with rep := { rp with rpctl := v % 4 } }
  else if inReg off 0x108 then s.owned? own { s with rep := { rp with base := wordAt rp.base off v } }
  else if inReg off 0x110 then s.owned? own { s with rep := { rp with size := numAt rp.size off v } }
  else if inReg off 0x120 then s.owned? own { s with rep := { rp with stopcyc := numAt rp.stopcyc off v } }
  else if off = 0x128 then execStopctl m v s
  else if inReg off 0x130 then s.owned? own { s with rep := { rp with attBase := wordAt rp.attBase off v } }
  else if inReg off 0x138 then s.owned? own { s with rep := { rp with attSize := numAt rp.attSize off v } }
  else if off = 0x140 then s.owned? own (s.writeAttctl v)
  else .next s.drop

/-- A write of the recovery page (R394, R483). -/
def State.writeRecovery (s : State) (m off v : Nat) : Out :=
  if !s.waitsImage then .next s.drop
  else if inReg off 0x008 then .next { s with boot := { s.boot with rcvaddr := wordAt s.boot.rcvaddr off v } }
  else if off = 0x010 then .next { s with boot := { s.boot with rcvlen := wrd v } }
  else if off = 0x014 then execRcvgo m s
  else .next s.drop

/-- No launch is resident (R340). -/
def State.noneResident (s : State) : Bool := s.blocks.all fun b => !b.2.onCores

/-- RSTREQ (R482, R484, R485): whether the image of the flash verifies, and what the self-tests find, are free values of
the package (log 9). -/
def State.resetRequest (s : State) (v : Nat) : Out :=
  if v = 1 then execColdReset (Config.verifies s.boot.stored) Config.badCores Config.badBanks s
  else if v = 2 then execPackageReset Config.badCores Config.badBanks s
  else .next s

/-- A write through the management interface (R341, R273, R340, R480, R485; log 17): 0 PWRCAP, 4 THRCTL, 0x10 RSTREQ,
0x20 BQUANT, 0x24 FAB_FLGAP, 0x100 + 4c the remap entry of logical core c. The board management controller writes PWRCAP and
RSTREQ, the module controller THRCTL (R485). -/
def State.writeManagement (s : State) (m off v : Nat) : Out :=
  let bmc := decide (requester m = 0xFFFF)
  if off = 0x00 then s.owned? bmc { s with pwrcap := min (max v 600) 2400 }
  else if off = 0x04 then if bmc then .next s.drop else execThrctl v s
  else if off = 0x10 then if bmc then s.resetRequest v else .next s.drop
  else if off = 0x20 then .next { s with bquant := wrd (v % 2 ^ 16) }
  else if off = 0x24 then .next { s with flgap := wrd (v % 2 ^ 16) }
  else if 0x100 ≤ off && off < 0x1C0 && off % 4 = 0 && s.noneResident then
    .next { s with remap := tset s.remap ((off - 0x100) / 4) (wrd v &&& 0x8F0F#32) }
  else .next s.drop

/-- A queue after a write of QCTL (R399): priority while disabled; a queue that is enabled begins with its rings
empty (log 22). -/
def Queue.control (x : Queue) (v : Nat) : Queue :=
  if x.ctl % 2 = 1 then
    if v % 2 = 1 then x else { x with ctl := x.ctl - 1, head := 0, tail := 0, crhead := 0, written := 0 }
  else { x with ctl := v % 8 }

/-- A write of a queue's registers (R399): TAIL and CRHEAD have their own rules, the ring may be moved while the
queue is disabled. -/
def State.writeQueue (s : State) (c m q off v : Nat) : Out :=
  let x := s.queueAt c q
  let idle := s.mayControl c m && decide (x.ctl % 2 = 0)
  if inReg off 0x00 then s.owned? idle (s.updQueue c q fun x => { x with base := wordAt x.base off v })
  else if off = 0x08 then s.owned? idle (s.updQueue c q fun x => { x with size := v })
  else if off = 0x0C then s.owned? (s.mayControl c m) (s.updQueue c q fun x => x.control v)
  else if inReg off 0x10 then s.owned? idle (s.updQueue c q fun x => { x with crbase := wordAt x.crbase off v })
  else if off = 0x18 then execTail c q m v s
  else if off = 0x20 then execCrhead c q m v s
  else .next s.drop

/-- A context after a write of SMPCTL (R349): en stays 0 unless the context is debuggable; enabling starts the counts
anew. -/
def Ctx.sampleControl (c : Ctx) (v : Nat) : Ctx :=
  let en := c.debug && decide (v / 2 ^ 16 % 2 = 1)
  { c with
    smpctl := wrd (en.toNat * 2 ^ 16 + v / 2 ^ 8 % 32 * 2 ^ 8)
    smpCounts := if en && !c.samples then [] else c.smpCounts }

/-- A debug request as DBGREQ holds it (R467): op, operand, identity word. -/
def State.debugWrite (s : State) (c m v : Nat) : Out :=
  let op := v % 2 ^ 8
  let x := v / 2 ^ 8 % 2 ^ 24
  let id := v / 2 ^ 32
  if op = 1 then execHalt c m id s
  else if op = 2 then execResume c m id s
  else if op = 3 then execStep c m id x s
  else if op = 4 then execReadRegister c m id x s
  else if op = 5 then execWriteRegister c m id x s
  else if op = 6 then execReadAtticSections c m x s
  else .next (if s.mayControl c m then s.setRsp c refusedRsp else s.drop)

/-- A write of a context's control page (R394, R399, R349, R353, R454, R467). PREQ, PRELEASE and DBGREQ make their request
as the high word is written (log 17). -/
def State.writeControl (s : State) (c m off v : Nat) : Out :=
  let may := s.mayControl c m
  let x := s.ctxAt c
  let whole := fun (lo : Word) => lo.toNat + v * 2 ^ 32
  if off < 0x400 then s.writeQueue c m (off / 0x40) (off % 0x40) v
  else if off = 0x400 then s.owned? may (s.updCtx c fun x => x.sampleControl v)
  else if inReg off 0x408 then s.owned? may (s.updCtx c fun x => { x with smpbase := wordAt x.smpbase off v })
  else if off = 0x410 then s.owned? may (s.updCtx c fun x => { x with smpsize := wrd v })
  else if off = 0x414 then s.owned? may (s.updCtx c fun x => { x with wfgt := v % 64 })
  else if off = 0x418 then s.owned? may (s.updCtx c fun x => { x with preqLo := wrd v })
  else if off = 0x41C then execPreq c m (whole x.preqLo) s
  else if off = 0x420 then s.owned? may (s.updCtx c fun x => { x with prelLo := wrd v })
  else if off = 0x424 then execPrelease c m (whole x.prelLo) s
  else if inReg off 0x430 then
    s.owned? may (s.updCtx c fun x => { x with clogbase := wordAt x.clogbase off v, clogused := 0 })
  else if off = 0x438 then s.owned? may (s.updCtx c fun x => { x with clogsize := v })
  else if off = 0x440 then s.owned? (may || s.mayDebug c m) (s.updCtx c fun x => { x with dbgLo := wrd v })
  else if off = 0x444 then s.debugWrite c m (whole x.dbgLo)
  else .next s.drop

/-- A write of 4 bytes at an offset of a page (R394): one without the right, or where no register may be written, is
dropped and counted. -/
def State.writeWord (s : State) (master page off v : Nat) : Out :=
  if page = 0 then s.writeGlobal master off v
  else if page = 1 then s.writeAdmin master off v
  else if page = 2 then s.writeRecovery master off v
  else if page = 3 then s.writeManagement master off v
  else if 64 ≤ page && page < 128 then s.writeControl (page - 64) master off v
  else .next s.drop

/-- REGISTER_WRITE (R394): of 4 bytes, or of 8, which count once when they are dropped. -/
def execRegisterWrite (master page off : Nat) (x : RegData) (s : State) : Out :=
  match s.writeWord master page off (x.v % 2 ^ 32) with
  | .next s1 =>
    if x.wide then
      match s1.writeWord master page (off + 4) (x.v / 2 ^ 32 % 2 ^ 32) with
      | .next s2 => .next (if s.dropcnt < s1.dropcnt then { s2 with dropcnt := s1.dropcnt } else s2)
      | .fault f => .fault f
      | .refused r => .refused r
    else .next s1
  | .fault f => .fault f
  | .refused r => .refused r

/-! ### Reads -/

/-- The half of a 64-bit register at an offset. -/
def readHalf (x : DWord) (off : Nat) : Option Word := some (halfOf x (off / 4))

/-- OWNSTAT (R395). -/
def State.ownstat (s : State) : Nat :=
  s.owned.toNat * 2 ^ 31 + s.openWin.toNat * 2 ^ 30 + s.giver.isSome.toNat * 2 ^ 29 + s.owner % 2 ^ 16

/-- ADMSTAT (R407). -/
def State.admstat (s : State) : Nat := s.admBusy.toNat * 2 ^ 31 + s.admRes % 2 ^ 16

/-- RPSTAT (R451). -/
def Replay.stat (rp : Replay) : Nat := rp.cause % 16 * 2 ^ 8 + rp.lost.toNat * 2 ^ 4 + rp.mode % 4

/-- FAB_FLGAP (R273): the gap, with the floor bit. -/
def State.flgapRead (s : State) : Nat :=
  let g := s.flgap.toNat % 2 ^ 16
  (decide (g ≤ Config.pathSkew)).toNat * 2 ^ 16 + g

/-- A word of the global page as it is read (R395); none where no register can be read. -/
def State.globalWord (s : State) (off : Nat) : Option Word :=
  if off = 0x000 then some (wrd s.ownstat)
  else if off = 0x00C then some (wrd s.leaseMs)
  else if off = 0x010 then some (wrd s.dropcnt)
  else if inReg off 0x018 then readHalf s.jrnBase off
  else if off = 0x020 then some (wrd s.jrnSize)
  else none

/-- A word of the administration page as it is read (R407, R431, R450, R451, R460, R463). -/
def State.adminWord (s : State) (off : Nat) : Option Word :=
  let rp := s.rep
  let num := fun n => readHalf (BitVec.ofNat 64 n) off
  if off = 0x044 then some (wrd s.admstat)
  else if inReg off 0x080 then readHalf s.errBase off
  else if off = 0x088 then some (wrd s.errSize)
  else if off = 0x08C then some (wrd s.errCnt)
  else if off = 0x090 then some (wrd s.hblost)
  else if off = 0x100 then some (wrd rp.rpctl)
  else if off = 0x104 then some (wrd rp.stat)
  else if inReg off 0x108 then readHalf rp.base off
  else if inReg off 0x110 then num rp.size
  else if inReg off 0x118 then num rp.used
  else if inReg off 0x120 then num rp.stopcyc
  else if off = 0x128 then some (wrd rp.stopctl)
  else if inReg off 0x130 then readHalf rp.attBase off
  else if inReg off 0x138 then num rp.attSize
  else if off = 0x140 then some (wrd (rp.attctl - rp.attctl % 8))
  else if inReg off 0x148 then readHalf s.alignofs off
  else none

/-- A word of the recovery page as it is read (R483): zero but while the boot stage waits for an image. -/
def State.recoveryWord (s : State) (off : Nat) : Option Word :=
  if !s.waitsImage then some 0
  else if off = 0x000 then some s.boot.rcvstat
  else if inReg off 0x008 then readHalf s.boot.rcvaddr off
  else if off = 0x010 then some s.boot.rcvlen
  else none

/-- A register of the management interface as it is read (R273, R340, R341, R485; log 17): beside those written, 0x14
FWSTAT and 0x40 + 4n TEMPn. -/
def State.managementWord (s : State) (off : Nat) : Option Word :=
  if off = 0x00 then some (wrd s.pwrcap)
  else if off = 0x04 then some s.thrctl
  else if off = 0x14 then some s.boot.fwstat
  else if off = 0x20 then some s.bquant
  else if off = 0x24 then some (wrd s.flgapRead)
  else if 0x40 ≤ off && off < 0x54 && off % 4 = 0 then some (wrd (tget s.boot.temps ((off - 0x40) / 4) 0))
  else if 0x100 ≤ off && off < 0x1C0 && off % 4 = 0 then some (tget s.remap ((off - 0x100) / 4) 0)
  else none

/-- A word of a queue's registers as it is read (R399). -/
def Queue.word (x : Queue) (off : Nat) : Option Word :=
  if inReg off 0x00 then readHalf x.base off
  else if off = 0x08 then some (wrd x.size)
  else if off = 0x0C then some (wrd x.ctl)
  else if inReg off 0x10 then readHalf x.crbase off
  else if off = 0x1C then some (wrd (x.head % x.size))
  else none

/-- A word of a context's control page as it is read (R394, R399, R349, R454, R467): that of a confidential context
answers over its IDE stream alone, and is zero otherwise. -/
def State.controlWord (s : State) (c m off : Nat) : Option Word :=
  let x := s.ctxAt c
  if x.conf && !onStream m x.tdi then some 0
  else if off < 0x400 then (s.queueAt c (off / 0x40)).word (off % 0x40)
  else if off = 0x400 then some x.smpctl
  else if inReg off 0x408 then readHalf x.smpbase off
  else if off = 0x410 then some x.smpsize
  else if off = 0x414 then some (wrd x.wfgt)
  else if inReg off 0x430 then readHalf x.clogbase off
  else if off = 0x438 then some (wrd x.clogsize)
  else if inReg off 0x448 then readHalf x.dbgrsp off
  else none

/-- A word at an offset of a page as a master reads it (R394, R483); none where the spec gives no register that can be
read. -/
def State.readWord (s : State) (m page off : Nat) : Option Word :=
  if page = 2 then s.recoveryWord off
  else if s.boot.stage < 6 then some 0
  else if page = 3 then s.managementWord off
  else if page = 0 then s.globalWord off
  else if page = 1 then s.adminWord off
  else if 64 ≤ page && page < 128 then s.controlWord (page - 64) m off
  else none

/-- The state with a read of 4 or 8 bytes answered (R394): what no register holds is a free value (log 9), and the domain
is as it was (R447). -/
def State.answerRead (s : State) (id m page off : Nat) (wide : Bool) : State :=
  let free := Config.readValue s.reads
  let lo := (s.readWord m page off).getD (loWord free)
  let hi := if wide then (s.readWord m page (off + 4)).getD (hiWord free) else 0
  { s with reads := s.reads + 1, outbox := s.outbox ++ [.completion id (some (pairOf lo hi).toNat)] }

end Sys2Proof.Machine
end

