-- ==== Sys2Proof/Machine/Scalar.lean ====
section
/-! DEFINITION. The scalar instructions SALU3, SALUI and SLI (spec/04_integer.md R107 to R115). They
execute once for the wave, whatever `em` holds (R28). -/

namespace Sys2Proof.Machine

/-- 1 or 0 as a word. -/
def boolWord (b : Bool) : Word := if b then 1 else 0

/-- Signed division (R110): by 0 it gives all ones; the one overflow gives the dividend. -/
def divS (a b : Word) : Word := if b = 0 then 0xFFFFFFFF#32 else a.sdiv b
/-- Unsigned division (R110): by 0 it gives all ones. -/
def divU (a b : Word) : Word := if b = 0 then 0xFFFFFFFF#32 else a / b
/-- Signed remainder (R110): by 0 it gives the dividend. -/
def remS (a b : Word) : Word := if b = 0 then a else a.srem b
/-- Unsigned remainder (R110): by 0 it gives the dividend. -/
def remU (a b : Word) : Word := if b = 0 then a else a % b

/-- A SALU3 instruction of three words (R107, R108). -/
def State.salu (s : State) (f : Word → Word → Word) (d a b : Nat) : Out :=
  s.runRegs (planSSS d a b) fun r => r.putS d (f (r.s a) (r.s b))

/-- A SALUI instruction with the immediate sign-extended from 9 bits (R113). -/
def State.saluImm (s : State) (f : Word → Word → Word) (d a imm : Nat) : Out :=
  s.runRegs (planSS d a) fun r => r.putS d (f (r.s a) ((BitVec.ofNat 9 imm).signExtend 32))

/-- `sadd`: D := a + b (R108). -/
def execSadd (d a b : Nat) (s : State) : Out := s.salu (fun a b => a + b) d a b

/-- `ssub`: D := a − b (R108). -/
def execSsub (d a b : Nat) (s : State) : Out := s.salu (fun a b => a - b) d a b

/-- `smul`: the low half of the product (R108). -/
def execSmul (d a b : Nat) (s : State) : Out := s.salu (fun a b => a * b) d a b

/-- `smulhI`: the high half of the signed product (R108). -/
def execSmulhI (d a b : Nat) (s : State) : Out := s.salu (fun a b => mulHiS a b) d a b

/-- `smulhN`: the high half of the unsigned product (R108). -/
def execSmulhN (d a b : Nat) (s : State) : Out := s.salu (fun a b => mulHiU a b) d a b

/-- `sand`: bitwise AND (R108). -/
def execSand (d a b : Nat) (s : State) : Out := s.salu (fun a b => a &&& b) d a b

/-- `sor`: bitwise OR (R108). -/
def execSor (d a b : Nat) (s : State) : Out := s.salu (fun a b => a ||| b) d a b

/-- `sxor`: bitwise XOR (R108). -/
def execSxor (d a b : Nat) (s : State) : Out := s.salu (fun a b => a ^^^ b) d a b

/-- `sshl`: shift left (R109). -/
def execSshl (d a b : Nat) (s : State) : Out := s.salu (fun a b => shl a b) d a b

/-- `sshr`: logical shift right (R109). -/
def execSshr (d a b : Nat) (s : State) : Out := s.salu (fun a b => shr a b) d a b

/-- `ssra`: arithmetic shift right (R109). -/
def execSsra (d a b : Nat) (s : State) : Out := s.salu (fun a b => sra a b) d a b

/-- `sminI`: the smaller, signed (R108). -/
def execSminI (d a b : Nat) (s : State) : Out := s.salu (fun a b => minS a b) d a b

/-- `sminN`: the smaller, unsigned (R108). -/
def execSminN (d a b : Nat) (s : State) : Out := s.salu (fun a b => minU a b) d a b

/-- `smaxI`: the larger, signed (R108). -/
def execSmaxI (d a b : Nat) (s : State) : Out := s.salu (fun a b => maxS a b) d a b

/-- `smaxN`: the larger, unsigned (R108). -/
def execSmaxN (d a b : Nat) (s : State) : Out := s.salu (fun a b => maxU a b) d a b

/-- `sseq`: 1 if equal (R108). -/
def execSseq (d a b : Nat) (s : State) : Out := s.salu (fun a b => boolWord (a = b)) d a b

/-- `ssltI`: 1 if a < b, signed (R108). -/
def execSsltI (d a b : Nat) (s : State) : Out := s.salu (fun a b => boolWord (a.slt b)) d a b

/-- `ssltN`: 1 if a < b, unsigned (R108). -/
def execSsltN (d a b : Nat) (s : State) : Out := s.salu (fun a b => boolWord (a.ult b)) d a b

/-- `sdivI`: signed division (R110). -/
def execSdivI (d a b : Nat) (s : State) : Out := s.salu (fun a b => divS a b) d a b

/-- `sdivN`: unsigned division (R110). -/
def execSdivN (d a b : Nat) (s : State) : Out := s.salu (fun a b => divU a b) d a b

/-- `sremI`: signed remainder (R110). -/
def execSremI (d a b : Nat) (s : State) : Out := s.salu (fun a b => remS a b) d a b

/-- `sremN`: unsigned remainder (R110). -/
def execSremN (d a b : Nat) (s : State) : Out := s.salu (fun a b => remU a b) d a b

/-- `spopc`: set bits (R108). -/
def execSpopc (d a : Nat) (s : State) : Out :=
  s.runRegs (planSS d a) fun r => r.putS d (popCount (r.s a))

/-- `sclz`: leading zeros (R108). -/
def execSclz (d a : Nat) (s : State) : Out :=
  s.runRegs (planSS d a) fun r => r.putS d (leadZeros (r.s a))

/-- `sctz`: trailing zeros (R108). -/
def execSctz (d a : Nat) (s : State) : Out :=
  s.runRegs (planSS d a) fun r => r.putS d (trailZeros (r.s a))

/-- Position and length of the bit field that a control word names (R111). -/
def fieldPos (b : Word) : Nat := b.toNat % 32
/-- Length of the bit field (R111): bits 13 to 8, cut at bit 31. -/
def fieldLen (b : Word) : Nat := min (b.toNat / 256 % 64) (32 - fieldPos b)
/-- A mask of the lowest `n` bits. -/
def lowMask (n : Nat) : Word := BitVec.ofNat 32 (2 ^ n - 1)

/-- The field that `sbfx` extracts (R111), sign-extended when bit 16 of the control word is 1. -/
def bfx (a b : Word) : Word :=
  let n := fieldLen b
  let f := (a >>> fieldPos b) &&& lowMask n
  if n = 0 then 0
  else if b.getLsbD 16 && f.getLsbD (n - 1) then f ||| ~~~lowMask n else f

/-- The word that `sbfi` makes of D and the low bits of a (R111). -/
def bfi (d a b : Word) : Word :=
  let m := lowMask (fieldLen b) <<< fieldPos b
  (d &&& ~~~m) ||| ((a <<< fieldPos b) &&& m)

/-- `sbfx`: extracts a bit field (R111). -/
def execSbfx (d a b : Nat) (s : State) : Out := s.salu bfx d a b

/-- `sbfi`: inserts a bit field; D is also a source (R111). -/
def execSbfi (d a b : Nat) (s : State) : Out :=
  s.runRegs { ops := [.s d 1 true, .s a 1 true, .s b 1 true], writes := 1 } fun r =>
    r.putS d (bfi (r.s d) (r.s a) (r.s b))

/-- `saddq`: the sum of two pairs modulo 2^64 (R112). -/
def execSaddq (d a b : Nat) (s : State) : Out :=
  s.runRegs { ops := [.s d 2 false, .s a 2 true, .s b 2 true], writes := 2 } fun r =>
    r.putS2 d (r.s2 a + r.s2 b)

/-- `ssubq`: the difference of two pairs modulo 2^64 (R112). -/
def execSsubq (d a b : Nat) (s : State) : Out :=
  s.runRegs { ops := [.s d 2 false, .s a 2 true, .s b 2 true], writes := 2 } fun r =>
    r.putS2 d (r.s2 a - r.s2 b)

/-- `sshlq`: a pair shifted left by the 32-bit value of B; 64 or more gives 0 (R112). -/
def execSshlq (d a b : Nat) (s : State) : Out :=
  s.runRegs { ops := [.s d 2 false, .s a 2 true, .s b 1 true], writes := 2 } fun r =>
    r.putS2 d (shl (r.s2 a) ((r.s b).setWidth 64))

/-- `saddi`: a + sext(imm9) with the sign-extended immediate (R113). -/
def execSaddi (d a imm : Nat) (s : State) : Out := s.saluImm (fun a b => a + b) d a imm

/-- `sandi`: AND with the sign-extended immediate (R113). -/
def execSandi (d a imm : Nat) (s : State) : Out := s.saluImm (fun a b => a &&& b) d a imm

/-- `sori`: OR with the sign-extended immediate (R113). -/
def execSori (d a imm : Nat) (s : State) : Out := s.saluImm (fun a b => a ||| b) d a imm

/-- `sxori`: XOR with the sign-extended immediate (R113). -/
def execSxori (d a imm : Nat) (s : State) : Out := s.saluImm (fun a b => a ^^^ b) d a imm

/-- `sseqi`: 1 if equal with the sign-extended immediate (R113). -/
def execSseqi (d a imm : Nat) (s : State) : Out := s.saluImm (fun a b => boolWord (a = b)) d a imm

/-- `sslti`: 1 if below, signed with the sign-extended immediate (R113). -/
def execSslti (d a imm : Nat) (s : State) : Out := s.saluImm (fun a b => boolWord (a.slt b)) d a imm

/-- `sshli`: shift left by imm9, 0 to 31 (R113, R114). -/
def execSshli (d a imm : Nat) (s : State) : Out :=
  s.runRegs (planSS d a) fun r => r.putS d (shl (r.s a) (BitVec.ofNat 32 imm))

/-- `sshri`: logical shift right by imm9, 0 to 31 (R113, R114). -/
def execSshri (d a imm : Nat) (s : State) : Out :=
  s.runRegs (planSS d a) fun r => r.putS d (shr (r.s a) (BitVec.ofNat 32 imm))

/-- `ssrai`: arithmetic shift right by imm9, 0 to 31 (R113, R114). -/
def execSsrai (d a imm : Nat) (s : State) : Out :=
  s.runRegs (planSS d a) fun r => r.putS d (sra (r.s a) (BitVec.ofNat 32 imm))

/-- `saddqi`: a pair plus the sign-extended immediate (R113). -/
def execSaddqi (d a imm : Nat) (s : State) : Out :=
  s.runRegs { ops := [.s d 2 false, .s a 2 true], writes := 2 } fun r =>
    r.putS2 d (r.s2 a + (BitVec.ofNat 9 imm).signExtend 64)

/-- `sli`: D := zext(imm16) (R115). -/
def execSli (d imm : Nat) (s : State) : Out :=
  s.runRegs { ops := [.s d 1 false], writes := 1 } fun r => r.putS d (BitVec.ofNat 32 (imm % 2 ^ 16))

/-- `slih`: the upper half of D := imm16, the lower half stays (R115). -/
def execSlih (d imm : Nat) (s : State) : Out :=
  s.runRegs { ops := [.s d 1 true], writes := 1 } fun r =>
    r.putS d ((BitVec.ofNat 32 imm <<< 16) ||| (r.s d &&& 0xFFFF#32))

end Sys2Proof.Machine
end

