-- ==== Sys2Proof/Machine/Scan.lean ====
section
/-! DEFINITION. Segmented scans and reductions of XLANE (spec/04_integer.md R138 to R141). -/

namespace Sys2Proof.Machine

/-- What a scan delivers (R140). -/
inductive ScanForm where | incl | excl | red
  deriving DecidableEq, Repr

/-- An operation of a scan: the accumulator after one lane, the flags of the step. `none` stands for the
start of a segment; the number is the lane. -/
abbrev ScanOp := WaveRegs → Option Word → Nat → Word → Word × Nat

/-- An integer operation raises no flag (R141). -/
def foldInt (f : Word → Word → Word) : ScanOp := fun _ acc _ x =>
  match acc with
  | none => (x, 0)
  | some a => (f a x, 0)

/-- The rounded f32 sum under the lane's mode; the first element is quieted if it is a NaN (R140, R141). -/
def foldF32 : ScanOp := fun r acc l x =>
  match acc with
  | none =>
    if fmtF32.isNan x.toNat then
      (BitVec.ofNat 32 (fmtF32.quiet x.toNat), if fmtF32.isSnan x.toNat then flagNV else 0)
    else (x, 0)
  | some a =>
    let y := fAdd .f32 (laneRnd r l) a.toNat x.toNat
    (BitVec.ofNat 32 y.bits, y.flags)

/-- One step of the chain: the lane, whether it begins a segment, the sum before it, the sum after it and
its flags. -/
structure ScanStep where
  lane  : Nat
  first : Bool
  prev  : Word
  incl  : Word
  flags : Nat

/-- The chain over the active lanes in ascending order (R139, R140). -/
def scanChain (f : ScanOp) (r : WaveRegs) (a : Nat) (heads : Mask) :
    List Nat → Option Word → List ScanStep
  | [], _ => []
  | l :: ls, acc =>
    let start := acc.isNone || bitOf heads l
    let y := f r (if start then none else acc) l (lane (r.v a) l)
    { lane := l, first := start, prev := acc.getD 0, incl := y.1, flags := y.2 } ::
      scanChain f r a heads ls (some y.1)

/-- The last sum of the segment that starts before these steps. -/
def segmentEnd (d : Word) : List ScanStep → Word
  | [] => d
  | st :: sts => if st.first then d else segmentEnd st.incl sts

/-- The sum of its whole segment for each step. -/
def segmentSums : List ScanStep → Word → List (Nat × Word)
  | [], _ => []
  | st :: sts, cur =>
    let tot := if st.first then segmentEnd st.incl sts else cur
    (st.lane, tot) :: segmentSums sts tot

/-- The word that each active lane receives (R140). -/
def scanOut (form : ScanForm) (ident : Word) (sts : List ScanStep) : List (Nat × Word) :=
  match form with
  | .incl => sts.map fun st => (st.lane, st.incl)
  | .excl => sts.map fun st => (st.lane, if st.first then ident else st.prev)
  | .red => segmentSums sts 0

/-- A scan or a reduction: the words delivered and the flags of each step in its lane (R138 to R141). -/
def State.scan (s : State) (form : ScanForm) (f : ScanOp) (ident : Word) (d a b : Nat) (rounds : Bool := false) :
    Out :=
  let r := s.regs
  let sts := scanChain f r a (r.s2 b) (lanesOf r.em) none
  let res := scanOut form ident sts
  let flags := fun l => ((sts.find? fun st => st.lane = l).map ScanStep.flags).getD 0
  let r1 := r.putV d fun l => ((res.find? fun e => e.1 = l).map Prod.snd).getD 0
  let r2 := if sts.all fun st => st.flags = 0 then r1 else r1.orFlags flags
  s.run { ops := [.v d 1 false, .v a 1 true, .s b 2 true] ++ if rounds then [.fpc] else [], writes := 1 }
    (s.endFloat r2 flags)

/-- `vscan.add.i32` (R138 to R141). -/
def execVscanAddI32 (d a b : Nat) (s : State) : Out :=
  s.scan .incl (foldInt (fun x y => x + y)) 0 d a b
/-- `vscan.add.f32` (R138 to R141). -/
def execVscanAddF32 (d a b : Nat) (s : State) : Out := s.scan .incl foldF32 0 d a b true
/-- `vscan.min.i` (R138 to R141). -/
def execVscanMinI (d a b : Nat) (s : State) : Out :=
  s.scan .incl (foldInt minS) 0x7FFFFFFF#32 d a b
/-- `vscan.min.n` (R138 to R141). -/
def execVscanMinN (d a b : Nat) (s : State) : Out :=
  s.scan .incl (foldInt minU) 0xFFFFFFFF#32 d a b
/-- `vscan.max.i` (R138 to R141). -/
def execVscanMaxI (d a b : Nat) (s : State) : Out :=
  s.scan .incl (foldInt maxS) 0x80000000#32 d a b
/-- `vscan.max.n` (R138 to R141). -/
def execVscanMaxN (d a b : Nat) (s : State) : Out :=
  s.scan .incl (foldInt maxU) 0 d a b
/-- `vscan.and` (R138 to R141). -/
def execVscanAnd (d a b : Nat) (s : State) : Out :=
  s.scan .incl (foldInt (fun x y => x &&& y)) 0xFFFFFFFF#32 d a b
/-- `vscan.or` (R138 to R141). -/
def execVscanOr (d a b : Nat) (s : State) : Out :=
  s.scan .incl (foldInt (fun x y => x ||| y)) 0 d a b
/-- `vscanx.add.i32` (R138 to R141). -/
def execVscanxAddI32 (d a b : Nat) (s : State) : Out :=
  s.scan .excl (foldInt (fun x y => x + y)) 0 d a b
/-- `vscanx.add.f32` (R138 to R141). -/
def execVscanxAddF32 (d a b : Nat) (s : State) : Out := s.scan .excl foldF32 0 d a b true
/-- `vscanx.min.i` (R138 to R141). -/
def execVscanxMinI (d a b : Nat) (s : State) : Out :=
  s.scan .excl (foldInt minS) 0x7FFFFFFF#32 d a b
/-- `vscanx.min.n` (R138 to R141). -/
def execVscanxMinN (d a b : Nat) (s : State) : Out :=
  s.scan .excl (foldInt minU) 0xFFFFFFFF#32 d a b
/-- `vscanx.max.i` (R138 to R141). -/
def execVscanxMaxI (d a b : Nat) (s : State) : Out :=
  s.scan .excl (foldInt maxS) 0x80000000#32 d a b
/-- `vscanx.max.n` (R138 to R141). -/
def execVscanxMaxN (d a b : Nat) (s : State) : Out :=
  s.scan .excl (foldInt maxU) 0 d a b
/-- `vscanx.and` (R138 to R141). -/
def execVscanxAnd (d a b : Nat) (s : State) : Out :=
  s.scan .excl (foldInt (fun x y => x &&& y)) 0xFFFFFFFF#32 d a b
/-- `vscanx.or` (R138 to R141). -/
def execVscanxOr (d a b : Nat) (s : State) : Out :=
  s.scan .excl (foldInt (fun x y => x ||| y)) 0 d a b
/-- `vred.add.i32` (R138 to R141). -/
def execVredAddI32 (d a b : Nat) (s : State) : Out :=
  s.scan .red (foldInt (fun x y => x + y)) 0 d a b
/-- `vred.add.f32` (R138 to R141). -/
def execVredAddF32 (d a b : Nat) (s : State) : Out := s.scan .red foldF32 0 d a b true
/-- `vred.min.i` (R138 to R141). -/
def execVredMinI (d a b : Nat) (s : State) : Out :=
  s.scan .red (foldInt minS) 0x7FFFFFFF#32 d a b
/-- `vred.min.n` (R138 to R141). -/
def execVredMinN (d a b : Nat) (s : State) : Out :=
  s.scan .red (foldInt minU) 0xFFFFFFFF#32 d a b
/-- `vred.max.i` (R138 to R141). -/
def execVredMaxI (d a b : Nat) (s : State) : Out :=
  s.scan .red (foldInt maxS) 0x80000000#32 d a b
/-- `vred.max.n` (R138 to R141). -/
def execVredMaxN (d a b : Nat) (s : State) : Out :=
  s.scan .red (foldInt maxU) 0 d a b
/-- `vred.and` (R138 to R141). -/
def execVredAnd (d a b : Nat) (s : State) : Out :=
  s.scan .red (foldInt (fun x y => x &&& y)) 0xFFFFFFFF#32 d a b
/-- `vred.or` (R138 to R141). -/
def execVredOr (d a b : Nat) (s : State) : Out :=
  s.scan .red (foldInt (fun x y => x ||| y)) 0 d a b

end Sys2Proof.Machine
end

