-- ==== Sys2Proof/Machine/VecInt.lean ====
section
/-! DEFINITION. The vector integer instructions VINT3, VINTS and VINTI (spec/04_integer.md R116 to R120).
Only active lanes are written. -/

namespace Sys2Proof.Machine

/-- A VINT3 instruction of two sources (R116, R117). -/
def State.vint (s : State) (sz : ESize) (f : {w : Nat} → BitVec w → BitVec w → BitVec w)
    (d a b : Nat) : Out :=
  s.runRegs (planVVV (regsOf sz) d a b) fun r => r.vecBin sz f d a b

/-- A VINTS instruction of two sources (R116, R117). -/
def State.vints (s : State) (sz : ESize) (f : {w : Nat} → BitVec w → BitVec w → BitVec w)
    (d a b : Nat) : Out :=
  s.runRegs (planVVS (regsOf sz) d a b) fun r => r.vecScal sz f d a b

/-- A VINTI instruction with an immediate (R119). -/
def State.vinti (s : State) (sz : ESize) (f : {w : Nat} → BitVec w → BitVec w → BitVec w)
    (d a imm : Nat) : Out :=
  s.runRegs (planVV (regsOf sz) d a) fun r => r.vecImm sz f d a imm

/-- The declaration of `vmad`: D, A and B are read (R117). -/
def planMad (b : Opnd) (sz : ESize) (d a : Nat) : Plan :=
  { ops := [.v d (regsOf sz) true, .v a (regsOf sz) true, b], writes := (regsOf sz) }

/-- `vadd` (R117): a + b in each element. -/
def execVadd (sz : ESize) (d a b : Nat) (s : State) : Out := s.vint sz (fun a b => a + b) d a b

/-- `vsub` (R117): a − b in each element. -/
def execVsub (sz : ESize) (d a b : Nat) (s : State) : Out := s.vint sz (fun a b => a - b) d a b

/-- `vmul` (R117): the low half of a·b in each element. -/
def execVmul (sz : ESize) (d a b : Nat) (s : State) : Out := s.vint sz (fun a b => a * b) d a b

/-- `vmulhI` (R117): the high half, signed in each element. -/
def execVmulhI (sz : ESize) (d a b : Nat) (s : State) : Out := s.vint sz (fun a b => mulHiS a b) d a b

/-- `vmulhN` (R117): the high half, unsigned in each element. -/
def execVmulhN (sz : ESize) (d a b : Nat) (s : State) : Out := s.vint sz (fun a b => mulHiU a b) d a b

/-- `vand` (R117): AND in each element. -/
def execVand (sz : ESize) (d a b : Nat) (s : State) : Out := s.vint sz (fun a b => a &&& b) d a b

/-- `vor` (R117): OR in each element. -/
def execVor (sz : ESize) (d a b : Nat) (s : State) : Out := s.vint sz (fun a b => a ||| b) d a b

/-- `vxor` (R117): XOR in each element. -/
def execVxor (sz : ESize) (d a b : Nat) (s : State) : Out := s.vint sz (fun a b => a ^^^ b) d a b

/-- `vshl` (R117): shift left (R118) in each element. -/
def execVshl (sz : ESize) (d a b : Nat) (s : State) : Out := s.vint sz (fun a b => shl a b) d a b

/-- `vshr` (R117): logical shift right (R118) in each element. -/
def execVshr (sz : ESize) (d a b : Nat) (s : State) : Out := s.vint sz (fun a b => shr a b) d a b

/-- `vsra` (R117): arithmetic shift right (R118) in each element. -/
def execVsra (sz : ESize) (d a b : Nat) (s : State) : Out := s.vint sz (fun a b => sra a b) d a b

/-- `vminI` (R117): the smaller, signed in each element. -/
def execVminI (sz : ESize) (d a b : Nat) (s : State) : Out := s.vint sz (fun a b => minS a b) d a b

/-- `vminN` (R117): the smaller, unsigned in each element. -/
def execVminN (sz : ESize) (d a b : Nat) (s : State) : Out := s.vint sz (fun a b => minU a b) d a b

/-- `vmaxI` (R117): the larger, signed in each element. -/
def execVmaxI (sz : ESize) (d a b : Nat) (s : State) : Out := s.vint sz (fun a b => maxS a b) d a b

/-- `vmaxN` (R117): the larger, unsigned in each element. -/
def execVmaxN (sz : ESize) (d a b : Nat) (s : State) : Out := s.vint sz (fun a b => maxU a b) d a b

/-- `vmad` (R117): d + a·b in each element. -/
def execVmad (sz : ESize) (d a b : Nat) (s : State) : Out :=
  s.runRegs (planMad (.v b (regsOf sz) true) sz d a) fun r => r.vecMad sz d a b

/-- `vadd` with a scalar B (R116, R117): a + b in each element. -/
def execVaddScalar (sz : ESize) (d a b : Nat) (s : State) : Out := s.vints sz (fun a b => a + b) d a b

/-- `vsub` with a scalar B (R116, R117): a − b in each element. -/
def execVsubScalar (sz : ESize) (d a b : Nat) (s : State) : Out := s.vints sz (fun a b => a - b) d a b

/-- `vmul` with a scalar B (R116, R117): the low half of a·b in each element. -/
def execVmulScalar (sz : ESize) (d a b : Nat) (s : State) : Out := s.vints sz (fun a b => a * b) d a b

/-- `vmulhI` with a scalar B (R116, R117): the high half, signed in each element. -/
def execVmulhIScalar (sz : ESize) (d a b : Nat) (s : State) : Out := s.vints sz (fun a b => mulHiS a b) d a b

/-- `vmulhN` with a scalar B (R116, R117): the high half, unsigned in each element. -/
def execVmulhNScalar (sz : ESize) (d a b : Nat) (s : State) : Out := s.vints sz (fun a b => mulHiU a b) d a b

/-- `vand` with a scalar B (R116, R117): AND in each element. -/
def execVandScalar (sz : ESize) (d a b : Nat) (s : State) : Out := s.vints sz (fun a b => a &&& b) d a b

/-- `vor` with a scalar B (R116, R117): OR in each element. -/
def execVorScalar (sz : ESize) (d a b : Nat) (s : State) : Out := s.vints sz (fun a b => a ||| b) d a b

/-- `vxor` with a scalar B (R116, R117): XOR in each element. -/
def execVxorScalar (sz : ESize) (d a b : Nat) (s : State) : Out := s.vints sz (fun a b => a ^^^ b) d a b

/-- `vshl` with a scalar B (R116, R117): shift left (R118) in each element. -/
def execVshlScalar (sz : ESize) (d a b : Nat) (s : State) : Out := s.vints sz (fun a b => shl a b) d a b

/-- `vshr` with a scalar B (R116, R117): logical shift right (R118) in each element. -/
def execVshrScalar (sz : ESize) (d a b : Nat) (s : State) : Out := s.vints sz (fun a b => shr a b) d a b

/-- `vsra` with a scalar B (R116, R117): arithmetic shift right (R118) in each element. -/
def execVsraScalar (sz : ESize) (d a b : Nat) (s : State) : Out := s.vints sz (fun a b => sra a b) d a b

/-- `vminI` with a scalar B (R116, R117): the smaller, signed in each element. -/
def execVminIScalar (sz : ESize) (d a b : Nat) (s : State) : Out := s.vints sz (fun a b => minS a b) d a b

/-- `vminN` with a scalar B (R116, R117): the smaller, unsigned in each element. -/
def execVminNScalar (sz : ESize) (d a b : Nat) (s : State) : Out := s.vints sz (fun a b => minU a b) d a b

/-- `vmaxI` with a scalar B (R116, R117): the larger, signed in each element. -/
def execVmaxIScalar (sz : ESize) (d a b : Nat) (s : State) : Out := s.vints sz (fun a b => maxS a b) d a b

/-- `vmaxN` with a scalar B (R116, R117): the larger, unsigned in each element. -/
def execVmaxNScalar (sz : ESize) (d a b : Nat) (s : State) : Out := s.vints sz (fun a b => maxU a b) d a b

/-- `vmad` with a scalar B (R116, R117). -/
def execVmadScalar (sz : ESize) (d a b : Nat) (s : State) : Out :=
  s.runRegs (planMad (.s b (regsOf sz) true) sz d a) fun r => r.vecMadS sz d a b

/-- `vaddi` (R119): a + imm in each element. -/
def execVaddi (sz : ESize) (d a imm : Nat) (s : State) : Out := s.vinti sz (fun a b => a + b) d a imm

/-- `vandi` (R119): AND in each element. -/
def execVandi (sz : ESize) (d a imm : Nat) (s : State) : Out := s.vinti sz (fun a b => a &&& b) d a imm

/-- `vori` (R119): OR in each element. -/
def execVori (sz : ESize) (d a imm : Nat) (s : State) : Out := s.vinti sz (fun a b => a ||| b) d a imm

/-- `vxori` (R119): XOR in each element. -/
def execVxori (sz : ESize) (d a imm : Nat) (s : State) : Out := s.vinti sz (fun a b => a ^^^ b) d a imm

/-- `vshli` (R119, R120): shift left in each element. -/
def execVshli (sz : ESize) (d a imm : Nat) (s : State) : Out := s.vinti sz (fun a b => shl a b) d a imm

/-- `vshri` (R119, R120): logical shift right in each element. -/
def execVshri (sz : ESize) (d a imm : Nat) (s : State) : Out := s.vinti sz (fun a b => shr a b) d a imm

/-- `vsrai` (R119, R120): arithmetic shift right in each element. -/
def execVsrai (sz : ESize) (d a imm : Nat) (s : State) : Out := s.vinti sz (fun a b => sra a b) d a imm

/-- `vmuli` (R119): the low half of a·imm in each element. -/
def execVmuli (sz : ESize) (d a imm : Nat) (s : State) : Out := s.vinti sz (fun a b => a * b) d a imm

/-- `vpopc` (R119): set bits in each element. -/
def execVpopc (sz : ESize) (d a : Nat) (s : State) : Out :=
  s.runRegs (planVV (regsOf sz) d a) fun r => r.vecUn sz (fun a => popCount a) d a

/-- `vclz` (R119): leading zeros in each element. -/
def execVclz (sz : ESize) (d a : Nat) (s : State) : Out :=
  s.runRegs (planVV (regsOf sz) d a) fun r => r.vecUn sz (fun a => leadZeros a) d a

/-- `vctz` (R119): trailing zeros in each element. -/
def execVctz (sz : ESize) (d a : Nat) (s : State) : Out :=
  s.runRegs (planVV (regsOf sz) d a) fun r => r.vecUn sz (fun a => trailZeros a) d a

/-- `vabs` (R119): signed magnitude in each element. -/
def execVabs (sz : ESize) (d a : Nat) (s : State) : Out :=
  s.runRegs (planVV (regsOf sz) d a) fun r => r.vecUn sz (fun a => absS a) d a

/-- `vneg` (R119): 0 − a in each element. -/
def execVneg (sz : ESize) (d a : Nat) (s : State) : Out :=
  s.runRegs (planVV (regsOf sz) d a) fun r => r.vecUn sz (fun a => 0 - a) d a

/-- `vbrev` (R119): bits reversed in each element. -/
def execVbrev (sz : ESize) (d a : Nat) (s : State) : Out :=
  s.runRegs (planVV (regsOf sz) d a) fun r => r.vecUn sz (fun a => bitReverse a) d a

end Sys2Proof.Machine
end

