-- ==== Sys2Proof/Machine/Dispatch.lean ====
section
/-! DEFINITION. One arm for each operation of spec/opcode_table.json. -/

namespace Sys2Proof.Machine

/-- The meaning of an instruction or an event in a state. -/
def exec (i : Instr) (s : State) : Host.Outcome State Fault Refusal :=
  match i with
  | .nop => Sys2Proof.Machine.execNop s
  | .trap n => Sys2Proof.Machine.execTrap n s
  | .tret => Sys2Proof.Machine.execTret s
  | .tretPark => Sys2Proof.Machine.execTretPark s
  | .tretKill => Sys2Proof.Machine.execTretKill s
  | .sys d a b => Sys2Proof.Machine.execSys d a b s
  | .rdsys d n => Sys2Proof.Machine.execRdsys d n s
  | .wrsys a n => Sys2Proof.Machine.execWrsys a n s
  | .ppoint m => Sys2Proof.Machine.execPpoint m s
  | .brkpt n => Sys2Proof.Machine.execBrkpt n s
  | .wbase n => Sys2Proof.Machine.execWbase n s
  | .ovload r a => Sys2Proof.Machine.execOvload r a s
  | .ovcall d a => Sys2Proof.Machine.execOvcall d a s
  | .ovret a => Sys2Proof.Machine.execOvret a s
  | .rdcyc d => Sys2Proof.Machine.execRdcyc d s
  | .br off => Sys2Proof.Machine.execBr off s
  | .bz r off => Sys2Proof.Machine.execBz r off s
  | .bnz r off => Sys2Proof.Machine.execBnz r off s
  | .blt r off => Sys2Proof.Machine.execBlt r off s
  | .bge r off => Sys2Proof.Machine.execBge r off s
  | .call r off => Sys2Proof.Machine.execCall r off s
  | .ret r => Sys2Proof.Machine.execRet r s
  | .jr r imm => Sys2Proof.Machine.execJr r imm s
  | .bem0 off => Sys2Proof.Machine.execBem0 off s
  | .bemx r off => Sys2Proof.Machine.execBemx r off s
  | .exit => Sys2Proof.Machine.execExit s
  | .maskIf r off => Sys2Proof.Machine.execMaskIf r off s
  | .maskElse off => Sys2Proof.Machine.execMaskElse off s
  | .maskEndif => Sys2Proof.Machine.execMaskEndif s
  | .maskLoop off => Sys2Proof.Machine.execMaskLoop off s
  | .endl off => Sys2Proof.Machine.execEndl off s
  | .brk n off => Sys2Proof.Machine.execBrk n off s
  | .cont n off => Sys2Proof.Machine.execCont n off s
  | .mpush r => Sys2Proof.Machine.execMpush r s
  | .mpop => Sys2Proof.Machine.execMpop s
  | .sadd d a b => Sys2Proof.Machine.execSadd d a b s
  | .ssub d a b => Sys2Proof.Machine.execSsub d a b s
  | .smul d a b => Sys2Proof.Machine.execSmul d a b s
  | .smulhI d a b => Sys2Proof.Machine.execSmulhI d a b s
  | .smulhN d a b => Sys2Proof.Machine.execSmulhN d a b s
  | .sand d a b => Sys2Proof.Machine.execSand d a b s
  | .sor d a b => Sys2Proof.Machine.execSor d a b s
  | .sxor d a b => Sys2Proof.Machine.execSxor d a b s
  | .sshl d a b => Sys2Proof.Machine.execSshl d a b s
  | .sshr d a b => Sys2Proof.Machine.execSshr d a b s
  | .ssra d a b => Sys2Proof.Machine.execSsra d a b s
  | .sminI d a b => Sys2Proof.Machine.execSminI d a b s
  | .sminN d a b => Sys2Proof.Machine.execSminN d a b s
  | .smaxI d a b => Sys2Proof.Machine.execSmaxI d a b s
  | .smaxN d a b => Sys2Proof.Machine.execSmaxN d a b s
  | .sseq d a b => Sys2Proof.Machine.execSseq d a b s
  | .ssltI d a b => Sys2Proof.Machine.execSsltI d a b s
  | .ssltN d a b => Sys2Proof.Machine.execSsltN d a b s
  | .sdivI d a b => Sys2Proof.Machine.execSdivI d a b s
  | .sdivN d a b => Sys2Proof.Machine.execSdivN d a b s
  | .sremI d a b => Sys2Proof.Machine.execSremI d a b s
  | .sremN d a b => Sys2Proof.Machine.execSremN d a b s
  | .spopc d a => Sys2Proof.Machine.execSpopc d a s
  | .sclz d a => Sys2Proof.Machine.execSclz d a s
  | .sctz d a => Sys2Proof.Machine.execSctz d a s
  | .sbfx d a b => Sys2Proof.Machine.execSbfx d a b s
  | .sbfi d a b => Sys2Proof.Machine.execSbfi d a b s
  | .saddq d a b => Sys2Proof.Machine.execSaddq d a b s
  | .ssubq d a b => Sys2Proof.Machine.execSsubq d a b s
  | .sshlq d a b => Sys2Proof.Machine.execSshlq d a b s
  | .saddi d a imm => Sys2Proof.Machine.execSaddi d a imm s
  | .sandi d a imm => Sys2Proof.Machine.execSandi d a imm s
  | .sori d a imm => Sys2Proof.Machine.execSori d a imm s
  | .sxori d a imm => Sys2Proof.Machine.execSxori d a imm s
  | .sshli d a imm => Sys2Proof.Machine.execSshli d a imm s
  | .sshri d a imm => Sys2Proof.Machine.execSshri d a imm s
  | .ssrai d a imm => Sys2Proof.Machine.execSsrai d a imm s
  | .sseqi d a imm => Sys2Proof.Machine.execSseqi d a imm s
  | .sslti d a imm => Sys2Proof.Machine.execSslti d a imm s
  | .saddqi d a imm => Sys2Proof.Machine.execSaddqi d a imm s
  | .sli d imm => Sys2Proof.Machine.execSli d imm s
  | .slih d imm => Sys2Proof.Machine.execSlih d imm s
  | .vadd sz d a b => Sys2Proof.Machine.execVadd sz d a b s
  | .vsub sz d a b => Sys2Proof.Machine.execVsub sz d a b s
  | .vmul sz d a b => Sys2Proof.Machine.execVmul sz d a b s
  | .vmulhI sz d a b => Sys2Proof.Machine.execVmulhI sz d a b s
  | .vmulhN sz d a b => Sys2Proof.Machine.execVmulhN sz d a b s
  | .vand sz d a b => Sys2Proof.Machine.execVand sz d a b s
  | .vor sz d a b => Sys2Proof.Machine.execVor sz d a b s
  | .vxor sz d a b => Sys2Proof.Machine.execVxor sz d a b s
  | .vshl sz d a b => Sys2Proof.Machine.execVshl sz d a b s
  | .vshr sz d a b => Sys2Proof.Machine.execVshr sz d a b s
  | .vsra sz d a b => Sys2Proof.Machine.execVsra sz d a b s
  | .vminI sz d a b => Sys2Proof.Machine.execVminI sz d a b s
  | .vminN sz d a b => Sys2Proof.Machine.execVminN sz d a b s
  | .vmaxI sz d a b => Sys2Proof.Machine.execVmaxI sz d a b s
  | .vmaxN sz d a b => Sys2Proof.Machine.execVmaxN sz d a b s
  | .vmad sz d a b => Sys2Proof.Machine.execVmad sz d a b s
  | .vaddScalar sz d a b => Sys2Proof.Machine.execVaddScalar sz d a b s
  | .vsubScalar sz d a b => Sys2Proof.Machine.execVsubScalar sz d a b s
  | .vmulScalar sz d a b => Sys2Proof.Machine.execVmulScalar sz d a b s
  | .vmulhIScalar sz d a b => Sys2Proof.Machine.execVmulhIScalar sz d a b s
  | .vmulhNScalar sz d a b => Sys2Proof.Machine.execVmulhNScalar sz d a b s
  | .vandScalar sz d a b => Sys2Proof.Machine.execVandScalar sz d a b s
  | .vorScalar sz d a b => Sys2Proof.Machine.execVorScalar sz d a b s
  | .vxorScalar sz d a b => Sys2Proof.Machine.execVxorScalar sz d a b s
  | .vshlScalar sz d a b => Sys2Proof.Machine.execVshlScalar sz d a b s
  | .vshrScalar sz d a b => Sys2Proof.Machine.execVshrScalar sz d a b s
  | .vsraScalar sz d a b => Sys2Proof.Machine.execVsraScalar sz d a b s
  | .vminIScalar sz d a b => Sys2Proof.Machine.execVminIScalar sz d a b s
  | .vminNScalar sz d a b => Sys2Proof.Machine.execVminNScalar sz d a b s
  | .vmaxIScalar sz d a b => Sys2Proof.Machine.execVmaxIScalar sz d a b s
  | .vmaxNScalar sz d a b => Sys2Proof.Machine.execVmaxNScalar sz d a b s
  | .vmadScalar sz d a b => Sys2Proof.Machine.execVmadScalar sz d a b s
  | .vaddi sz d a imm => Sys2Proof.Machine.execVaddi sz d a imm s
  | .vandi sz d a imm => Sys2Proof.Machine.execVandi sz d a imm s
  | .vori sz d a imm => Sys2Proof.Machine.execVori sz d a imm s
  | .vxori sz d a imm => Sys2Proof.Machine.execVxori sz d a imm s
  | .vshli sz d a imm => Sys2Proof.Machine.execVshli sz d a imm s
  | .vshri sz d a imm => Sys2Proof.Machine.execVshri sz d a imm s
  | .vsrai sz d a imm => Sys2Proof.Machine.execVsrai sz d a imm s
  | .vmuli sz d a imm => Sys2Proof.Machine.execVmuli sz d a imm s
  | .vpopc sz d a => Sys2Proof.Machine.execVpopc sz d a s
  | .vclz sz d a => Sys2Proof.Machine.execVclz sz d a s
  | .vctz sz d a => Sys2Proof.Machine.execVctz sz d a s
  | .vabs sz d a => Sys2Proof.Machine.execVabs sz d a s
  | .vneg sz d a => Sys2Proof.Machine.execVneg sz d a s
  | .vbrev sz d a => Sys2Proof.Machine.execVbrev sz d a s
  | .fadd fm d a b => Sys2Proof.Machine.execFadd fm d a b s
  | .fsub fm d a b => Sys2Proof.Machine.execFsub fm d a b s
  | .fmul fm d a b => Sys2Proof.Machine.execFmul fm d a b s
  | .fdiv fm d a b => Sys2Proof.Machine.execFdiv fm d a b s
  | .fmin fm d a b => Sys2Proof.Machine.execFmin fm d a b s
  | .fmax fm d a b => Sys2Proof.Machine.execFmax fm d a b s
  | .fminn fm d a b => Sys2Proof.Machine.execFminn fm d a b s
  | .fmaxn fm d a b => Sys2Proof.Machine.execFmaxn fm d a b s
  | .fcpys fm d a b => Sys2Proof.Machine.execFcpys fm d a b s
  | .fscale fm d a b => Sys2Proof.Machine.execFscale fm d a b s
  | .frem fm d a b => Sys2Proof.Machine.execFrem fm d a b s
  | .fsqrt fm d a => Sys2Proof.Machine.execFsqrt fm d a s
  | .fabs fm d a => Sys2Proof.Machine.execFabs fm d a s
  | .fneg fm d a => Sys2Proof.Machine.execFneg fm d a s
  | .frint fm d a => Sys2Proof.Machine.execFrint fm d a s
  | .fclass fm d a => Sys2Proof.Machine.execFclass fm d a s
  | .faddScalar fm d a b => Sys2Proof.Machine.execFaddScalar fm d a b s
  | .fsubScalar fm d a b => Sys2Proof.Machine.execFsubScalar fm d a b s
  | .fmulScalar fm d a b => Sys2Proof.Machine.execFmulScalar fm d a b s
  | .fdivScalar fm d a b => Sys2Proof.Machine.execFdivScalar fm d a b s
  | .fminScalar fm d a b => Sys2Proof.Machine.execFminScalar fm d a b s
  | .fmaxScalar fm d a b => Sys2Proof.Machine.execFmaxScalar fm d a b s
  | .fminnScalar fm d a b => Sys2Proof.Machine.execFminnScalar fm d a b s
  | .fmaxnScalar fm d a b => Sys2Proof.Machine.execFmaxnScalar fm d a b s
  | .fcpysScalar fm d a b => Sys2Proof.Machine.execFcpysScalar fm d a b s
  | .fscaleScalar fm d a b => Sys2Proof.Machine.execFscaleScalar fm d a b s
  | .fremScalar fm d a b => Sys2Proof.Machine.execFremScalar fm d a b s
  | .ffma fm d a b => Sys2Proof.Machine.execFfma fm d a b s
  | .ffms fm d a b => Sys2Proof.Machine.execFfms fm d a b s
  | .ffnma fm d a b => Sys2Proof.Machine.execFfnma fm d a b s
  | .ffnms fm d a b => Sys2Proof.Machine.execFfnms fm d a b s
  | .vcvt pair d a rnd sat pos => Sys2Proof.Machine.execVcvt pair d a rnd sat pos s
  | .frcp fm d a => Sys2Proof.Machine.execFrcp fm d a s
  | .frsq fm d a => Sys2Proof.Machine.execFrsq fm d a s
  | .fexp2 fm d a => Sys2Proof.Machine.execFexp2 fm d a s
  | .flog2 fm d a => Sys2Proof.Machine.execFlog2 fm d a s
  | .fsin fm d a => Sys2Proof.Machine.execFsin fm d a s
  | .fcos fm d a => Sys2Proof.Machine.execFcos fm d a s
  | .vcmp cond ty d a b => Sys2Proof.Machine.execVcmp cond ty d a b s
  | .vbcast d a b => Sys2Proof.Machine.execVbcast d a b s
  | .vperm d a b => Sys2Proof.Machine.execVperm d a b s
  | .vshfup d a b => Sys2Proof.Machine.execVshfup d a b s
  | .vshfdn d a b => Sys2Proof.Machine.execVshfdn d a b s
  | .vshfx d a b => Sys2Proof.Machine.execVshfx d a b s
  | .vvoteAny d a => Sys2Proof.Machine.execVvoteAny d a s
  | .vvoteAll d a => Sys2Proof.Machine.execVvoteAll d a s
  | .vballot d a => Sys2Proof.Machine.execVballot d a s
  | .vmatchB32 d a => Sys2Proof.Machine.execVmatchB32 d a s
  | .vmatchF32 d a => Sys2Proof.Machine.execVmatchF32 d a s
  | .vcompact d a b => Sys2Proof.Machine.execVcompact d a b s
  | .vscanAddI32 d a b => Sys2Proof.Machine.execVscanAddI32 d a b s
  | .vscanAddF32 d a b => Sys2Proof.Machine.execVscanAddF32 d a b s
  | .vscanMinI d a b => Sys2Proof.Machine.execVscanMinI d a b s
  | .vscanMinN d a b => Sys2Proof.Machine.execVscanMinN d a b s
  | .vscanMaxI d a b => Sys2Proof.Machine.execVscanMaxI d a b s
  | .vscanMaxN d a b => Sys2Proof.Machine.execVscanMaxN d a b s
  | .vscanAnd d a b => Sys2Proof.Machine.execVscanAnd d a b s
  | .vscanOr d a b => Sys2Proof.Machine.execVscanOr d a b s
  | .vscanxAddI32 d a b => Sys2Proof.Machine.execVscanxAddI32 d a b s
  | .vscanxAddF32 d a b => Sys2Proof.Machine.execVscanxAddF32 d a b s
  | .vscanxMinI d a b => Sys2Proof.Machine.execVscanxMinI d a b s
  | .vscanxMinN d a b => Sys2Proof.Machine.execVscanxMinN d a b s
  | .vscanxMaxI d a b => Sys2Proof.Machine.execVscanxMaxI d a b s
  | .vscanxMaxN d a b => Sys2Proof.Machine.execVscanxMaxN d a b s
  | .vscanxAnd d a b => Sys2Proof.Machine.execVscanxAnd d a b s
  | .vscanxOr d a b => Sys2Proof.Machine.execVscanxOr d a b s
  | .vredAddI32 d a b => Sys2Proof.Machine.execVredAddI32 d a b s
  | .vredAddF32 d a b => Sys2Proof.Machine.execVredAddF32 d a b s
  | .vredMinI d a b => Sys2Proof.Machine.execVredMinI d a b s
  | .vredMinN d a b => Sys2Proof.Machine.execVredMinN d a b s
  | .vredMaxI d a b => Sys2Proof.Machine.execVredMaxI d a b s
  | .vredMaxN d a b => Sys2Proof.Machine.execVredMaxN d a b s
  | .vredAnd d a b => Sys2Proof.Machine.execVredAnd d a b s
  | .vredOr d a b => Sys2Proof.Machine.execVredOr d a b s
  | .vmov d a => Sys2Proof.Machine.execVmov d a s
  | .vsel d a b => Sys2Proof.Machine.execVsel d a b s
  | .vmovs d a => Sys2Proof.Machine.execVmovs d a s
  | .vread d a b => Sys2Proof.Machine.execVread d a b s
  | .vwrite d a b => Sys2Proof.Machine.execVwrite d a b s
  | .emget d => Sys2Proof.Machine.execEmget d s
  | .emset a => Sys2Proof.Machine.execEmset a s
  | .fpcget d => Sys2Proof.Machine.execFpcget d s
  | .fpcset a => Sys2Proof.Machine.execFpcset a s
  | .fpcclr => Sys2Proof.Machine.execFpcclr s
  | .vlaneid d => Sys2Proof.Machine.execVlaneid d s
  | .smov d a => Sys2Proof.Machine.execSmov d a s
  | .smovx d n => Sys2Proof.Machine.execSmovx d n s
  | .lcset a => Sys2Proof.Machine.execLcset a s
  | .lcget d => Sys2Proof.Machine.execLcget d s
  | .ldg sz sign ord d a b => Sys2Proof.Machine.execLdg sz sign ord d a b s
  | .stg sz ord d a b => Sys2Proof.Machine.execStg sz ord d a b s
  | .atomAdd wd ret d a b => Sys2Proof.Machine.execAtomAdd wd ret d a b s
  | .atomSub wd ret d a b => Sys2Proof.Machine.execAtomSub wd ret d a b s
  | .atomMinI wd ret d a b => Sys2Proof.Machine.execAtomMinI wd ret d a b s
  | .atomMinN wd ret d a b => Sys2Proof.Machine.execAtomMinN wd ret d a b s
  | .atomMaxI wd ret d a b => Sys2Proof.Machine.execAtomMaxI wd ret d a b s
  | .atomMaxN wd ret d a b => Sys2Proof.Machine.execAtomMaxN wd ret d a b s
  | .atomAnd wd ret d a b => Sys2Proof.Machine.execAtomAnd wd ret d a b s
  | .atomOr wd ret d a b => Sys2Proof.Machine.execAtomOr wd ret d a b s
  | .atomXor wd ret d a b => Sys2Proof.Machine.execAtomXor wd ret d a b s
  | .atomXchg wd ret d a b => Sys2Proof.Machine.execAtomXchg wd ret d a b s
  | .atomCas wd ret d a b => Sys2Proof.Machine.execAtomCas wd ret d a b s
  | .atomInc wd ret d a b => Sys2Proof.Machine.execAtomInc wd ret d a b s
  | .atomDec wd ret d a b => Sys2Proof.Machine.execAtomDec wd ret d a b s
  | .atomFaddF32 ret d a b => Sys2Proof.Machine.execAtomFaddF32 ret d a b s
  | .atomFaddF64 ret d a b => Sys2Proof.Machine.execAtomFaddF64 ret d a b s
  | .lds sz d a b => Sys2Proof.Machine.execLds sz d a b s
  | .ldsTake sz d a b => Sys2Proof.Machine.execLdsTake sz d a b s
  | .ldsTry sz d a b => Sys2Proof.Machine.execLdsTry sz d a b s
  | .ldsLine d a b => Sys2Proof.Machine.execLdsLine d a b s
  | .sts sz d a b => Sys2Proof.Machine.execSts sz d a b s
  | .satomAdd wd d a b => Sys2Proof.Machine.execSatomAdd wd d a b s
  | .satomMinI wd d a b => Sys2Proof.Machine.execSatomMinI wd d a b s
  | .satomMinN wd d a b => Sys2Proof.Machine.execSatomMinN wd d a b s
  | .satomMaxI wd d a b => Sys2Proof.Machine.execSatomMaxI wd d a b s
  | .satomMaxN wd d a b => Sys2Proof.Machine.execSatomMaxN wd d a b s
  | .satomAnd wd d a b => Sys2Proof.Machine.execSatomAnd wd d a b s
  | .satomOr wd d a b => Sys2Proof.Machine.execSatomOr wd d a b s
  | .satomXchg wd d a b => Sys2Proof.Machine.execSatomXchg wd d a b s
  | .satomCas wd d a b => Sys2Proof.Machine.execSatomCas wd d a b s
  | .sfin a b => Sys2Proof.Machine.execSfin a b s
  | .sclr a b => Sys2Proof.Machine.execSclr a b s
  | .sopen a b => Sys2Proof.Machine.execSopen a b s
  | .pld d a b => Sys2Proof.Machine.execPld d a b s
  | .pst d a b => Sys2Proof.Machine.execPst d a b s
  | .pldq d a b => Sys2Proof.Machine.execPldq d a b s
  | .pstq d a b => Sys2Proof.Machine.execPstq d a b s
  | .fenceRel sc => Sys2Proof.Machine.execFenceRel sc s
  | .fenceAcq sc => Sys2Proof.Machine.execFenceAcq sc s
  | .fenceSc sc => Sys2Proof.Machine.execFenceSc sc s
  | .wait ld st cp tl => Sys2Proof.Machine.execWait ld st cp tl s
  | .bar k b => Sys2Proof.Machine.execBar k b s
  | .barArr k b => Sys2Proof.Machine.execBarArr k b s
  | .barWt k => Sys2Proof.Machine.execBarWt k s
  | .sig sc a b => Sys2Proof.Machine.execSig sc a b s
  | .sigwait sc a b => Sys2Proof.Machine.execSigwait sc a b s
  | .flushw sc a b => Sys2Proof.Machine.execFlushw sc a b s
  | .invl sc a b => Sys2Proof.Machine.execInvl sc a b s
  | .dcp a => Sys2Proof.Machine.execDcp a s
  | .dcp2 a => Sys2Proof.Machine.execDcp2 a s
  | .dcpg d a b => Sys2Proof.Machine.execDcpg d a b s
  | .dcpx a => Sys2Proof.Machine.execDcpx a s
  | .dcpr a => Sys2Proof.Machine.execDcpr a s
  | .dstat d a => Sys2Proof.Machine.execDstat d a s
  | .rld d a b => Sys2Proof.Machine.execRld d a b s
  | .rst d a b => Sys2Proof.Machine.execRst d a b s
  | .ratom d a b => Sys2Proof.Machine.execRatom d a b s
  | .rput d a b => Sys2Proof.Machine.execRput d a b s
  | .rget d a b => Sys2Proof.Machine.execRget d a b s
  | .rflush a b => Sys2Proof.Machine.execRflush a b s
  | .mma fm a slot tile rnd scl nega => Sys2Proof.Machine.execMma fm a slot tile rnd scl nega s
  | .bload scl slot a fm => Sys2Proof.Machine.execBload scl slot a fm s
  | .bfree slot => Sys2Proof.Machine.execBfree slot s
  | .mzero tile mode => Sys2Proof.Machine.execMzero tile mode s
  | .mst d sat tile rnd fm => Sys2Proof.Machine.execMst d sat tile rnd fm s
  | .mld tile a mode => Sys2Proof.Machine.execMld tile a mode s
  | .mstat d tile => Sys2Proof.Machine.execMstat d tile s
  | .mstatClr d tile => Sys2Proof.Machine.execMstatClr d tile s
  | .mstatSet d tile => Sys2Proof.Machine.execMstatSet d tile s
  | .mtov d tile b => Sys2Proof.Machine.execMtov d tile b s
  | .vtom tile a b => Sys2Proof.Machine.execVtom tile a b s
  | .cbrAny hint q p off => Sys2Proof.Machine.execCbrAny hint q p off s
  | .cbrAll hint q p off => Sys2Proof.Machine.execCbrAll hint q p off s
  | .qbar q => Sys2Proof.Machine.execQbar q s
  | .cvote a q => Sys2Proof.Machine.execCvote a q s
  | .qleave q => Sys2Proof.Machine.execQleave q s
  | .qstat d q => Sys2Proof.Machine.execQstat d q s
  | .tkwait => Sys2Proof.Machine.execTkwait s
  | .tkpass => Sys2Proof.Machine.execTkpass s
  | .illegalInstruction word => Sys2Proof.Machine.execIllegalInstruction word s
  | .trapEntry w => Sys2Proof.Machine.execTrapEntry w s
  | .exitDrain w => Sys2Proof.Machine.execExitDrain w s
  | .loadComplete w reply vals => Sys2Proof.Machine.execLoadComplete w reply vals s
  | .storePerformed x => Sys2Proof.Machine.execStorePerformed x s
  | .mmaComplete w => Sys2Proof.Machine.execMmaComplete w s
  | .bloadComplete w => Sys2Proof.Machine.execBloadComplete w s
  | .mldComplete w => Sys2Proof.Machine.execMldComplete w s
  | .mstLineWrite w resumed => Sys2Proof.Machine.execMstLineWrite w resumed s
  | .overlayLoadComplete core slot => Sys2Proof.Machine.execOverlayLoadComplete core slot s
  | .sysReply w data => Sys2Proof.Machine.execSysReply w data s
  | .storageCompletion w lane status blocks data => Sys2Proof.Machine.execStorageCompletion w lane status blocks data s
  | .copyService core => Sys2Proof.Machine.execCopyService core s
  | .arrival ctx jtag ident seq places data => Sys2Proof.Machine.execArrival ctx jtag ident seq places data s
  | .remoteRequest r => Sys2Proof.Machine.execRemoteRequest r s
  | .reduceContribution c => Sys2Proof.Machine.execReduceContribution c s
  | .elemResend core entry => Sys2Proof.Machine.execElemResend core entry s
  | .voteArrival v => Sys2Proof.Machine.execVoteArrival v s
  | .voteResult w q res => Sys2Proof.Machine.execVoteResult w q res s
  | .collectiveTimeout ctx entry => Sys2Proof.Machine.execCollectiveTimeout ctx entry s
  | .watchdog w => Sys2Proof.Machine.execWatchdog w s
  | .preemptDeadline l => Sys2Proof.Machine.execPreemptDeadline l s
  | .parkComplete w => Sys2Proof.Machine.execParkComplete w s
  | .blockRestore blk => Sys2Proof.Machine.execBlockRestore blk s
  | .quantumEnd core => Sys2Proof.Machine.execQuantumEnd core s
  | .blockPlace l => Sys2Proof.Machine.execBlockPlace l s
  | .blockRetire blk => Sys2Proof.Machine.execBlockRetire blk s
  | .launchComplete l => Sys2Proof.Machine.execLaunchComplete l s
  | .launch ctx q => Sys2Proof.Machine.execLaunch ctx q s
  | .copy ctx q => Sys2Proof.Machine.execCopy ctx q s
  | .signal ctx q => Sys2Proof.Machine.execSignal ctx q s
  | .waitsig ctx q => Sys2Proof.Machine.execWaitsig ctx q s
  | .waitsigSatisfied ctx q => Sys2Proof.Machine.execWaitsigSatisfied ctx q s
  | .flush ctx q => Sys2Proof.Machine.execFlush ctx q s
  | .inval ctx q => Sys2Proof.Machine.execInval ctx q s
  | .checkpointSave ctx q => Sys2Proof.Machine.execCheckpointSave ctx q s
  | .checkpointRestore ctx q => Sys2Proof.Machine.execCheckpointRestore ctx q s
  | .ownership ctx q => Sys2Proof.Machine.execOwnership ctx q s
  | .tail ctx q master v => Sys2Proof.Machine.execTail ctx q master v s
  | .crhead ctx q master v => Sys2Proof.Machine.execCrhead ctx q master v s
  | .preq ctx master v => Sys2Proof.Machine.execPreq ctx master v s
  | .prelease ctx master v => Sys2Proof.Machine.execPrelease ctx master v s
  | .ownclaim rid => Sys2Proof.Machine.execOwnclaim rid s
  | .ownbeat rid => Sys2Proof.Machine.execOwnbeat rid s
  | .electionWindowEnd => Sys2Proof.Machine.execElectionWindowEnd s
  | .ownershipLapse => Sys2Proof.Machine.execOwnershipLapse s
  | .handoverLapsed => Sys2Proof.Machine.execHandoverLapsed s
  | .create => Sys2Proof.Machine.execCreate s
  | .destroy => Sys2Proof.Machine.execDestroy s
  | .qwrite => Sys2Proof.Machine.execQwrite s
  | .keyset => Sys2Proof.Machine.execKeyset s
  | .keyclr => Sys2Proof.Machine.execKeyclr s
  | .tlbinv => Sys2Proof.Machine.execTlbinv s
  | .lease => Sys2Proof.Machine.execLease s
  | .revoke => Sys2Proof.Machine.execRevoke s
  | .revokeAbort k => Sys2Proof.Machine.execRevokeAbort k s
  | .revokeControllerReset k => Sys2Proof.Machine.execRevokeControllerReset k s
  | .attest => Sys2Proof.Machine.execAttest s
  | .spdmMessage m => Sys2Proof.Machine.execSpdmMessage m s
  | .tdiError tdi => Sys2Proof.Machine.execTdiError tdi s
  | .halt ctx master ident => Sys2Proof.Machine.execHalt ctx master ident s
  | .resume ctx master ident => Sys2Proof.Machine.execResume ctx master ident s
  | .step ctx master ident count => Sys2Proof.Machine.execStep ctx master ident count s
  | .readRegister ctx master ident operand => Sys2Proof.Machine.execReadRegister ctx master ident operand s
  | .writeRegister ctx master ident operand => Sys2Proof.Machine.execWriteRegister ctx master ident operand s
  | .readAtticSections ctx master operand => Sys2Proof.Machine.execReadAtticSections ctx master operand s
  | .scan => Sys2Proof.Machine.execScan s
  | .digestOnlyScan => Sys2Proof.Machine.execDigestOnlyScan s
  | .atticResume => Sys2Proof.Machine.execAtticResume s
  | .restart => Sys2Proof.Machine.execRestart s
  | .stopctl master v => Sys2Proof.Machine.execStopctl master v s
  | .freeze => Sys2Proof.Machine.execFreeze s
  | .loggedArrivalDelivery => Sys2Proof.Machine.execLoggedArrivalDelivery s
  | .uncorrectableError e => Sys2Proof.Machine.execUncorrectableError e s
  | .refreshRateChange sensor rate => Sys2Proof.Machine.execRefreshRateChange sensor rate s
  | .faultReply ctx va ok code => Sys2Proof.Machine.execFaultReply ctx va ok code s
  | .migClear ctx va => Sys2Proof.Machine.execMigClear ctx va s
  | .priResponse ctx va w code => Sys2Proof.Machine.execPriResponse ctx va w code s
  | .priTimeout ctx va => Sys2Proof.Machine.execPriTimeout ctx va s
  | .atsInvalidation pasid base len => Sys2Proof.Machine.execAtsInvalidation pasid base len s
  | .shootdown ctx va phase => Sys2Proof.Machine.execShootdown ctx va phase s
  | .matrixSelfTest core part badBank => Sys2Proof.Machine.execMatrixSelfTest core part badBank s
  | .matrixHang core part => Sys2Proof.Machine.execMatrixHang core part s
  | .matrixResetDone core part badBanks => Sys2Proof.Machine.execMatrixResetDone core part badBanks s
  | .sample x => Sys2Proof.Machine.execSample x s
  | .waitForReading => Sys2Proof.Machine.execWaitForReading s
  | .heartbeat rank => Sys2Proof.Machine.execHeartbeat rank s
  | .rankLost rank => Sys2Proof.Machine.execRankLost rank s
  | .departureFlit rank => Sys2Proof.Machine.execDepartureFlit rank s
  | .linkDown rank => Sys2Proof.Machine.execLinkDown rank s
  | .detourResend rank => Sys2Proof.Machine.execDetourResend rank s
  | .linkReplay port => Sys2Proof.Machine.execLinkReplay port s
  | .alignmentExchange => Sys2Proof.Machine.execAlignmentExchange s
  | .alignmentReply rank t1 => Sys2Proof.Machine.execAlignmentReply rank t1 s
  | .alignmentResult t1 t2 t3 => Sys2Proof.Machine.execAlignmentResult t1 t2 t3 s
  | .rcvgo master => Sys2Proof.Machine.execRcvgo master s
  | .recoveryFetchEnd result bad banks => Sys2Proof.Machine.execRecoveryFetchEnd result bad banks s
  | .coldReset flashOk bad banks => Sys2Proof.Machine.execColdReset flashOk bad banks s
  | .packageReset bad banks => Sys2Proof.Machine.execPackageReset bad banks s
  | .thrctl v => Sys2Proof.Machine.execThrctl v s
  | .powerMeasurement watts temps => Sys2Proof.Machine.execPowerMeasurement watts temps s
  | .thermalPowerRemoval => Sys2Proof.Machine.execThermalPowerRemoval s
  | .firmwareUpdate data => Sys2Proof.Machine.execFirmwareUpdate data s
  | .registerWrite master page off x => Sys2Proof.Machine.execRegisterWrite master page off x s
  | .portDown port => Sys2Proof.Machine.execPortDown port s
  | .ethernetFrame port data => Sys2Proof.Machine.execEthernetFrame port data s

end Sys2Proof.Machine
end

