-- ==== Sys2Proof/Machine/Due.lean ====
section
/-! DEFINITION. What happens next in the domain (log 3): the events that are due, the wave that issues
(spec/14_scheduling.md R344, R345), and what arrives from outside (spec/20_replay.md R449, R460). -/

namespace Sys2Proof.Machine

/-! ### Events of waves -/

/-- The completion of a wave's first matrix operation of each kind, and lines of its `mst`. -/
noncomputable def Wave.tileEvents (k : Nat) (w : Wave) : List Instr :=
  let has := fun x : TileOpKind => w.tileOps.any fun o => o.kind = x && !o.done
  (if has .mma then [.mmaComplete k] else []) ++ (if has .bload then [.bloadComplete k] else []) ++
    (if has .mld then [.mldComplete k] else []) ++ if has .mst then [.mstLineWrite k false] else []

/-- The reply of the service cores to a wave is due (R386): of the storage service when no command of the wave is left
and their data is in their buffers (R413). -/
def State.replyDue (s : State) (k : Nat) (w : Wave) : Bool :=
  match w.sysWait with
  | none => false
  | some (n, _) => decide (n ≠ storageService) || !(s.ctxAt (s.launchAt w.launch).ctx).serves n ||
    !((s.storage.any fun x => x.wave = k) || s.posting (s.launchAt w.launch).ctx)

/-- The words of a service's reply: free values, as a service is a program of the service cores (R386; log 9). -/
noncomputable def State.serviceReply (s : State) : List Nat :=
  (List.range 256).map fun i => (Config.freeValue (s.fresh + i)).toNat % 2 ^ 32

/-- A result that a wave holds while it speculates, and for which there is room by now (R318). -/
def State.heldResult (s : State) (w : Wave) : Option (Nat × VoteRes) :=
  w.spec.bind fun sp =>
    if s.specRoom w sp then ((tget w.quor sp.slot {}).res.head?).map fun r => (w.slotByte sp.slot, r) else none

/-- The events due of one wave. -/
noncomputable def State.waveEvents (s : State) (k : Nat) (w : Wave) : List Instr :=
  (match w.loads with | [] => [] | ld :: _ => if ld.remote then [] else [.loadComplete k none []]) ++
    (match w.stores with | [] => [] | st :: _ => if st.remote then [] else [.storePerformed { w := k }]) ++
    (if s.engineHung w then [] else w.tileEvents k) ++
    (if s.exitReady w then [.exitDrain k] else []) ++
    (if s.replyDue k w then [.sysReply k s.serviceReply] else []) ++
    (if s.parkReady w then [.parkComplete k] else []) ++
    match s.heldResult w with | none => [] | some x => [.voteResult k ⟨(s.launchAt w.launch).ctx, x.1⟩ x.2]

/-! ### Events of cores, blocks and launches -/

/-- The events due of the matrix engines of a logical core's physical core, which its first logical core names
(R186, R434). -/
noncomputable def State.engineEvents (s : State) (c : Nat) : List Instr :=
  if (s.group c).headD c = c then
    let x := s.engineAt c
    (x.mops.filter fun m => decide (4096 ≤ m.2)).map (fun m => .matrixSelfTest c m.1 none) ++
      (x.hang.filter (s.resetOver c)).map fun p => .matrixResetDone c p []
  else []

/-- The events due of one core. -/
noncomputable def State.coreEvents (s : State) (c : Nat) (x : Core) : List Instr :=
  (x.slots.filter fun y => !y.2.loading.isEmpty).map (fun y => .overlayLoadComplete c y.1) ++
    (if x.nextEntry.isSome then [.copyService c] else []) ++
    (x.copyq.filter fun e => e.2.busy && e.2.resend).map (fun e => .elemResend c e.1) ++
    if x.qends ≠ 0 && decide (x.qends ≤ s.cycle) && !x.outgoing then [.quantumEnd c] else []

/-- The events due of one block. -/
noncomputable def State.blockEvents (s : State) (k : Nat) (b : Block) : List Instr :=
  (if s.retirable k then [.blockRetire k] else []) ++ (if s.restorable k then [.blockRestore k] else []) ++
    ((b.msts.map Prod.fst).eraseDups.filter fun w => (s.waveAt w).resumes).map fun w => .mstLineWrite w true

/-- The events due of the launches. -/
noncomputable def State.launchEvents (s : State) : List Instr :=
  let ls := s.liveLaunches
  (match ls.find? s.offered with | none => [] | some l => [.blockPlace l]) ++
    (ls.filter fun l => (s.launchAt l).ended &&
      !s.frbWaits (queueParty (s.launchAt l).ctx (s.launchAt l).queue)).map fun l => .launchComplete l

/-! ### Commands and administration -/

/-- The event of a command by its op; whether a checkpoint saves is in its descriptor, so both are tried. -/
noncomputable def commandEvents (ctx q op : Nat) : List Instr :=
  if op = 2 then [.copy ctx q]
  else if op = 3 then [.signal ctx q]
  else if op = 4 then [.waitsig ctx q]
  else if op = 5 then [.flush ctx q]
  else if op = 6 then [.inval ctx q]
  else if op = 7 then [.checkpointSave ctx q, .checkpointRestore ctx q]
  else if op = 8 then [.ownership ctx q]
  else [.launch ctx q]

/-- The events due of a queue: its command in progress goes on, or its next entry starts (R333). -/
noncomputable def State.queueEvents (s : State) (ctx q : Nat) (x : Queue) : List Instr :=
  if s.frbWaits (queueParty ctx q) then []
  else match x.busy with
  | some c =>
    if c.op = 4 then [.waitsigSatisfied ctx q]
    else if c.op = 8 && s.giver.isSome then []
    else commandEvents ctx q c.op
  | none =>
    if s.entryWaits ctx q && s.headWaits ctx q then [.launch ctx q]
    else if s.entryWaits ctx q && s.mayStart ctx q (s.headEntry ctx q) then
      commandEvents ctx q (fld (s.headEntry ctx q) 0 1)
    else []

/-- The event of the administration request at hand (R407). -/
noncomputable def State.admEvents (s : State) : List Instr :=
  if !s.admBusy then []
  else
    let op := s.admOp
    if op = 1 then [.create]
    else if op = 2 then [.destroy]
    else if op = 3 then [.qwrite]
    else if op = 4 then [.keyset]
    else if op = 5 then [.keyclr]
    else if op = 6 then [.tlbinv]
    else if op = 7 then [.lease]
    else if op = 8 then [.revoke]
    else [.attest]

/-- The TDIs of contexts that are destroyed for an error and have nothing left (R414). -/
noncomputable def State.tdiEvents (s : State) : List Instr :=
  (s.dying.filter fun c => s.destroyed c && !(s.admBusy && decide (s.admOp = 2) && decide (s.admArg 0 = c))).map
    fun c => .tdiError (s.ctxAt c).tdi

/-- The events due of ownership and revocations (R396 to R398, R412). -/
noncomputable def State.ownerEvents (s : State) : List Instr :=
  (if s.windowOver then [.electionWindowEnd] else []) ++ (if s.leaseOver then [.ownershipLapse] else []) ++
    (if s.handoverOver then [.handoverLapsed] else []) ++
    (s.revokes.mapIdx fun i v => (i, v)).flatMap fun x =>
      (if x.2.abortDue s.cycle then [.revokeAbort x.1] else []) ++
        if x.2.resetDue s.cycle then [.revokeControllerReset x.1] else []

/-! ### Other ranks, faults, observation -/

/-- The event by which a transfer at a block is tried again. -/
noncomputable def Transfer.event (t : Transfer) : List Instr :=
  match t.items with
  | [] => []
  | _ :: _ =>
    if t.put then
      [.arrival t.ctx t.jtag t.x.word t.seq (t.items.map fun i => (i.2.1, i.2.2.1))
        (t.items.map fun i => i.2.2.2.map BitVec.toNat)]
    else
      let ls : List RemoteLane := t.items.map fun i =>
        { lane := i.1, addr := i.2.1 * 2 ^ 32 + i.2.2.1, data := 0, swap := 0, op := 0, wide := false, ret := false }
      [.remoteRequest
        { stage := .go, track := false, ctx := t.ctx, jtag := t.jtag, kind := .rget, ident := t.x.issuer, seq := t.seq
          region := 0, lanes := ls }]

/-- The events due that other ranks and the agreement units bring about. Votes and results on their way keep their
order (R327). -/
noncomputable def State.rankEvents (s : State) : List Instr :=
  (s.votes.take 1).map (fun v => .voteArrival v) ++ (s.results.take 1).map (fun r =>
      .voteResult r.1 ⟨(s.launchAt (s.waveAt r.1).launch).ctx, r.2.1⟩ r.2.2) ++
    (s.ctxs.flatMap fun c =>
      (c.2.quorums.filter fun q => !(q.2.expired s.cycle).isEmpty || !(q.2.stale s.cycle).isEmpty).map (fun q => .collectiveTimeout c.1 q.1) ++
        c.2.regions.filterMap fun g => g.2.next.map fun x => .reduceContribution x) ++
    s.waitContrs.map (fun c => .reduceContribution c) ++ s.waitReqs.map (fun r => .remoteRequest r) ++
    s.transfers.flatMap Transfer.event ++ s.resendDue.map (fun r => .detourResend r) ++
    (if s.beatDue then [.heartbeat none] else []) ++
    (((List.range 16).filter s.silent).map fun r => .rankLost r) ++
    if s.alignDue then [.alignmentExchange] else []

/-- The events due of the fault replay buffers and shoot-downs. Whether the policy of a context resolves a fault, and the
response code, are free values (R369; log 9). -/
noncomputable def State.faultEvents (s : State) : List Instr :=
  let free := Config.freeValue s.fresh
  (s.frb.filter fun e => decide (e.kind = .service) && e.answer.isNone).map
      (fun e => .faultReply e.ctx (e.page * 2 ^ 16) (free.getLsbD 0) (free.toNat / 2 % 2 ^ 32)) ++
    (s.frb.filter fun e => decide (e.kind = .mig) && e.answer.isNone).map (fun e => .migClear e.ctx (e.page * 2 ^ 16)) ++
    (s.frb.filter s.priExpired).map (fun e => .priTimeout e.ctx (e.page * 4096)) ++
    (s.shoot.filter fun x => 2 ≤ x.step || (s.ctxAt x.ctx).jobSize ≤ 1).map
      fun x => .shootdown x.ctx (x.page * 2 ^ 16) (x.step + 1)

/-- The events that are due in the domain. -/
noncomputable def State.due (s : State) : List Instr :=
  (s.waves.flatMap fun w => s.waveEvents w.1 w.2) ++ (List.range 48).flatMap s.engineEvents ++
    (s.cores.flatMap fun c => s.coreEvents c.1 c.2) ++ (s.blocks.flatMap fun b => s.blockEvents b.1 b.2) ++ s.launchEvents ++
    (s.ctxs.flatMap fun c => c.2.queues.flatMap fun q => s.queueEvents c.1 q.1 q.2) ++
    s.admEvents ++ s.tdiEvents ++ s.ownerEvents ++ s.rankEvents ++ s.faultEvents

/-- The launches with waves whose pre-emption deadline has passed. -/
def State.overdueLaunches (s : State) : List Nat :=
  (s.waves.filter fun w => w.2.overdue s.cycle).map fun w => w.2.launch

/-- What happens at a clock of its own before anything else of that clock, and takes none: a deadline of a pre-emption, so
that its waves trap at their first boundary (R377), and the reading of the wait-for graph (R352). -/
noncomputable def State.punctual (s : State) : Option Instr :=
  match s.overdueLaunches with
  | l :: _ => some (.preemptDeadline l)
  | [] => if s.readingDue then some .waitForReading else none

/-- The event that happens, of those due: in rotation (log 3). -/
noncomputable def State.dueEvent (s : State) : Option Instr := s.due[(s.cycle / 2) % s.due.length]?

/-! ### Issue -/

/-- A Resident wave with an instruction at its pc that issues unless it stalls (R344, R467). -/
def State.fetches (s : State) (w : Wave) : Bool :=
  decide (w.life = .resident) && w.sysWait.isNone && !w.held && !s.overlayBusy w

/-- A wave that may act at issue: one with a trap to take, or with an instruction (R344, R371). -/
def State.runnable (s : State) (w : Wave) : Bool :=
  (s.boundary w).isSome || s.fetchPoisoned w || s.fetches w

/-- The port of an instruction word (R344): 0 A, 1 B, 2 C, 3 for a word that is no instruction. -/
noncomputable def issuePort (w : Word) : Nat :=
  let m := w.toNat / 2 ^ 27
  let f := w.toNat / 2 ^ 21 % 64
  if (decode w.toNat).isNone then 3
  else if m ≤ 0x05 then 2
  else if m ≤ 0x0E then 0
  else if m = 0x0F then 2
  else if m = 0x10 then (if f ≤ 2 || (7 ≤ f && f ≤ 10) then 0 else 2)
  else if m = 0x17 then (if f = 3 then 2 else 1)
  else if m ≤ 0x1B then 1
  else if m ≤ 0x1D then 2
  else 3

/-- The scheduler and port that a wave's next instruction goes to (R344): core · 32 + partition · 4 + port. -/
noncomputable def State.portKey (s : State) (w : Wave) : Nat :=
  (w.core * 8 + w.part) * 4 + issuePort ((s.coreAt w.core).fetch w.regs.pc)

/-- Clocks of all the schedulers' ports. -/
def allPorts : Nat := 48 * 8 * 4

/-- The distance of a wave from the rotation's place: first over the ports of the package, then over the slots of one
scheduler from its pointer (R345, log 2). -/
noncomputable def State.distance (s : State) (w : Wave) : Nat :=
  let k := s.portKey w
  let p := tget (s.engineAt w.core).ptrs (k % 32) 0
  (k + allPorts - s.rr % allPorts) % allPorts * 64 + (w.slot + 64 - p % 64) % 64

/-- The waves that may act in this clock, in the order in which they are tried: none when throttling takes the clock
(R345, R346, R480). -/
noncomputable def State.candidates (s : State) : List Nat :=
  if s.throttled then []
  else (inOrder (fun a b => decide (s.distance a.2 ≤ s.distance b.2)) (s.waves.filter fun w => s.runnable w.2)).map
    Prod.fst

/-- The word at a wave's pc as an instruction (R54 to R56). -/
noncomputable def instrOf (word : Word) : Instr := (decode word.toNat).getD (.illegalInstruction word.toNat)

/-- The instruction at a wave's pc. -/
noncomputable def State.ownInstr (s : State) (w : Wave) : Instr := instrOf ((s.coreAt w.core).fetch w.regs.pc)

/-- A wave that has entered its handler, or been removed, as it acted (R372, R373). -/
def Wave.trapped (before after : Wave) : Bool :=
  decide (after.life = .removed) || (after.regs.priv && !before.regs.priv)

/-- The instruction at a wave's pc would trap before any effect: with a trap of its own, POISON of what it reads, or the
copy error that it delivers (R371). -/
noncomputable def State.trapsItself (s : State) (k : Nat) (w : Wave) : Bool :=
  s.fetches w &&
    match exec (s.ownInstr w) { s with cur := k } with
    | .next t => w.trapped (t.waveAt k) && decide ((t.waveAt k).regs.retired = w.regs.retired)
    | .fault _ | .refused _ => false

/-- What a wave does when it acts (R373): it takes the trap of a poisoned word, its instruction's own or another that its
instruction meets, then that of its boundary; otherwise it executes the instruction. -/
noncomputable def State.action (s : State) (k : Nat) (w : Wave) : Instr :=
  if s.fetchPoisoned w then .trapEntry k
  else match s.boundary w with
  | some t =>
    if t.rank ≠ 1 && s.trapsItself k w then s.ownInstr w
    else if t.trap.code = 0x1A then .watchdog k else .trapEntry k
  | none => s.ownInstr w

/-- A wave that has issued as it acted (R345): its instruction has ended, or has sent its message (R302), begun its drain
(R38) or its parking (R380), or removed its block (R385). -/
def Wave.issued (i : Instr) (before after : Wave) : Bool :=
  decide (after.regs.retired ≠ before.regs.retired) || (before.sysWait.isNone && after.sysWait.isSome) ||
    (decide (before.life = .resident) && decide (after.life = .draining ∨ after.life = .parking)) ||
    (decide (i = .tretKill) && before.regs.priv)

/-- A Resident wave that waits at its instruction and has not issued it. -/
def Wave.waits (w : Wave) : Bool := decide (w.life = .resident) && decide (w.stall ≠ 0)

/-- The state after wave `k`, which was `w` in state `s`, has acted as `i`: the rotation goes on behind it, and the pointer
of its port when it has issued (R345). -/
noncomputable def State.actedBy (t s : State) (k : Nat) (w : Wave) (i : Instr) : State :=
  let key := s.portKey w
  let t1 := if w.issued i (t.waveAt k) then
      t.updEngine w.core fun x => { x with ptrs := tset x.ptrs (key % 32) ((w.slot + 1) % 64) }
    else t
  { t1 with rr := (key + 1) % allPorts, acted := some (k, w.regs.pc, w.trapped (t.waveAt k) && decide (i ≠ .tretKill)) }

/-! ### The clock -/

/-- The reason why a wave's instruction waits now, 0 when it would not (R351). -/
noncomputable def State.waitsNow (s : State) (k : Nat) (w : Wave) : Nat :=
  if s.fetches w then
    match exec (s.ownInstr w) { s with cur := k } with
    | .next t => if w.issued (s.ownInstr w) (t.waveAt k) || w.trapped (t.waveAt k) then 0 else (t.waveAt k).stall
    | .fault _ | .refused _ => 0
  else w.stall

/-- What a sample shows of a wave beside its state (R350): the port of its instruction and the reason why that waits. -/
noncomputable def State.sampleInfo (s : State) (k : Nat) (w : Wave) : Nat × Nat :=
  let wait := s.waitsNow k w
  (issuePort ((s.coreAt w.core).fetch (s.didNow k w wait).1), wait)

/-- The first logical cores of the physical cores (R12, R340). -/
def State.heads (s : State) : List Nat := (List.range 48).filter fun c => (s.group c).head? = some c

/-- The state with the samples of this clock (R350). -/
noncomputable def State.sampled (s : State) : State :=
  if s.sampling.isEmpty then s
  else s.heads.foldl (fun t c =>
    t.sample c ((s.sampledWaves c).filterMap fun x => x.2.map fun w => (w.1, s.sampleInfo w.1 w.2))) s

/-- The state at the next clock (log 2): the invalidations that are over (R393), the grants of the slices (R470) and the
samples of this clock, whether an armed stop names it (R460), and a new throttle value from a group of 16 clocks that begins
(R480). -/
noncomputable def State.tick (s : State) : State :=
  let t := s.settleInvals.l2Clock.sampled
  { t with
    rep := if t.stopsHere then { t.rep with stopped := true } else t.rep
    cycle := t.cycle + 1, thrLive := if (t.cycle + 1) % 16 = 0 then t.thrctl else t.thrLive }

/-- Waves tried one after another until one does not wait: it has issued, or entered its handler (R344, R345). A wave that
waits leaves what its attempt has changed: the reason of its wait, and what it waits for. -/
noncomputable def State.tryIssue : List Nat → State → Out
  | [], s => .next s.tick
  | k :: ks, s =>
    match (tfind? s.waves k).filter s.runnable with
    | none => State.tryIssue ks s
    | some w =>
      match exec (s.action k w) { s with cur := k } with
      | .next t =>
        if (t.waveAt k).waits && !w.issued (s.action k w) (t.waveAt k) then State.tryIssue ks t
        else .next (t.actedBy s k w (s.action k w)).tick
      | .fault f => .fault f
      | .refused r => .refused r

/-! ### Arrivals -/

/-- What is to come from outside: its delivery cycle, its port or attach point, and what it is. -/
abbrev Coming := Nat × Nat × Arrival

/-- Whether an arrival comes before another: by delivery cycle, then by gate (R449). -/
def before (a b : Coming) : Bool :=
  decide (a.1 < b.1) || (decide (a.1 = b.1) &&
    decide ((gateOf a.2.1 a.2.2).getD 0 < (gateOf b.2.1 b.2.2).getD 0))

/-- The first of a list of arrivals in that order. -/
def firstArrival : List Coming → Option Coming
  | [] => none
  | x :: xs =>
    match firstArrival xs with
    | none => some x
    | some y => if before y x then some y else some x

/-- The arrival that is delivered at this point, with its port and the others still to come: none in the clock in which a
REPLAY session has ended (R457). -/
def State.nextArrival (s : State) : Option ((Nat × Arrival) × State) :=
  if s.rep.ended = some s.cycle then none
  else (firstArrival (s.agenda.filter fun x => decide (x.1 ≤ s.cycle))).map fun x =>
    (x.2, { s with agenda := s.agenda.erase x })

/-- The first control among what is to come: it acts while the domain stands (R455, R460, R483). -/
def State.nextControl (s : State) (f : Arrival → Bool) : Option (Arrival × State) :=
  (s.agenda.find? fun x => f x.2.2).map fun x => (x.2.2, { s with agenda := s.agenda.erase x })

/-- A cold reset, which brings power back. -/
def isColdReset : Arrival → Bool
  | .event (.coldReset ..) => true
  | _ => false

/-- The effect of an arrival that is delivered (R448). -/
def State.receive (s : State) : Arrival → Out
  | .event i => exec i s
  | .answer a => .next { s with answers := s.answers ++ [a] }
  | .read id master page off wide => .next (s.answerRead id master page off wide)
  | .translation ctx page host r w => .next (s.translated ctx page host r w)
  | .priGrant n => .next ({ s with priAlloc := n } : State).sendPri
  | .tdisp tdi st => s.tdisp tdi st
  | .completion _ line _ => .next (s.completed line)
  | .throttle v => .next { s with thrctl := wrd (v % 32) }
  | .hostStore a bs => .next { s with hostMem := s.hostMem.writeList a (toBytes bs) }
  | .corrected c => .next (s.correct c)

/-- What a package does with what comes while it boots (R482, R483): the recovery page, resets and the host's own stores
act; of the rest, a read of another offset gives zero, a read of the management interface has no answer yet, and all else
is dropped. -/
def State.bootArrival (s : State) (a : Arrival) : Out :=
  match a with
  | .event (.registerWrite _ page _ _) => if page = 2 then s.receive a else .next s
  | .read _ _ page _ _ => if page = 3 then .next s else s.receive a
  | .hostStore _ _ => s.receive a
  | _ => if isControl a then s.receive a else .next s

end Sys2Proof.Machine
end

