-- ==== Sys2Proof/Machine/Step.lean ====
section
/-! DEFINITION. One step of the package (log 2, log 3), and the placement of one instruction where the next step
fetches. -/

namespace Sys2Proof.Machine

/-- A control, when one is to come; otherwise the package stands still. -/
noncomputable def State.controlled (s : State) (f : Arrival → Bool) : Host.Outcome State Fault Refusal :=
  match s.nextControl f with
  | some (a, s1) => s1.receive a
  | none => .next s

/-- A step of a package that boots (R482, R483): what comes is taken at once. -/
noncomputable def State.stepBoot (s : State) : Host.Outcome State Fault Refusal :=
  match s.nextControl (fun _ => true) with
  | some (a, s1) => s1.bootArrival a
  | none => .next s

/-- What acts on a frozen package at once: a control, or a store of the host to its own memory. -/
def actsFrozen : Arrival → Bool
  | .hostStore _ _ => true
  | a => isControl a

/-- A step of a frozen package (R460, R463): a request of ATTCTL, or a control. -/
noncomputable def State.stepFrozen (s : State) : Host.Outcome State Fault Refusal :=
  if s.attBusy 1 then exec .scan s
  else if s.attBusy 2 then exec .atticResume s
  else if s.attBusy 3 then exec .restart s
  else if s.attBusy 4 then exec .digestOnlyScan s
  else s.controlled actsFrozen

/-- The wave that has entered its handler between two states, with the pc at which it was interrupted (R355). -/
def State.entered (s t : State) : Option (Nat × Pc × Bool) :=
  t.waves.findSome? fun w =>
    if w.2.regs.priv && !(s.waveAt w.1).regs.priv && decide ((s.waveAt w.1).life = .resident) then
      some (w.1, w.2.regs.tpc.setWidth 18, true)
    else none

/-- An event of the domain in this clock. -/
noncomputable def State.stepEvent (s : State) (i : Instr) : Host.Outcome State Fault Refusal :=
  match exec i { s with turn := false } with
  | .next t => .next ({ t with acted := s.entered t } : State).tick
  | .fault f => .fault f
  | .refused r => .refused r

/-- The waves that may act are tried in this clock. -/
noncomputable def State.stepIssue (s : State) (ks : List Nat) : Host.Outcome State Fault Refusal :=
  State.tryIssue ks { s with turn := true, acted := none }

/-- A clock of the domain: issue and events take turns; when one has nothing to do, the other goes on (log 2). -/
noncomputable def State.stepClock (s : State) : Host.Outcome State Fault Refusal :=
  if s.turn then
    match s.dueEvent with
    | some i => s.stepEvent i
    | none => s.stepIssue s.candidates
  else
    match s.candidates with
    | k :: ks => s.stepIssue (k :: ks)
    | [] => match s.dueEvent with
      | some i => s.stepEvent i
      | none => s.stepIssue []

/-- The delivery of an arrival at its port (R449, R452, R455). -/
noncomputable def State.stepArrival (s : State) (port : Nat) (a : Arrival) : Host.Outcome State Fault Refusal :=
  let y := s.takeIn port a
  if y.2 then (y.1.noteFlit a).receive a else .next y.1

/-- A step of a running package: a freeze, arrivals that are due, then a clock. -/
noncomputable def State.stepRunning (s : State) : Host.Outcome State Fault Refusal :=
  if s.freezeDue then exec .freeze s
  else match s.admitted with
  | a :: rest => (({ s with admitted := rest } : State).noteFlit a).receive a
  | [] =>
    if s.loggedDue then exec .loggedArrivalDelivery s
    else match s.nextArrival with
    | some ((port, a), s1) => s1.stepArrival port a
    | none =>
      match s.punctual with
      | some i => exec i s
      | none => s.stepClock

/-- One step. Without power a cold reset alone acts, and before the domain is released the controls (R481 to
R483). -/
noncomputable def step (s : State) : Host.Outcome State Fault Refusal :=
  if !s.boot.power then s.controlled isColdReset
  else if s.boot.stage < 6 then s.stepBoot
  else if s.frozen then s.stepFrozen
  else s.stepRunning

/-- The key of the wave of `State.withFetchWord`. -/
def fetchWave : Nat := waveKey (blockKey 1 0) 0

/-- A Resident wave at pc 0 with all lanes of width 32 (R37). -/
def State.fetcher : Wave :=
  { regs := { em := widthMask 32 }, launch := 1, blk := blockKey 1 0, nregs := 512, ntiles := 8, nslots := 32 }

/-- The state with an instruction in the first word of slot 0 of core 0, where the one Resident wave, of the one
block of a launch of context 0, fetches next (log 8): that block is loaded, nothing is to come from outside, and
issue has its turn. -/
def State.withFetchWord (s : State) (nbits w : Nat) : State :=
  let slot : ImemSlot := { ov := some 0, words := [(0, BitVec.ofNat 32 (w % 2 ^ nbits))] }
  let blk : Block := { launch := 1, st := .resident, cores := [0], nw := 1 }
  let l : Launch :=
    { hs := 1, vregs := 512, tiles := 8, shelf := 32, ovs := [(4, some 0)], placed := [(0, 1)], nplaced := 1, started := 1 }
  { s with
    waves := [(fetchWave, State.fetcher)], blocks := [(blockKey 1 0, blk)], launches := [(1, l)]
    cores := [(0, { slots := [(0, slot)] })], ctxs := [(0, {})], turn := false, rr := 0, thrLive := 0
    agenda := [], admitted := [], frozen := false, rep := {}, boot := {} }

end Sys2Proof.Machine
end

