-- ==== Sys2Proof/Safety.lean ====
section
/-! DEFINITION. The terms in which claims are stated: well-kept states, the conditions under which an
instruction issues and runs to its end, what an instruction leaves unchanged, and the shapes that results
take. -/

namespace Sys2Proof.Machine

/-! ### Well-kept states -/

/-- `em` names live lanes only (R290), the pc is a multiple of 4 (R42) and the mask stack has at most 16
entries (R291). -/
def Wave.Tidy (w : Wave) : Prop :=
  w.regs.em &&& ~~~w.live = 0 ∧ w.regs.pc &&& 3 = 0 ∧ w.regs.stack.length ≤ 16

/-- Every memory of the package is in canonical form, and so is every copy of the host's memory that a REPLAY session puts
aside and that a session's log or an Attic image holds (log 60). -/
def State.MemWf (s : State) : Prop :=
  s.hbm.wf ∧ s.ddr.wf ∧ s.hostMem.wf ∧ (∀ m ∈ s.hostLive, Memory.wf m) ∧ s.rep.log.host.wf ∧ (∀ x ∈ s.rep.old, x.host.wf) ∧ ∀ x ∈ s.images, x.host.wf

/-- Every byte of HBM4, of DDR-5, of the host's memory and of every scratchpad reads as before. -/
def SameMemory (s t : State) : Prop :=
  ∀ a, t.hbm.read a = s.hbm.read a ∧ t.ddr.read a = s.ddr.read a ∧ t.hostMem.read a = s.hostMem.read a ∧
    ∀ b, (t.blockAt b).scratch.read a = (s.blockAt b).scratch.read a

/-! ### Issue -/

/-- Nothing of R49, R20, R429, R486 or R317 keeps the acting wave's declared instruction from its own effect: the
limits of speculation leave room, a privileged one is in privileged mode, every operand is aligned and owned,
is no destination of an outstanding load and is not poisoned where it is read, and its own first-stage checks find
nothing. -/
structure Clear (s : State) (p : Plan) : Prop where
  spec : ∀ sp, s.wave.spec = some sp →
    sp.deferred = none ∧ p.spec = true ∧ sp.instrs < 48 ∧ sp.writes + p.writes ≤ 32
  priv : p.priv = true → s.regs.priv = true
  ops  : ∀ o ∈ p.ops, o.bad s.wave = none ∧ o.busy s.wave = false ∧ o.poison s.regs = none
  keys : ∀ o ∈ p.keys, o.busy s.wave = false ∧ o.poison s.regs = none
  own  : p.own = none

/-- Two states differ in the acting wave's record at most. -/
def OnlyWave (s t : State) : Prop := t = s.setWave t.wave

/-- An instruction has been issued and has ended: apart from registers, the acting wave's record changes in the
bookkeeping of issue alone (what it waited for, speculation counts, the debugger's step count, a watchdog that has run
out), and no other wave, no memory and nothing else of the package changes. -/
def Issued (s t : State) (writes : Nat) : Prop :=
  OnlyWave s t ∧
  t.wave = Wave.watched { s.wave with
    regs := t.regs, spec := s.wave.spec.map fun sp => sp.count writes, stall := 0, stallObj := 0
    since := s.cycle, accept := [], ask := none, aged := if s.regs.priv then s.wave.aged else none
    halted := t.wave.halted, steps := t.wave.steps }

/-- `exec` answers a next state in which the instruction has ended with the pc given, the retired count is one
higher, and the registers satisfy `post`. -/
def Completes (i : Instr) (s : State) (writes : Nat) (pc : Pc) (post : WaveRegs → Prop) : Prop :=
  ∃ t, exec i s = .next t ∧ Issued s t writes ∧ t.regs.pc = pc ∧ t.regs.retired = s.regs.retired + 1 ∧ post t.regs

/-- `exec` answers a next state in which the acting wave has taken a precise trap: an ordinary trap entry, a
deferral under speculation or a double fault (R317, R372, R373), with nothing of the instruction's own effect. -/
def Traps (i : Instr) (s : State) (t : TrapRec) : Prop := exec i s = .next (s.takeTrap t)

/-- `exec` answers a next state in which the acting wave waits at the instruction, with the reason of R351 and
without any effect. -/
def Waits (i : Instr) (s : State) (code obj : Nat) : Prop := exec i s = .next (s.stallWave code obj)

/-! ### Results -/

/-- The registers outside scalars, vectors and their poison are as before, but for the pc and the counts. -/
def SameSystem (r u : WaveRegs) : Prop :=
  u = { r with
    sregs := u.sregs, spois := u.spois, vregs := u.vregs, vpois := u.vpois
    pc := u.pc, retired := u.retired, progcnt := u.progcnt }

/-- The vector registers and their poison are as before. -/
def SameVectors (r u : WaveRegs) : Prop := u.vregs = r.vregs ∧ u.vpois = r.vpois

/-- The scalar registers and their poison are as before. -/
def SameScalars (r u : WaveRegs) : Prop := u.sregs = r.sregs ∧ u.spois = r.spois

/-- The frame of an instruction that writes `n` scalar registers from `d`: every other register as before. -/
def ScalarFrame (r u : WaveRegs) (d n : Nat) : Prop :=
  SameSystem r u ∧ SameVectors r u ∧
  ∀ k, (∀ j < n, k ≠ r.skey (d + j)) →
    tget u.sregs k 0 = tget r.sregs k 0 ∧ tfind? u.spois k = tfind? r.spois k

/-- Scalar register `d` holds `x`; every other register as before. -/
def GivesS (r : WaveRegs) (d : Nat) (x : Word) (u : WaveRegs) : Prop := u.s d = x ∧ ScalarFrame r u d 1

/-- The scalar pair `d` holds `x`; every other register as before. -/
def GivesS2 (r : WaveRegs) (d : Nat) (x : DWord) (u : WaveRegs) : Prop := u.s2 d = x ∧ ScalarFrame r u d 2

/-- Every vector register but the lanes of `m` in the `n` from `d` is as before. -/
def VectorFrame (r u : WaveRegs) (d n : Nat) (m : Mask) : Prop :=
  ∀ k l, l < 64 → ((∀ j < n, k ≠ r.vkey (d + j)) ∨ bitOf m l = false) →
    lane (tget u.vregs k []) l = lane (tget r.vregs k []) l ∧ tfind? u.vpois (k * 64 + l) = tfind? r.vpois (k * 64 + l)

/-- Vector register `d` holds `f l` in each lane `l` of `m`; every other lane and register as before. -/
def GivesV (r : WaveRegs) (d : Nat) (m : Mask) (f : Nat → Word) (u : WaveRegs) : Prop :=
  (∀ l < 64, bitOf m l = true → lane (u.v d) l = f l) ∧ VectorFrame r u d 1 m ∧ SameScalars r u ∧ SameSystem r u

/-- The vector pair `d` holds `f l` in each active lane; every other lane and register as before. -/
def GivesV2 (r : WaveRegs) (d : Nat) (f : Nat → DWord) (u : WaveRegs) : Prop :=
  (∀ l < 64, bitOf r.em l = true → u.v2 d l = f l) ∧ VectorFrame r u d 2 r.em ∧ SameScalars r u ∧ SameSystem r u

/-- A vector result of an integer element size: a pair for 64 bits, else one register (R102). -/
def GivesE (r : WaveRegs) (sz : ESize) (d : Nat) (f : Nat → Word) (g : Nat → DWord) (u : WaveRegs) : Prop :=
  match sz with
  | .b64 => GivesV2 r d g u
  | .b8 | .b16 | .b32 => GivesV r d r.em f u

/-- A float result with its flags: the value in D, the flags OR-ed into `fpc`, in each active lane (R90, R143);
every other lane and register as before. -/
def GivesF (r : WaveRegs) (fm : EFmt) (d : Nat) (f : Nat → FRes) (u : WaveRegs) : Prop :=
  (∀ l < 64, bitOf r.em l = true →
    (match fm with
     | .f64 => u.v2 d l = BitVec.ofNat 64 (f l).bits
     | .f16 | .bf16 | .f32 => lane (u.v d) l = BitVec.ofNat 32 (f l).bits) ∧
    lane u.fpc l = lane r.fpc l ||| BitVec.ofNat 32 (f l).flags) ∧
  (∀ l < 64, bitOf r.em l = false → lane u.fpc l = lane r.fpc l) ∧
  VectorFrame r u d (fregs fm) r.em ∧ SameScalars r u ∧ SameSystem { r with fpc := u.fpc } u

/-- The registers are as before, but for the pc and the counts. -/
def SameRegs (r u : WaveRegs) : Prop := SameSystem r u ∧ SameVectors r u ∧ SameScalars r u

end Sys2Proof.Machine
end

