-- ==== Sys2Proof/Certificates/Slice0/Obligations.lean ====
section
/-! DEFINITION. The statements for the provers. Each is about the machine of this package, for every state and every
operand that meets its hypotheses; its docstring names the rules it rests on. A helper that several statements
share stands before them. -/

section
open Sys2Proof Sys2Proof.Machine

/-! ### Scalar instructions -/

/-- A SALU3 instruction of two sources computes `f`. -/
def Sys2Proof.Machine.Scalar3 (i : Nat → Nat → Nat → Instr) (f : Word → Word → Word) : Prop :=
  ∀ s d a b, Clear s (planSSS d a b) →
    Completes (i d a b) s 1 (nextPc s.regs.pc) (GivesS s.regs d (f (s.regs.s a) (s.regs.s b)))

/-- A SALU3 or SALUI instruction of one source computes `f` of it and of the immediate, if any. -/
def Sys2Proof.Machine.Scalar2 (i : Nat → Nat → Nat → Instr) (f : Word → Nat → Word) : Prop :=
  ∀ s d a imm, Clear s (planSS d a) →
    Completes (i d a imm) s 1 (nextPc s.regs.pc) (GivesS s.regs d (f (s.regs.s a) imm))

/-- R107 to R110: the SALU3 instructions of two 32-bit sources write their function of a and b to D, advance and
leave everything else. Division by 0 gives all ones and the remainder by 0 the dividend, without a trap. -/
def Sys2Proof.Machine.ScalarArithmeticRule : Prop :=
  Scalar3 .sadd (fun a b => a + b) ∧ Scalar3 .ssub (fun a b => a - b) ∧ Scalar3 .smul (fun a b => a * b) ∧
  Scalar3 .smulhI (fun a b => ((a.signExtend 64 * b.signExtend 64) >>> 32).setWidth 32) ∧
  Scalar3 .smulhN (fun a b => ((a.setWidth 64 * b.setWidth 64) >>> 32).setWidth 32) ∧
  Scalar3 .sand (fun a b => a &&& b) ∧ Scalar3 .sor (fun a b => a ||| b) ∧ Scalar3 .sxor (fun a b => a ^^^ b) ∧
  Scalar3 .sminI (fun a b => if a.toInt ≤ b.toInt then a else b) ∧
  Scalar3 .sminN (fun a b => if a.toNat ≤ b.toNat then a else b) ∧
  Scalar3 .smaxI (fun a b => if a.toInt ≤ b.toInt then b else a) ∧
  Scalar3 .smaxN (fun a b => if a.toNat ≤ b.toNat then b else a) ∧
  Scalar3 .sseq (fun a b => if a = b then 1 else 0) ∧
  Scalar3 .ssltI (fun a b => if a.toInt < b.toInt then 1 else 0) ∧
  Scalar3 .ssltN (fun a b => if a.toNat < b.toNat then 1 else 0) ∧
  Scalar3 .sdivI (fun a b => if b = 0 then 0xFFFFFFFF#32 else a.sdiv b) ∧
  Scalar3 .sdivN (fun a b => if b = 0 then 0xFFFFFFFF#32 else a / b) ∧
  Scalar3 .sremI (fun a b => if b = 0 then a else a.srem b) ∧
  Scalar3 .sremN (fun a b => if b = 0 then a else a % b)

/-- R109, R111, R108: shifts by the whole 32-bit value of B, bit counts, and bit fields, each computed from its
sources; a shift by 32 or more gives 0, or copies of the sign for `ssra`. -/
def Sys2Proof.Machine.ScalarShiftsAndFieldsRule : Prop :=
  Scalar3 .sshl (fun a b => if 32 ≤ b.toNat then 0 else a <<< b.toNat) ∧
  Scalar3 .sshr (fun a b => if 32 ≤ b.toNat then 0 else a >>> b.toNat) ∧
  Scalar3 .ssra (fun a b => if 32 ≤ b.toNat then (if a.msb then 0xFFFFFFFF#32 else 0) else a.sshiftRight b.toNat) ∧
  Scalar2 (fun d a _ => .spopc d a) (fun a _ => popCount a) ∧
  Scalar2 (fun d a _ => .sclz d a) (fun a _ => leadZeros a) ∧
  Scalar2 (fun d a _ => .sctz d a) (fun a _ => trailZeros a) ∧
  Scalar3 .sbfx bfx ∧
  ∀ s d a b, Clear s { ops := [.s d 1 true, .s a 1 true, .s b 1 true], writes := 1 } →
    Completes (.sbfi d a b) s 1 (nextPc s.regs.pc)
      (GivesS s.regs d (bfi (s.regs.s d) (s.regs.s a) (s.regs.s b)))

/-- R113 to R115: immediates of 9 bits are sign-extended, those of shifts are counts, `sli` writes the zero-extended
16-bit immediate and `slih` the upper half alone. -/
def Sys2Proof.Machine.ScalarImmediatesRule : Prop :=
  Scalar2 .saddi (fun a n => a + (BitVec.ofNat 9 n).signExtend 32) ∧
  Scalar2 .sandi (fun a n => a &&& (BitVec.ofNat 9 n).signExtend 32) ∧
  Scalar2 .sori (fun a n => a ||| (BitVec.ofNat 9 n).signExtend 32) ∧
  Scalar2 .sxori (fun a n => a ^^^ (BitVec.ofNat 9 n).signExtend 32) ∧
  Scalar2 .sseqi (fun a n => if a = (BitVec.ofNat 9 n).signExtend 32 then 1 else 0) ∧
  Scalar2 .sslti (fun a n => if a.toInt < ((BitVec.ofNat 9 n).signExtend 32).toInt then 1 else 0) ∧
  (∀ s d a n, n < 32 → Clear s (planSS d a) →
    Completes (.sshli d a n) s 1 (nextPc s.regs.pc) (GivesS s.regs d (s.regs.s a <<< n)) ∧
    Completes (.sshri d a n) s 1 (nextPc s.regs.pc) (GivesS s.regs d (s.regs.s a >>> n)) ∧
    Completes (.ssrai d a n) s 1 (nextPc s.regs.pc) (GivesS s.regs d ((s.regs.s a).sshiftRight n))) ∧
  (∀ s d n, Clear s { ops := [.s d 1 false], writes := 1 } →
    Completes (.sli d n) s 1 (nextPc s.regs.pc) (GivesS s.regs d (BitVec.ofNat 32 (n % 2 ^ 16)))) ∧
  ∀ s d n, n < 2 ^ 16 → Clear s { ops := [.s d 1 true], writes := 1 } →
    Completes (.slih d n) s 1 (nextPc s.regs.pc)
      (GivesS s.regs d (BitVec.ofNat 32 (n * 2 ^ 16 + (s.regs.s d).toNat % 2 ^ 16)))

/-- R112, R113: sums, differences and shifts of pairs modulo 2^64. -/
def Sys2Proof.Machine.ScalarPairsRule : Prop :=
  (∀ s d a b, Clear s { ops := [.s d 2 false, .s a 2 true, .s b 2 true], writes := 2 } →
    Completes (.saddq d a b) s 2 (nextPc s.regs.pc) (GivesS2 s.regs d (s.regs.s2 a + s.regs.s2 b)) ∧
    Completes (.ssubq d a b) s 2 (nextPc s.regs.pc) (GivesS2 s.regs d (s.regs.s2 a - s.regs.s2 b))) ∧
  (∀ s d a b, Clear s { ops := [.s d 2 false, .s a 2 true, .s b 1 true], writes := 2 } →
    Completes (.sshlq d a b) s 2 (nextPc s.regs.pc) (GivesS2 s.regs d
      (if 64 ≤ (s.regs.s b).toNat then 0 else s.regs.s2 a <<< (s.regs.s b).toNat))) ∧
  ∀ s d a n, Clear s { ops := [.s d 2 false, .s a 2 true], writes := 2 } →
    Completes (.saddqi d a n) s 2 (nextPc s.regs.pc) (GivesS2 s.regs d
      (s.regs.s2 a + (BitVec.ofNat 9 n).signExtend 64))

/-! ### Vector integer instructions -/

/-- A VINT3 instruction computes `f` of the elements of A and B. -/
def Sys2Proof.Machine.VecBin (i : ESize → Nat → Nat → Nat → Instr) (f : {w : Nat} → BitVec w → BitVec w → BitVec w) : Prop :=
  ∀ s sz d a b, Clear s (planVVV (regsOf sz) d a b) →
    Completes (i sz d a b) s (regsOf sz) (nextPc s.regs.pc) (GivesE s.regs sz d
      (fun l => zipWord sz f (lane (s.regs.v a) l) (lane (s.regs.v b) l))
      (fun l => f (s.regs.v2 a l) (s.regs.v2 b l)))

/-- A VINTS instruction computes `f` of the elements of A and of scalar B, cut to the element. -/
def Sys2Proof.Machine.VecScal (i : ESize → Nat → Nat → Nat → Instr) (f : {w : Nat} → BitVec w → BitVec w → BitVec w) : Prop :=
  ∀ s sz d a b, Clear s (planVVS (regsOf sz) d a b) →
    Completes (i sz d a b) s (regsOf sz) (nextPc s.regs.pc) (GivesE s.regs sz d
      (fun l => zipWord sz f (lane (s.regs.v a) l) (spread sz (s.regs.s b)))
      (fun l => f (s.regs.v2 a l) (s.regs.s2 b)))

/-- A VINTI instruction computes `f` of the elements of A and of the immediate, sign-extended from 7 bits. -/
def Sys2Proof.Machine.VecImm (i : ESize → Nat → Nat → Nat → Instr) (f : {w : Nat} → BitVec w → BitVec w → BitVec w) : Prop :=
  ∀ s sz d a n, Clear s (planVV (regsOf sz) d a) →
    Completes (i sz d a n) s (regsOf sz) (nextPc s.regs.pc) (GivesE s.regs sz d
      (fun l => zipWord sz f (lane (s.regs.v a) l) (spread sz ((BitVec.ofNat 7 n).signExtend 32)))
      (fun l => f (s.regs.v2 a l) ((BitVec.ofNat 7 n).signExtend 64)))

/-- A VINTI instruction of one source computes `f` of the elements of A. -/
def Sys2Proof.Machine.VecUn (i : ESize → Nat → Nat → Instr) (f : {w : Nat} → BitVec w → BitVec w) : Prop :=
  ∀ s sz d a, Clear s (planVV (regsOf sz) d a) →
    Completes (i sz d a) s (regsOf sz) (nextPc s.regs.pc) (GivesE s.regs sz d
      (fun l => mapWord sz f (lane (s.regs.v a) l)) (fun l => f (s.regs.v2 a l)))

/-- R116 to R118: VINT3 of two vectors, element by element in the active lanes. -/
def Sys2Proof.Machine.VectorIntegerVectorsRule : Prop :=
  VecBin .vadd (fun a b => a + b) ∧ VecBin .vsub (fun a b => a - b) ∧ VecBin .vmul (fun a b => a * b) ∧
  VecBin .vmulhI mulHiS ∧ VecBin .vmulhN mulHiU ∧
  VecBin .vand (fun a b => a &&& b) ∧ VecBin .vor (fun a b => a ||| b) ∧ VecBin .vxor (fun a b => a ^^^ b) ∧
  VecBin .vshl (fun {w} a b => if w ≤ b.toNat then 0 else a <<< b.toNat) ∧
  VecBin .vshr (fun {w} a b => if w ≤ b.toNat then 0 else a >>> b.toNat) ∧
  VecBin .vsra (fun {w} a b => a.sshiftRight (min b.toNat w)) ∧
  VecBin .vminI (fun a b => if a.toInt ≤ b.toInt then a else b) ∧
  VecBin .vminN (fun a b => if a.toNat ≤ b.toNat then a else b) ∧
  VecBin .vmaxI (fun a b => if a.toInt ≤ b.toInt then b else a) ∧
  VecBin .vmaxN (fun a b => if a.toNat ≤ b.toNat then b else a)

/-- R116 to R118: VINTS, the same functions of a vector and a scalar. -/
def Sys2Proof.Machine.VectorIntegerScalarRule : Prop :=
  VecScal .vaddScalar (fun a b => a + b) ∧ VecScal .vsubScalar (fun a b => a - b) ∧
  VecScal .vmulScalar (fun a b => a * b) ∧ VecScal .vmulhIScalar mulHiS ∧ VecScal .vmulhNScalar mulHiU ∧
  VecScal .vandScalar (fun a b => a &&& b) ∧ VecScal .vorScalar (fun a b => a ||| b) ∧
  VecScal .vxorScalar (fun a b => a ^^^ b) ∧
  VecScal .vshlScalar (fun {w} a b => if w ≤ b.toNat then 0 else a <<< b.toNat) ∧
  VecScal .vshrScalar (fun {w} a b => if w ≤ b.toNat then 0 else a >>> b.toNat) ∧
  VecScal .vsraScalar (fun {w} a b => a.sshiftRight (min b.toNat w)) ∧
  VecScal .vminIScalar (fun a b => if a.toInt ≤ b.toInt then a else b) ∧
  VecScal .vminNScalar (fun a b => if a.toNat ≤ b.toNat then a else b) ∧
  VecScal .vmaxIScalar (fun a b => if a.toInt ≤ b.toInt then b else a) ∧
  VecScal .vmaxNScalar (fun a b => if a.toNat ≤ b.toNat then b else a)

/-- R117: `vmad` adds the product to D, with a vector or a scalar B. -/
def Sys2Proof.Machine.VectorMultiplyAddRule : Prop :=
  (∀ s sz d a b, Clear s (planMad (.v b (regsOf sz) true) sz d a) →
    Completes (.vmad sz d a b) s (regsOf sz) (nextPc s.regs.pc) (GivesE s.regs sz d
      (fun l => zipWord sz (fun x y => x + y) (lane (s.regs.v d) l)
        (zipWord sz (fun x y => x * y) (lane (s.regs.v a) l) (lane (s.regs.v b) l)))
      (fun l => s.regs.v2 d l + s.regs.v2 a l * s.regs.v2 b l))) ∧
  ∀ s sz d a b, Clear s (planMad (.s b (regsOf sz) true) sz d a) →
    Completes (.vmadScalar sz d a b) s (regsOf sz) (nextPc s.regs.pc) (GivesE s.regs sz d
      (fun l => zipWord sz (fun x y => x + y) (lane (s.regs.v d) l)
        (zipWord sz (fun x y => x * y) (lane (s.regs.v a) l) (spread sz (s.regs.s b))))
      (fun l => s.regs.v2 d l + s.regs.v2 a l * s.regs.s2 b))

/-- R119, R120: VINTI, with the immediate sign-extended to the element, and its forms of one source. -/
def Sys2Proof.Machine.VectorIntegerImmediatesRule : Prop :=
  VecImm .vaddi (fun a b => a + b) ∧ VecImm .vandi (fun a b => a &&& b) ∧ VecImm .vori (fun a b => a ||| b) ∧
  VecImm .vxori (fun a b => a ^^^ b) ∧ VecImm .vmuli (fun a b => a * b) ∧
  VecImm .vshli (fun {w} a b => if w ≤ b.toNat then 0 else a <<< b.toNat) ∧
  VecImm .vshri (fun {w} a b => if w ≤ b.toNat then 0 else a >>> b.toNat) ∧
  VecImm .vsrai (fun {w} a b => a.sshiftRight (min b.toNat w)) ∧
  VecUn .vpopc popCount ∧ VecUn .vclz leadZeros ∧ VecUn .vctz trailZeros ∧
  VecUn .vabs (fun a => if a.toInt < 0 then 0 - a else a) ∧ VecUn .vneg (fun a => 0 - a) ∧
  VecUn .vbrev (fun a => a.reverse)

/-- R102: the elements of a packed word are combined one by one, each with the element in the same place: byte `e`
of four, half-word `e` of two. -/
def Sys2Proof.Machine.PackedElementsRule : Prop :=
  ∀ (f : {w : Nat} → BitVec w → BitVec w → BitVec w) (x y : Word),
    (∀ e < 4, (zipWord .b8 f x y).extractLsb' (8 * e) 8 = f (x.extractLsb' (8 * e) 8) (y.extractLsb' (8 * e) 8)) ∧
    (∀ e < 2, (zipWord .b16 f x y).extractLsb' (16 * e) 16 =
      f (x.extractLsb' (16 * e) 16) (y.extractLsb' (16 * e) 16)) ∧
    zipWord .b32 f x y = f x y

/-! ### Float instructions -/

/-- No active lane raises NV while the trap on it is enabled (R101). -/
def Sys2Proof.Machine.NoInvalid (s : State) (f : Nat → FRes) : Prop :=
  s.regs.trapen.getLsbD 0 = false ∨ ∀ l < 64, bitOf s.regs.em l = true → (f l).flags / 0x100 % 2 = 0

/-- A float instruction with a plan gives a result and flags in each active lane. -/
def Sys2Proof.Machine.FloatGives (i : Instr) (s : State) (p : Plan) (fm : EFmt) (d : Nat) (f : Nat → FRes) : Prop :=
  Clear s p → NoInvalid s f → Completes i s p.writes (nextPc s.regs.pc) (GivesF s.regs fm d f)

/-- A VFP3 instruction computes `f` of A and of a vector B, under each lane's rounding mode if `rounds`. -/
def Sys2Proof.Machine.FloatBin (i : EFmt → Nat → Nat → Nat → Instr) (rounds : Bool) (f : EFmt → Rnd → Nat → Nat → FRes) : Prop :=
  ∀ s fm d a b, FloatGives (i fm d a b) s
    (if rounds then (planVVV (fregs fm) d a b).rounds else planVVV (fregs fm) d a b) fm d
    fun l => f fm (laneRnd s.regs l) (fval fm s.regs a l) (fval fm s.regs b l)

/-- A VFPS instruction computes `f` of A and of scalar B. -/
def Sys2Proof.Machine.FloatScal (i : EFmt → Nat → Nat → Nat → Instr) (rounds : Bool) (f : EFmt → Rnd → Nat → Nat → FRes) : Prop :=
  ∀ s fm d a b, FloatGives (i fm d a b) s
    (if rounds then (planVVS (fregs fm) d a b).rounds else planVVS (fregs fm) d a b) fm d
    fun l => f fm (laneRnd s.regs l) (fval fm s.regs a l) (fscal fm s.regs b)

/-- A float instruction of one source computes `f` of A. -/
def Sys2Proof.Machine.FloatUn (i : EFmt → Nat → Nat → Instr) (rounds : Bool) (f : EFmt → Rnd → Nat → FRes) : Prop :=
  ∀ s fm d a, FloatGives (i fm d a) s
    (if rounds then (planVV (fregs fm) d a).rounds else planVV (fregs fm) d a) fm d
    fun l => f fm (laneRnd s.regs l) (fval fm s.regs a l)

/-- R143 to R152: the element-wise float instructions give their function of the sources in each active lane, rounded
under the lane's mode where they round, and OR the flags into the lane's `fpc`. -/
def Sys2Proof.Machine.FloatElementwiseRule : Prop :=
  FloatBin .fadd true fAdd ∧ FloatBin .fsub true fSub ∧ FloatBin .fmul true fMul ∧ FloatBin .fdiv true fDiv ∧
  FloatBin .frem true fRem ∧ FloatBin .fmin false (fMinMax false false) ∧ FloatBin .fmax false (fMinMax true false) ∧
  FloatBin .fminn false (fMinMax false true) ∧ FloatBin .fmaxn false (fMinMax true true) ∧
  FloatBin .fcpys false fCopySign ∧
  FloatUn .fsqrt true fSqrt ∧ FloatUn .frint true fRint ∧ FloatUn .fabs false fAbs ∧ FloatUn .fneg false fNeg ∧
  (∀ s fm d a b, FloatGives (.fscale fm d a b) s
    (Plan.rounds { ops := [.v d (fregs fm) false, .v a (fregs fm) true, .v b 1 true], writes := fregs fm }) fm d
    fun l => fScale fm (laneRnd s.regs l) (fval fm s.regs a l) (lane (s.regs.v b) l).toNat) ∧
  ∀ s fm d a, Clear s { ops := [.v d 1 false, .v a (fregs fm) true], writes := 1 } →
    Completes (.fclass fm d a) s 1 (nextPc s.regs.pc)
      (GivesV s.regs d s.regs.em fun l => BitVec.ofNat 32 (fClass fm (fval fm s.regs a l)))

/-- R143 to R149: the same with a scalar B. -/
def Sys2Proof.Machine.FloatScalarFormsRule : Prop :=
  FloatScal .faddScalar true fAdd ∧ FloatScal .fsubScalar true fSub ∧ FloatScal .fmulScalar true fMul ∧
  FloatScal .fdivScalar true fDiv ∧ FloatScal .fremScalar true fRem ∧
  FloatScal .fminScalar false (fMinMax false false) ∧ FloatScal .fmaxScalar false (fMinMax true false) ∧
  FloatScal .fminnScalar false (fMinMax false true) ∧ FloatScal .fmaxnScalar false (fMinMax true true) ∧
  FloatScal .fcpysScalar false fCopySign ∧
  ∀ s fm d a b, FloatGives (.fscaleScalar fm d a b) s
    (Plan.rounds { ops := [.v d (fregs fm) false, .v a (fregs fm) true, .s b 1 true], writes := fregs fm }) fm d
    fun l => fScale fm (laneRnd s.regs l) (fval fm s.regs a l) (s.regs.s b).toNat

/-- R153, R154, R160 to R162: the fused forms, with D as addend, and the transcendental functions of VSFU. -/
def Sys2Proof.Machine.FloatFusedAndSpecialRule : Prop :=
  (∀ s fm d a b,
    let p : Plan :=
      { ops := [.v d (fregs fm) true, .v a (fregs fm) true, .v b (fregs fm) true, .fpc], writes := fregs fm }
    let g := fun np nd l =>
      fMad np nd fm (laneRnd s.regs l) (fval fm s.regs a l) (fval fm s.regs b l) (fval fm s.regs d l)
    FloatGives (.ffma fm d a b) s p fm d (g false false) ∧ FloatGives (.ffms fm d a b) s p fm d (g false true) ∧
    FloatGives (.ffnma fm d a b) s p fm d (g true false) ∧ FloatGives (.ffnms fm d a b) s p fm d (g true true)) ∧
  FloatUn .frcp true (fUnary FFmt.rcp) ∧ FloatUn .frsq true (fUnary FFmt.rsq) ∧
  FloatUn .fexp2 true (fUnary FFmt.exp2) ∧ FloatUn .flog2 true (fUnary FFmt.log2) ∧
  FloatUn .fsin true (fUnary FFmt.sin) ∧ FloatUn .fcos true (fUnary FFmt.cos)

/-- R101: a float instruction that raises NV in an active lane while the trap is enabled completes, and then takes
FP_INVALID, with the lanes that raised NV and its own address. -/
def Sys2Proof.Machine.InvalidTrapRule : Prop :=
  ∀ s fm d a b, s.wave.spec = none → s.regs.priv = false → Clear s (planVVV (fregs fm) d a b).rounds →
    ∀ m, m = mkMask (fun l => bitOf s.regs.em l &&
        decide ((fAdd fm (laneRnd s.regs l) (fval fm s.regs a l) (fval fm s.regs b l)).flags / 0x100 % 2 = 1)) →
      m ≠ 0 → s.regs.trapen.getLsbD 0 = true →
      ∃ t, exec (.fadd fm d a b) s = .next t ∧ t.regs.priv = true ∧ t.regs.tcode = 0x3E#32 ∧
        t.regs.tinfo = [loWord m, hiWord m, s.regs.pc.setWidth 32] ∧ t.regs.tpc = (nextPc s.regs.pc).setWidth 32 ∧
        ∀ l < 64, bitOf s.regs.em l = true → lane t.regs.fpc l = lane s.regs.fpc l |||
          BitVec.ofNat 32 (fAdd fm (laneRnd s.regs l) (fval fm s.regs a l) (fval fm s.regs b l)).flags

/-- R121 to R124: a comparison gives the pair D the mask of the active lanes in which it holds, and OR-s its
flags. -/
def Sys2Proof.Machine.VectorCompareRule : Prop :=
  ∀ s cond ty d a b,
    let g := fun l => cmpLane cond ty s.regs a b l
    Clear s { ops := [.s d 2 false, .v a (cmpRegs ty) true, .v b (cmpRegs ty) true], writes := 2 } →
    (s.regs.trapen.getLsbD 0 = false ∨ ∀ l < 64, bitOf s.regs.em l = true → (g l).2 / 0x100 % 2 = 0) →
    Completes (.vcmp cond ty d a b) s 2 (nextPc s.regs.pc) fun u =>
      u.s2 d = mkMask (fun l => bitOf s.regs.em l && (g l).1) ∧ ScalarFrame { s.regs with fpc := u.fpc } u d 2 ∧
      ∀ l < 64, lane u.fpc l =
        if bitOf s.regs.em l then lane s.regs.fpc l ||| BitVec.ofNat 32 (g l).2 else lane s.regs.fpc l

/-- R155 to R159: `vcvt` gives each active lane the converted element: a pair, the element at the position within
the old word of D, or the element in its container; everything else stays. -/
def Sys2Proof.Machine.VectorConvertRule : Prop :=
  ∀ s pair d a rnd sat pos,
    let ds := (cvtPair pair).1
    let ss := (cvtPair pair).2
    let wide := sideBits ds = 64
    let packed := container ds < 16
    let g := fun l => convertElem pair (cvtRnd rnd (laneRnd s.regs l)) sat
      (cvtSource s.regs ss a l (if container ss < 16 then pos else 0))
    Clear s { ops := [.v d (if wide then 2 else 1) packed, .v a (if sideBits ss = 64 then 2 else 1) true] ++
                if rnd = .lane then [.fpc] else [],
              writes := if wide then 2 else 1 } →
    NoInvalid s g →
    Completes (.vcvt pair d a rnd sat pos) s (if wide then 2 else 1) (nextPc s.regs.pc) fun u =>
      (∀ l < 64, bitOf s.regs.em l = true →
        (if wide then u.v2 d l = BitVec.ofNat 64 (g l).bits
         else if packed then lane (u.v d) l = putElem (lane (s.regs.v d) l) (container ds) pos (g l).bits
         else lane (u.v d) l = BitVec.ofNat 32 (toContainer ds (g l).bits)) ∧
        lane u.fpc l = lane s.regs.fpc l ||| BitVec.ofNat 32 (g l).flags) ∧
      VectorFrame s.regs u d (if wide then 2 else 1) s.regs.em ∧ SameScalars s.regs u ∧
      SameSystem { s.regs with fpc := u.fpc } u

/-! ### Moves and lanes -/

/-- R126, R128 to R130: moves between registers, the execution mask, `fpc`, the loop counter and the context
scalars. -/
def Sys2Proof.Machine.MovesRule : Prop :=
  (∀ s d a, Clear s (planVV 1 d a) →
    Completes (.vmov d a) s 1 (nextPc s.regs.pc) (GivesV s.regs d s.regs.em fun l => lane (s.regs.v a) l)) ∧
  (∀ s d a b, Clear s { ops := [.v d 1 false, .v a 1 true, .s b 2 true], writes := 1 } →
    Completes (.vsel d a b) s 1 (nextPc s.regs.pc)
      (GivesV s.regs d (s.regs.em &&& s.regs.s2 b) fun l => lane (s.regs.v a) l)) ∧
  (∀ s d a, Clear s { ops := [.v d 1 false, .s a 1 true], writes := 1 } →
    Completes (.vmovs d a) s 1 (nextPc s.regs.pc) (GivesV s.regs d s.regs.em fun _ => s.regs.s a)) ∧
  (∀ s d, Clear s { ops := [.v d 1 false], writes := 1 } →
    Completes (.vlaneid d) s 1 (nextPc s.regs.pc) (GivesV s.regs d s.regs.em fun l => BitVec.ofNat 32 l)) ∧
  (∀ s d a, Clear s (planSS d a) →
    Completes (.smov d a) s 1 (nextPc s.regs.pc) (GivesS s.regs d (s.regs.s a))) ∧
  (∀ s d n, Clear s { ops := [.s d 1 false], writes := 1 } →
    Completes (.smovx d n) s 1 (nextPc s.regs.pc) (GivesS s.regs d (tget s.regs.ctxs n 0)) ∧
    Completes (.lcget d) s 1 (nextPc s.regs.pc) (GivesS s.regs d s.regs.lc)) ∧
  (∀ s d, Clear s { ops := [.s d 2 false], writes := 2 } →
    Completes (.emget d) s 2 (nextPc s.regs.pc) (GivesS2 s.regs d (s.regs.em &&& widthMask s.wave.width)) ∧
    Completes (.rdcyc d) s 2 (nextPc s.regs.pc) (GivesS2 s.regs d (BitVec.ofNat 64 s.cycle))) ∧
  (∀ s a, Clear s { ops := [.s a 2 true], writes := 1 } →
    Completes (.emset a) s 1 (nextPc s.regs.pc)
      (SameRegs { s.regs with em := s.regs.s2 a &&& widthMask s.wave.width &&& ~~~s.regs.exited })) ∧
  (∀ s a, Clear s { ops := [.s a 1 true], writes := 1 } →
    Completes (.lcset a) s 1 (nextPc s.regs.pc) (SameRegs { s.regs with lc := s.regs.s a })) ∧
  (∀ s d, Clear s { ops := [.v d 1 false, .fpc], writes := 1 } →
    Completes (.fpcget d) s 1 (nextPc s.regs.pc)
      (GivesV s.regs d s.regs.em fun l => lane s.regs.fpc l &&& 0x3F07#32)) ∧
  (∀ s a, Clear s { ops := [.v a 1 true], writes := 1 } →
    Completes (.fpcset a) s 1 (nextPc s.regs.pc) fun u =>
      (∀ l < 64, lane u.fpc l = if bitOf s.regs.em l then fpcStore (lane (s.regs.v a) l) else lane s.regs.fpc l) ∧
      SameSystem { s.regs with fpc := u.fpc } u ∧ u.vregs = s.regs.vregs ∧ SameScalars s.regs u ∧
      ∀ k, k / 64 ≠ fpcKey → tfind? u.vpois k = tfind? s.regs.vpois k) ∧
  ∀ s, Clear s { writes := 1 } →
    Completes .fpcclr s 1 (nextPc s.regs.pc) fun u =>
      (∀ l < 64, lane u.fpc l = if bitOf s.regs.em l then lane s.regs.fpc l &&& 7#32 else lane s.regs.fpc l) ∧
      SameRegs { s.regs with fpc := u.fpc } u

/-- No active lane reads a poisoned element of vector register `a` in the lanes of `m` (R429). -/
def Sys2Proof.Machine.CleanLanes (s : State) (a : Nat) (m : Mask) : Prop := s.regs.poisonV [s.regs.vkey a] m = none

/-- R127: `vread` gives lane k of A and `vwrite` writes lane k of D whatever `em` holds; a k of W or more gives 0, or
writes nothing. -/
def Sys2Proof.Machine.SingleLanesRule : Prop :=
  (∀ s d a b, Clear s { ops := [.s d 1 false, .v a 1 false, .s b 1 true], writes := 1 } →
    CleanLanes s a (oneLane (s.regs.s b).toNat) →
    Completes (.vread d a b) s 1 (nextPc s.regs.pc) (GivesS s.regs d
      (if (s.regs.s b).toNat < s.wave.width then lane (s.regs.v a) (s.regs.s b).toNat else 0))) ∧
  ∀ s d a b, Clear s { ops := [.v d 1 false, .s a 1 true, .s b 1 true], writes := 1 } →
    Completes (.vwrite d a b) s 1 (nextPc s.regs.pc) (GivesV s.regs d
      (if (s.regs.s b).toNat < s.wave.width then oneLane (s.regs.s b).toNat else 0) fun _ => s.regs.s a)

/-- A lane-moving form gives each active lane `l` the element of A in lane `src l`, or 0 where that is no lane of the
wave. -/
def Sys2Proof.Machine.MovesLanes (i : Instr) (s : State) (ops : List Opnd) (d a : Nat) (src : Nat → Nat) : Prop :=
  Clear s { ops := ops, writes := 1 } → CleanLanes s a (sourceLanes s.regs src) →
    Completes i s 1 (nextPc s.regs.pc) (GivesV s.regs d s.regs.em fun l =>
      if src l < s.wave.width then lane (s.regs.v a) (src l) else 0)

/-- R132, R133, R137: broadcast, permutation, shuffles and compaction, each lane computed from the lanes of A before
the instruction. -/
def Sys2Proof.Machine.LaneMovesRule : Prop :=
  ∀ s d a b,
    let x := [Opnd.v d 1 false, .v a 1 false, .s b 1 true]
    let n := (s.regs.s b).toNat
    MovesLanes (.vbcast d a b) s x d a (fun _ => n) ∧
    MovesLanes (.vperm d a b) s [.v d 1 false, .v a 1 false, .v b 1 true] d a
      (fun l => (lane (s.regs.v b) l).toNat) ∧
    MovesLanes (.vshfup d a b) s x d a (fun l => if n ≤ l then l - n else l) ∧
    MovesLanes (.vshfdn d a b) s x d a (fun l => if l + n < s.wave.width then l + n else l) ∧
    MovesLanes (.vshfx d a b) s x d a (fun l => l ^^^ (n % s.wave.width)) ∧
    (Clear s { ops := [.v d 1 false, .v a 1 false, .s b 2 true], writes := 1 } → CleanLanes s a (s.regs.s2 b) →
      let kept := lanesOf (s.regs.em &&& s.regs.s2 b)
      Completes (.vcompact d a b) s 1 (nextPc s.regs.pc)
        (GivesV s.regs d (mkMask fun j => decide (j < kept.length)) fun j => lane (s.regs.v a) (kept.getD j 0)))

/-- R134 to R136: votes and ballots over the active lanes, and matches: the size of each lane's group, its place in
it, its first lane, and whether it is the last. -/
def Sys2Proof.Machine.VotesAndMatchesRule : Prop :=
  (∀ s d a, Clear s { ops := [.s d 1 false, .v a 1 true], writes := 1 } →
    Completes (.vvoteAny d a) s 1 (nextPc s.regs.pc) (GivesS s.regs d
      (if (lanesOf s.regs.em).any fun l => lane (s.regs.v a) l ≠ 0 then 1 else 0)) ∧
    Completes (.vvoteAll d a) s 1 (nextPc s.regs.pc) (GivesS s.regs d
      (if (lanesOf s.regs.em).all fun l => lane (s.regs.v a) l ≠ 0 then 1 else 0))) ∧
  (∀ s d a, Clear s { ops := [.s d 2 false, .v a 1 true], writes := 2 } →
    Completes (.vballot d a) s 2 (nextPc s.regs.pc) (GivesS2 s.regs d
      (mkMask fun l => bitOf s.regs.em l && decide (lane (s.regs.v a) l ≠ 0)))) ∧
  ∀ s d a, Clear s (planVV 1 d a) →
    let w := fun (eqv : Word → Word → Bool) (l : Nat) =>
      let grp := (lanesOf s.regs.em).filter fun k => eqv (lane (s.regs.v a) k) (lane (s.regs.v a) l)
      let below := (grp.filter fun k => decide (k < l)).length
      BitVec.ofNat 32 ((if below + 1 = grp.length then 2 ^ 31 else 0) + grp.length * 2 ^ 16 + below * 2 ^ 8 +
        grp.headD l)
    Completes (.vmatchB32 d a) s 1 (nextPc s.regs.pc)
      (GivesV s.regs d s.regs.em (w fun x y => decide (x = y))) ∧
    Completes (.vmatchF32 d a) s 1 (nextPc s.regs.pc)
      (GivesV s.regs d s.regs.em (w matchF32))

/-- The active lanes of the segment of lane `l`: those with no segment head between them and `l`, cut by the form to
those up to `l`, or below it (R139). -/
def Sys2Proof.Machine.scanPart (r : WaveRegs) (heads : Mask) (form : ScanForm) (l : Nat) : List Nat :=
  (lanesOf r.em).filter fun k =>
    ((lanesOf r.em).all fun j => !(decide (min k l < j) && decide (j ≤ max k l) && bitOf heads j)) &&
    match form with
    | .incl => decide (k ≤ l)
    | .excl => decide (k < l)
    | .red => true

/-- The chain of an operation over lanes, from nothing. -/
def Sys2Proof.Machine.scanFold (f : ScanOp) (r : WaveRegs) (a : Nat) (ks : List Nat) : Option Word :=
  ks.foldl (fun acc k => some (f r acc k (lane (r.v a) k)).1) none

/-- A scan gives each active lane the chain over its part of its segment, the identity where there is none, and the
flags of its own step. -/
def Sys2Proof.Machine.Scans (i : Nat → Nat → Nat → Instr) (form : ScanForm) (f : ScanOp) (ident : Word) (rounds : Bool) : Prop :=
  ∀ s d a b,
    let g : Nat → FRes := fun l =>
      { bits := ((scanFold f s.regs a (scanPart s.regs (s.regs.s2 b) form l)).getD ident).toNat
        flags := (f s.regs (scanFold f s.regs a (scanPart s.regs (s.regs.s2 b) .excl l)) l (lane (s.regs.v a) l)).2 }
    Clear s { ops := [.v d 1 false, .v a 1 true, .s b 2 true] ++ if rounds then [.fpc] else [], writes := 1 } →
    NoInvalid s g → Completes (i d a b) s 1 (nextPc s.regs.pc) (GivesF s.regs .f32 d g)

/-- R138 to R141: inclusive and exclusive scans and reductions over segments of the active lanes, in ascending
order. -/
def Obligations.SegmentedScans : Prop :=
  Scans .vscanAddI32 .incl (foldInt fun x y => x + y) 0 false ∧ Scans .vscanAddF32 .incl foldF32 0 true ∧
  Scans .vscanMinI .incl (foldInt minS) 0x7FFFFFFF#32 false ∧ Scans .vscanMinN .incl (foldInt minU) 0xFFFFFFFF#32 false ∧
  Scans .vscanMaxI .incl (foldInt maxS) 0x80000000#32 false ∧ Scans .vscanMaxN .incl (foldInt maxU) 0 false ∧
  Scans .vscanAnd .incl (foldInt fun x y => x &&& y) 0xFFFFFFFF#32 false ∧
  Scans .vscanOr .incl (foldInt fun x y => x ||| y) 0 false ∧
  Scans .vscanxAddI32 .excl (foldInt fun x y => x + y) 0 false ∧ Scans .vscanxAddF32 .excl foldF32 0 true ∧
  Scans .vscanxMinI .excl (foldInt minS) 0x7FFFFFFF#32 false ∧
  Scans .vscanxMinN .excl (foldInt minU) 0xFFFFFFFF#32 false ∧
  Scans .vscanxMaxI .excl (foldInt maxS) 0x80000000#32 false ∧ Scans .vscanxMaxN .excl (foldInt maxU) 0 false ∧
  Scans .vscanxAnd .excl (foldInt fun x y => x &&& y) 0xFFFFFFFF#32 false ∧
  Scans .vscanxOr .excl (foldInt fun x y => x ||| y) 0 false ∧
  Scans .vredAddI32 .red (foldInt fun x y => x + y) 0 false ∧ Scans .vredAddF32 .red foldF32 0 true ∧
  Scans .vredMinI .red (foldInt minS) 0x7FFFFFFF#32 false ∧ Scans .vredMinN .red (foldInt minU) 0xFFFFFFFF#32 false ∧
  Scans .vredMaxI .red (foldInt maxS) 0x80000000#32 false ∧ Scans .vredMaxN .red (foldInt maxU) 0 false ∧
  Scans .vredAnd .red (foldInt fun x y => x &&& y) 0xFFFFFFFF#32 false ∧
  Scans .vredOr .red (foldInt fun x y => x ||| y) 0 false

/-! ### Control flow -/

/-- R294: a branch goes to its target when its condition holds on its operand (for the mask branches on `em`),
otherwise to the next instruction, and changes no register. -/
def Sys2Proof.Machine.BranchesRule : Prop :=
  ∀ s off,
    let go := fun (c : Prop) [Decidable c] => if c then target s.regs.pc off else nextPc s.regs.pc
    (Clear s {} → Completes (.br off) s 0 (target s.regs.pc off) (SameRegs s.regs)) ∧
    (Clear s {} → Completes (.bem0 off) s 0 (go (s.regs.em = 0)) (SameRegs s.regs)) ∧
    (∀ a, Clear s { ops := [.s a 1 true] } →
      Completes (.bz a off) s 0 (go (s.regs.s a = 0)) (SameRegs s.regs) ∧
      Completes (.bnz a off) s 0 (go (s.regs.s a ≠ 0)) (SameRegs s.regs) ∧
      Completes (.blt a off) s 0 (go ((s.regs.s a).toInt < 0)) (SameRegs s.regs) ∧
      Completes (.bge a off) s 0 (go (0 ≤ (s.regs.s a).toInt)) (SameRegs s.regs)) ∧
    ∀ a, Clear s { ops := [.s a 2 true] } →
      Completes (.bemx a off) s 0
        (go (∀ l < s.wave.width, l < 64 → bitOf s.regs.em l = bitOf (s.regs.s2 a) l)) (SameRegs s.regs)

/-- R44: a branch reaches the address of the instruction plus four times its signed offset, within its slot. -/
def Obligations.BranchTarget : Prop :=
  ∀ (pc : Pc) (off : Nat),
    (target pc off).toNat / 2 ^ 16 = pc.toNat / 2 ^ 16 ∧
    ((target pc off).toNat % 2 ^ 16 : Int) =
      ((pc.toNat % 2 ^ 16 : Nat) + 4 * (BitVec.ofNat 16 off).toInt) % 2 ^ 16 ∧
    (nextPc pc).toNat = pc.toNat / 2 ^ 16 * 2 ^ 16 + (pc.toNat + 4) % 2 ^ 16

/-- R294, R295: `call` leaves the address of the next instruction in its register; `jr` and `ret` go to an address
that is a multiple of 4 in the slot of the pc, and raise PROTECTION on any other. -/
def Sys2Proof.Machine.CallsAndJumpsRule : Prop :=
  (∀ s a off, Clear s { ops := [.s a 1 false], writes := 1 } →
    Completes (.call a off) s 1 (target s.regs.pc off) (GivesS s.regs a ((nextPc s.regs.pc).setWidth 32))) ∧
  ∀ s a imm, Clear s { ops := [.s a 1 true] } →
    let x := s.regs.s a + ((BitVec.ofNat 16 imm).signExtend 32 <<< 2)
    let r := s.regs.s a
    let fine := fun (y : Word) => y.toNat % 4 = 0 ∧ y.toNat < 2 ^ 18 ∧ y.toNat / 2 ^ 16 = s.regs.pc.toNat / 2 ^ 16
    (fine x → Completes (.jr a imm) s 0 (x.setWidth 18) (SameRegs s.regs)) ∧
    (¬ fine x → Traps (.jr a imm) s { code := 0x09, info := [0, 0, x, 0, 0xFFFFFFFF#32] }) ∧
    (fine r → Completes (.ret a) s 0 (r.setWidth 18) (SameRegs s.regs)) ∧
    (¬ fine r → Traps (.ret a) s { code := 0x09, info := [0, 0, r, 0, 0xFFFFFFFF#32] })

/-- The live lanes of the acting wave: those below its width that have not exited (R290). -/
def Sys2Proof.Machine.liveLanes (s : State) : Mask := widthMask s.wave.width &&& ~~~s.regs.exited

/-- The pc after a mask instruction whose new mask is `m` (R298). -/
def Sys2Proof.Machine.unlessEmpty (s : State) (m : Mask) (off : Nat) : Pc :=
  if m = 0 then target s.regs.pc off else nextPc s.regs.pc

/-- R291, R297 to R300: each mask instruction changes `em`, the mask stack and the loop counter as its rule says, and
nothing else, when the stack has the entries and the room it needs. -/
def Sys2Proof.Machine.MaskInstructionsRule : Prop :=
  ∀ s off,
    let r := s.regs
    let here := fun (m : Mask) => (m, r.pc)
    let set := fun (em : Mask) (st : List (Mask × Pc)) => SameRegs { r with em := em, stack := st }
    (∀ a, Clear s { ops := [.s a 2 true], writes := 3 } → r.stack.length ≤ 15 →
      Completes (.maskIf a off) s 3 (unlessEmpty s (r.em &&& r.s2 a) off)
        (set (r.em &&& r.s2 a) (here (r.em &&& ~~~(r.s2 a)) :: r.stack)) ∧
      Completes (.mpush a) s 3 (nextPc r.pc) (set (r.em &&& r.s2 a) (here r.em :: r.stack))) ∧
    (∀ m p st, r.stack = (m, p) :: st → st.length ≤ 15 →
      (Clear s { writes := 2 } → Completes (.maskElse off) s 2 (unlessEmpty s (m &&& liveLanes s) off)
        (set (m &&& liveLanes s) (here r.em :: st))) ∧
      (Clear s { writes := 3 } → Completes .maskEndif s 3 (nextPc r.pc) (set ((r.em ||| m) &&& liveLanes s) st) ∧
        Completes .mpop s 3 (nextPc r.pc) (set (m &&& liveLanes s) st))) ∧
    (Clear s { writes := 4 } →
      (r.lc = 0 ∨ r.em = 0 → Completes (.maskLoop off) s 4 (target r.pc off) (SameRegs r)) ∧
      (r.lc ≠ 0 → r.em ≠ 0 → r.stack.length ≤ 14 →
        Completes (.maskLoop off) s 4 (nextPc r.pc) (set r.em (here 0 :: here 0 :: r.stack)))) ∧
    ∀ m p m' p' st, r.stack = (m, p) :: (m', p') :: st → st.length ≤ 14 → Clear s { writes := 6 } →
      let x := (r.em ||| m) &&& liveLanes s
      (r.lc.toNat ≤ 1 ∨ x = 0 → Completes (.endl off) s 6 (nextPc r.pc)
        (SameRegs { r with
          em := (x ||| m') &&& liveLanes s, stack := st, lc := if r.lc.toNat ≤ 1 then 0 else r.lc })) ∧
      (1 < r.lc.toNat → x ≠ 0 → Completes (.endl off) s 6 (target r.pc off)
        (SameRegs { r with em := x, stack := here 0 :: (m', p') :: st, lc := r.lc - 1 }))

/-- R300: `brk` and `cont` move the active lanes to the loop's entry of lanes that have left it, or of lanes that
wait for the next iteration; when no lane is left in the `n` inner constructs their entries are popped and the branch
is taken. -/
def Sys2Proof.Machine.LoopExitsRule : Prop :=
  ∀ s n off, Clear s { writes := 2 + 2 * n } → n + 2 ≤ s.regs.stack.length → s.regs.stack.length ≤ 16 →
    let r := s.regs
    let left := fun (k : Nat) => r.stack.set k ((r.stack.getD k (0, 0)).1 ||| r.em, r.pc)
    let empty : Prop := ∀ j < n, (r.stack.getD j (0, 0)).1 = 0
    let out := fun (i : Instr) (k : Nat) =>
      (empty → Completes i s (2 + 2 * n) (target r.pc off) (SameRegs { r with em := 0, stack := (left k).drop n })) ∧
      (¬ empty → Completes i s (2 + 2 * n) (nextPc r.pc) (SameRegs { r with em := 0, stack := left k }))
    out (.brk n off) (n + 1) ∧ out (.cont n off) n

/-- R292: a mask instruction that finds too little room raises MASK_OVERFLOW, and one that finds too few entries
MASK_UNDERFLOW, with the depth. -/
def Sys2Proof.Machine.MaskStackTrapsRule : Prop :=
  ∀ s off,
    let n := s.regs.stack.length
    let ovf : TrapRec := { code := 0x18, info := [0, 0, BitVec.ofNat 32 n] }
    let unf : TrapRec := { code := 0x19, info := [0, 0, BitVec.ofNat 32 n] }
    (∀ a, Clear s { ops := [.s a 2 true], writes := 3 } → 16 ≤ n →
      Traps (.maskIf a off) s ovf ∧ Traps (.mpush a) s ovf) ∧
    (Clear s { writes := 4 } → s.regs.lc ≠ 0 → s.regs.em ≠ 0 → 15 ≤ n → Traps (.maskLoop off) s ovf) ∧
    (n = 0 → (Clear s { writes := 2 } → Traps (.maskElse off) s unf) ∧
      (Clear s { writes := 3 } → Traps .maskEndif s unf ∧ Traps .mpop s unf)) ∧
    (n < 2 → Clear s { writes := 6 } → Traps (.endl off) s unf) ∧
    ∀ k, n < k + 2 → n ≤ 16 → Clear s { writes := 2 + 2 * k } →
      Traps (.brk k off) s unf ∧ Traps (.cont k off) s unf

/-! ### Traps -/

/-- The acting wave has taken a trap from the registers `r`, with its launch's handler slot: R372 saves the pc and the
mask, makes every live lane active, sets the privilege bit and goes to the handler. -/
def Sys2Proof.Machine.Entered (r : WaveRegs) (live : Mask) (hs : Nat) (t : TrapRec) (u : WaveRegs) : Prop :=
  u = { r with
    tpc := r.pc.setWidth 32, tem := r.em, em := live, priv := true, progcnt := 0
    tcode := BitVec.ofNat 32 (t.code % 256 + (if t.async then 256 else 0) + (if t.rst then 512 else 0))
    tinfo := t.info, pc := BitVec.ofNat 18 (hs * 0x10000) }

/-- What the acting wave has asked other ranks to check is withdrawn there (R278); with nothing asked, nothing leaves. -/
def Sys2Proof.Machine.withdrawn (s : State) : List Outgoing :=
  match s.wave.ask with
  | none => []
  | some (seq, ps) => ps.map fun p => .remote p
      { stage := .drop, ctx := s.launch.ctx, jtag := s.launch.jtag, kind := .rld, ident := s.wave.ident.toNat, seq := seq
        region := s.regs.region.toNat }

/-- Two states differ in the acting wave's record and in what it has withdrawn at other ranks. -/
def Sys2Proof.Machine.Leaves (s t : State) : Prop := t = ({ s with outbox := s.outbox ++ withdrawn s } : State).setWave t.wave

/-- R372, R373, R317: a precise trap enters the handler of a wave in user mode, changing the acting wave alone, but for the
checks it waits for at other ranks, which are withdrawn (the model's choice, log 57); on a speculated path it is kept until
the vote resolves, the wave waiting with nothing else changed; in privileged mode it is a double fault, which removes the
block. -/
def Sys2Proof.Machine.TrapEntryRule : Prop :=
  ∀ s (t : TrapRec),
    (s.wave.spec = none → s.regs.priv = false →
      Leaves s (s.takeTrap t) ∧
      (s.takeTrap t).wave = { s.wave with
        regs := (s.takeTrap t).regs, stall := 0, stallObj := 0, since := s.cycle, accept := [], ask := none
        aged := (s.takeTrap t).wave.aged } ∧
      Entered s.regs (liveLanes s) (s.launchAt s.wave.launch).hs t (s.takeTrap t).regs) ∧
    (s.wave.spec = none → s.regs.priv = true → s.takeTrap t = s.removeBlock s.wave.blk s.cur t.code) ∧
    ∀ sp, s.wave.spec = some sp →
      s.takeTrap t = s.setWave { s.wave with
        spec := some { sp with deferred := some t }, stall := 19, stallObj := sp.slot }

/-- R384, R54 to R56, R371: `trap` and `brkpt` complete and then trap, with TPC at the next instruction; a word that is
no instruction traps with its own address, and the word in TINFO2; TINFO3 holds the number of the register where the word
has a form of `rdsys` or `wrsys` that names none (R376). -/
def Sys2Proof.Machine.TrapInstructionsRule : Prop :=
  ∀ s n, Clear s {} → s.wave.spec = none → s.regs.priv = false →
    let after := fun (i : Instr) (c : Nat) => ∃ t, exec i s = .next t ∧ OnlyWave s t ∧
      Entered { s.regs with pc := nextPc s.regs.pc, retired := s.regs.retired + 1 } (liveLanes s)
        (s.launchAt s.wave.launch).hs { code := c, info := [0, 0, BitVec.ofNat 32 n] } t.regs
    after (.trap n) 0x05 ∧ after (.brkpt n) 0x04 ∧
    let reg := if n / 2 ^ 21 = 4 ∧ n / 2 ^ 7 % 2 ^ 7 = 0 ∨ n / 2 ^ 21 = 5 ∧ n / 2 ^ 14 % 2 ^ 7 = 0 then n % 2 ^ 7 else 0
    ∃ t, exec (.illegalInstruction n) s = .next t ∧ Leaves s t ∧
      Entered s.regs (liveLanes s) (s.launchAt s.wave.launch).hs
        { code := 0x01, info := [0, 0, BitVec.ofNat 32 n, BitVec.ofNat 32 reg] } t.regs

/-- The first register of a declaration that is misaligned or not the wave's own (R49). -/
def Sys2Proof.Machine.firstBad (s : State) (ops : List Opnd) : Option Nat := ops.findSome? (Opnd.bad s.wave)

/-- R49, R376: outside speculation, an operand that is misaligned or not the wave's raises ILLEGAL_REGISTER with the
instruction word and the first such register, before any effect; shown of `vadd`, `vand`, `saddq`, `ssubq` and plain `ldg`.
That the first is taken in the order D, A, B is the model's choice (log 24). -/
def Sys2Proof.Machine.IllegalRegisterRule : Prop :=
  ∀ s k, s.wave.spec = none →
    let t : TrapRec := { code := 0x02, info := [0, 0, s.fetchWord, BitVec.ofNat 32 k] }
    (∀ sz d a b, firstBad s [.v d (regsOf sz) false, .v a (regsOf sz) true, .v b (regsOf sz) true] = some k →
      Traps (.vadd sz d a b) s t ∧ Traps (.vand sz d a b) s t) ∧
    (∀ d a b, firstBad s [.s d 2 false, .s a 2 true, .s b 2 true] = some k →
      Traps (.saddq d a b) s t ∧ Traps (.ssubq d a b) s t) ∧
    ∀ sz sign d a b, firstBad s [.v d (regsOf sz) false, .v a 1 true, .s b 2 true] = some k →
      Traps (.ldg sz sign .plain d a b) s t

/-- R49, R385, R387: outside speculation, a privileged instruction in user mode raises PRIVILEGE with the instruction
word, before its operands are looked at; `rdsys` and `wrsys` name the register. Shown of these and the forms of `tret`. -/
def Sys2Proof.Machine.PrivilegeTrapRule : Prop :=
  ∀ s, s.wave.spec = none → s.regs.priv = false →
    let t := fun (n : Nat) => ({ code := 0x03, info := [0, 0, s.fetchWord, BitVec.ofNat 32 n] } : TrapRec)
    Traps .tret s (t 0) ∧ Traps .tretPark s (t 0) ∧ Traps .tretKill s (t 0) ∧
    (∀ a n, Traps (.wrsys a n) s (t n)) ∧
    ∀ d n, n ∉ [18, 21, 22, 23, 24] → Traps (.rdsys d n) s (t n)

/-- R20: outside speculation, an instruction that names a register of an outstanding load waits, with reason 5; shown of `vadd` and `vmul`. -/
def Sys2Proof.Machine.ScoreboardRule : Prop :=
  ∀ s sz d a b, s.wave.spec = none → firstBad s (planVVV (regsOf sz) d a b).ops = none →
    (∃ ld ∈ s.wave.loads, ∃ e ∈ ld.dests, ∃ i ∈ [d, a, b], ∃ j < regsOf sz, e.1 = s.regs.vkey (i + j)) →
    Waits (.vadd sz d a b) s 5 0 ∧ Waits (.vmul sz d a b) s 5 0

/-- R429, R430, R373: outside speculation, reading a poisoned scalar raises POISON with what is recorded of it; an
instruction that only writes the register clears the poison. That in a handler the instruction goes on and the trap is held
is the model's choice (log 53). Shown of `smov` and `sli`. -/
def Sys2Proof.Machine.PoisonReadRule : Prop :=
  (∀ s d a p, s.wave.spec = none → s.wave.loads = [] → tfind? s.regs.spois (s.regs.skey a) = some p →
    let t : TrapRec :=
      { code := 0x38, async := true, info := [0, 0, loWord p.addr, hiWord p.addr, p.peer, BitVec.ofNat 32 p.kind] }
    (s.regs.priv = false → Traps (.smov d a) s t) ∧
    (s.regs.priv = true → s.regs.wdctl.toNat / 64 % 2 = 0 → (∀ x ∈ s.wave.pend, x.held = false) → ∃ u, exec (.smov d a) s = .next u ∧
      u.regs.s d = s.regs.s a ∧ u.regs.pc = nextPc s.regs.pc ∧ u.regs.priv = true ∧
      u.wave.pend = s.wave.pend ++ [{ trap := t, held := true }])) ∧
  ∀ s d n, Clear s { ops := [.s d 1 false], writes := 1 } →
    Completes (.sli d n) s 1 (nextPc s.regs.pc) fun u => tfind? u.spois (s.regs.skey d) = none

/-- R317, R351: on a speculated path the wave waits at an instruction that may not run there, at one past the limits of 48
instructions and 32 undo entries, and at every instruction once a trap is kept; it keeps its registers. The lowest reason
that applies is shown: of `wait` that of its counters, of `tkwait` that of its ticket, of `vadd` that of a register that an
outstanding load is to write. -/
def Sys2Proof.Machine.SpeculationLimitsRule : Prop :=
  ∀ s sp, s.wave.spec = some sp →
    (∀ ld st cp tl,
      let low := s.wave.loads.length ≤ ld ∧ s.wave.stores.length ≤ st ∧ s.wave.copies.length ≤ cp ∧
        s.wave.tileOps.length ≤ tl
      (sp.deferred ≠ none ∨ low → Waits (.wait ld st cp tl) s 19 sp.slot) ∧
      (sp.deferred = none → ¬ low → Waits (.wait ld st cp tl) s 9 0)) ∧
    (∀ sc, Waits (.fenceSc sc) s 19 sp.slot) ∧
    (sp.deferred ≠ none → Waits .tkwait s 19 sp.slot) ∧
    (Waits .tkwait s 19 sp.slot ∨ Waits .tkwait s 18 (s.wave.blk % 2 ^ 32)) ∧
    (∀ d a b, sp.deferred ≠ none → Waits (.sadd d a b) s 19 sp.slot) ∧
    (∀ d a b, sp.deferred = none → 48 ≤ sp.instrs ∨ 32 ≤ sp.writes → firstBad s (planSSS d a b).ops = none →
      Waits (.sadd d a b) s 20 sp.slot) ∧
    ∀ sz d a b, sp.deferred = none → 48 ≤ sp.instrs ∨ 32 ≤ sp.writes → firstBad s (planVVV (regsOf sz) d a b).ops = none →
      ((∀ o ∈ (planVVV (regsOf sz) d a b).ops, o.busy s.wave = false) → Waits (.vadd sz d a b) s 20 sp.slot) ∧
      ((∃ o ∈ (planVVV (regsOf sz) d a b).ops, o.busy s.wave = true) → Waits (.vadd sz d a b) s 5 0)

/-- R385: `tret` goes back to TPC with TEM among the live lanes and privilege 0; that a wave whose last lanes had exited
goes on draining is the model's reading (log 29). `tret.park` with a request pending parks the wave, its CP count dropped, and is `tret` without one.
`tret.kill` removes the block with the code of the trap served. -/
def Sys2Proof.Machine.TrapReturnRule : Prop :=
  ∀ s, Clear s { priv := true, spec := false } →
    let back : WaveRegs → Prop := SameRegs { s.regs with em := s.regs.tem &&& liveLanes s, priv := false }
    let returns := fun (i : Instr) => ∃ t, exec i s = .next t ∧ t = s.setWave t.wave ∧
      t.regs.pc = s.regs.tpc.setWidth 18 ∧ back t.regs ∧
      t.wave.life = if s.wave.final then .draining else s.wave.life
    returns .tret ∧ (s.wave.preq = none → returns .tretPark) ∧
    (s.wave.preq ≠ none → ∃ t, exec .tretPark s = .next t ∧ t = s.setWave t.wave ∧ t.regs = s.regs ∧
      t.wave.life = .parking ∧ t.wave.copies = []) ∧
    ∃ t, exec .tretKill s = .next t ∧ (t.blockAt s.wave.blk).st = .removed ∧
      (t.blockAt s.wave.blk).killed = some (s.regs.tcode.toNat % 256) ∧
      (t.launchAt s.block.launch).aborted = true

/-- R371 to R373, R41: a wave that may take its pending traps takes the first in rank at its boundary and enters the
handler, the trap no longer pending; the wave that acts otherwise stays the same. -/
def Sys2Proof.Machine.PendingTrapsRule : Prop :=
  ∀ s w t, s.fetchPoisoned (s.waveAt w) = false → s.boundary (s.waveAt w) = some t → t.trap.code ≠ 0x1A →
    ∃ u, exec (.trapEntry w) s = .next u ∧ (u.waveAt w).pend = (s.waveAt w).pend.erase t ∧
      Entered (s.waveAt w).regs (s.waveAt w).live (s.launchAt (s.waveAt w).launch).hs t.trap (u.waveAt w).regs ∧
      u.cur = s.cur ∧ (∀ k, k ≠ w → u.waveAt k = s.waveAt k) ∧ SameMemory s u

/-! ### Exit and system instructions -/

/-- A synchronising operation of the acting wave meets no check entry (R458): nothing is recorded, and in a REPLAY
session the next logged check entry of the wave is this one. What a RECORD session adds is stated by itself. -/
def Sys2Proof.Machine.Unlogged (s : State) : Prop :=
  s.rep.mode ≠ 1 ∧
  (s.rep.mode = 2 →
    ((s.rep.checks s.wave.ident.toNat).drop (tget s.rep.taken s.wave.ident.toNat 0)).head? =
      some (s.cycle, s.regs.retired.toNat % 2 ^ 32, s.regs.pc.toNat))

/-- No home at another rank still has tags of the acting wave's region to retire (R207). -/
def Sys2Proof.Machine.AloneHere (s : State) : Prop := s.wave.homes = [] ∧ s.wave.ending = []

/-- A synchronising operation of the acting wave may take effect at once (R207, R458). -/
def Sys2Proof.Machine.MaySync (s : State) : Prop := Unlogged s ∧ AloneHere s

/-- The access fits among the 2,048 outstanding requests of the acting wave's core (R13). -/
def Sys2Proof.Machine.Room (s : State) (ps : List Place) : Prop := s.coreRequests s.wave.core + requests ps ≤ 2048

/-- R296, R38, R251, R264: `exit` takes the active lanes out of the live ones; the last ones make the wave drain, once
no vote of it is cast; with no active live lane it only advances. A pending
trap of a failed copy is taken instead, with nothing done. -/
def Sys2Proof.Machine.ExitRule : Prop :=
  ∀ s,
    let x := s.regs.em &&& liveLanes s
    let last := x ≠ 0 ∧ liveLanes s &&& ~~~x = 0
    (Clear s { writes := 2 } → s.wave.deliverable PendTrap.copyError = none → ¬ last →
      Completes .exit s 2 (nextPc s.regs.pc)
        (SameRegs (if x = 0 then s.regs else { s.regs with exited := s.regs.exited ||| x, em := 0 }))) ∧
    (Clear s { spec := false } → s.wave.deliverable PendTrap.copyError = none → last → s.wave.casting = false →
      Unlogged s → ∃ t, exec .exit s = .next t ∧ t.wave.life = .draining ∧ t.wave.final = true ∧
        t.regs = { s.regs with exited := s.regs.exited ||| x, em := 0 } ∧ SameMemory s t ∧
        ∀ k, k ≠ s.cur → t.waveAt k = s.waveAt k) ∧
    (Clear s { spec := false } → s.wave.deliverable PendTrap.copyError = none → last → s.wave.casting = true →
      Waits .exit s 19 0) ∧
    ∀ t, Clear s { spec := false } → s.wave.deliverable PendTrap.copyError = some t →
      exec .exit s = .next ((s.setWave { s.wave with pend := s.wave.pend.erase t }).takeTrap t.trap)

/-- R384, R18, R377: `nop` and a `ppoint` without a request do nothing, `wbase` moves the register window; `ppoint`
with a request outside a handler and a speculated path makes PREEMPT pending, which is taken at the boundary after it (that
it stands among the pending traps until then is the model's choice, log 29). -/
def Sys2Proof.Machine.SimpleSystemRule : Prop :=
  (∀ s, Clear s {} → Completes .nop s 0 (nextPc s.regs.pc) (SameRegs s.regs)) ∧
  (∀ s n, Clear s { writes := 1 } → Completes (.wbase n) s 1 (nextPc s.regs.pc) (SameRegs { s.regs with wbase := n })) ∧
  (∀ s m, Clear s {} → s.wave.preq = none → Completes (.ppoint m) s 0 (nextPc s.regs.pc) (SameRegs s.regs)) ∧
  ∀ s m q, Clear s {} → s.regs.wdctl.toNat / 64 % 2 = 0 → s.wave.preq = some q → s.regs.priv = false → s.wave.spec = none → s.wave.preempting = false →
    ∃ t, exec (.ppoint m) s = .next t ∧ OnlyWave s t ∧ t.regs.pc = nextPc s.regs.pc ∧ SameRegs s.regs t.regs ∧
      t.wave.pend = s.wave.pend ++ [s.wave.preemptTrap q m s.cycle]

/-- R387: the value of every system register. -/
def Sys2Proof.Machine.SystemRegisterValuesRule : Prop :=
  ∀ s : State,
    let r := s.regs
    s.sysRead 0 = r.tcode ∧ s.sysRead 1 = r.tpc ∧ s.sysRead 2 = loWord r.tem ∧ s.sysRead 3 = hiWord r.tem ∧
    (∀ i < 8, s.sysRead (4 + i) = r.tinfo.getD i 0) ∧
    s.sysRead 12 = r.trapen ∧ s.sysRead 13 = BitVec.ofNat 32 r.stack.length ∧ s.sysRead 14 = r.wdctl ∧
    s.sysRead 15 = BitVec.ofNat 32 r.progcnt ∧ s.sysRead 16 = loWord r.exited ∧ s.sysRead 17 = hiWord r.exited ∧
    s.sysRead 18 = BitVec.ofNat 32 r.wbase ∧ s.sysRead 19 = loWord s.wave.savebase ∧
    s.sysRead 20 = hiWord s.wave.savebase ∧ s.sysRead 21 = tget r.ctxs 16 0 ∧
    s.sysRead 22 = BitVec.ofNat 32 s.launch.predl ∧ s.sysRead 23 = BitVec.ofNat 32 s.launch.ctx ∧
    s.sysRead 24 = BitVec.ofNat 32 (s.wave.loads.length * 2 ^ 15 + s.wave.stores.length * 2 ^ 10 +
      s.wave.copies.length * 2 ^ 5 + s.wave.tileOps.length) ∧
    (∀ i, ∀ e, r.stack.reverse[i]? = some e → i < 16 →
      s.sysRead (32 + 2 * i) = loWord e.1 ∧ s.sysRead (33 + 2 * i) = hiWord e.1 ∧
      s.sysRead (64 + i) = e.2.setWidth 32) ∧
    (∀ i, r.stack.length ≤ i → i < 16 →
      s.sysRead (32 + 2 * i) = 0 ∧ s.sysRead (33 + 2 * i) = 0 ∧ s.sysRead (64 + i) = 0) ∧
    ∀ i < 8, s.sysRead (96 + i) = tget r.sregs (120 + i) 0

/-- R387: `rdsys` writes a register's value to D; `wrsys` writes it in a handler, with the bits that a register has. -/
def Sys2Proof.Machine.SystemRegistersRule : Prop :=
  (∀ s d n, Clear s
      { priv := !sysAny n, ops := [.s d 1 false] ++ if 96 ≤ n then [.user (n - 96)] else [], writes := 1, sysreg := n } →
    Completes (.rdsys d n) s 1 (nextPc s.regs.pc) (GivesS s.regs d (s.sysRead n))) ∧
  ∀ s a, Clear s { priv := true, ops := [.s a 1 true], spec := false } →
    let r := s.regs
    let v := r.s a
    let does := fun (n : Nat) (u : WaveRegs) => Completes (.wrsys a n) s 0 (nextPc r.pc) (SameRegs u)
    does 1 { r with tpc := v &&& 0x3FFFC#32 } ∧
    does 2 { r with tem := pairOf v (hiWord r.tem) } ∧ does 3 { r with tem := pairOf (loWord r.tem) v } ∧
    does 12 { r with trapen := v &&& 1#32 } ∧ does 13 { r with stack := setDepth r.stack v.toNat } ∧
    does 14 { r with wdctl := v &&& 0x7F#32 } ∧ does 18 { r with wbase := v.toNat % 64 } ∧
    (∀ n, n = 16 ∨ n = 17 →
      let x := (if n = 16 then pairOf v 0 else pairOf 0 v) &&& widthMask s.wave.width
      does n { r with exited := r.exited ||| x, em := r.em &&& ~~~(r.exited ||| x) }) ∧
    does 21 { r with
      ctxs := tset r.ctxs 16 (BitVec.ofNat 32
        (min v.toNat (min (2 ^ 24) (s.launch.privstr / (4 * s.wave.width))))) } ∧
    (∀ i < 16,
      does (32 + 2 * i) { r with stack := setFromBottom r.stack i fun e => (pairOf v (hiWord e.1), e.2) } ∧
      does (33 + 2 * i) { r with stack := setFromBottom r.stack i fun e => (pairOf (loWord e.1) v, e.2) } ∧
      does (64 + i) { r with stack := setFromBottom r.stack i fun e => (e.1, v.setWidth 18) }) ∧
    (∀ i < 8, does (96 + i) { r with
      sregs := tset r.sregs (120 + i) v, spois := terase r.spois (120 + i) }) ∧
    ∀ n ∈ [0, 4, 11, 19, 20, 22, 23, 24],
      Traps (.wrsys a n) s { code := 0x03, info := [0, 0, s.fetchWord, BitVec.ofNat 32 n] }

/-- The words of the reply of service `n` for lane `l` (R386, R413): of the storage service the lane's status and block
count, of another installed one the lane's four words of the reply, of one that is not installed all ones and zeros. -/
def Sys2Proof.Machine.replyWord (s : State) (v : Wave) (n : Nat) (data : List Nat) (l i : Nat) : Word :=
  let c := s.ctxAt (s.launchAt v.launch).ctx
  if n = 0x100 ∧ c.serves 0x100 = true then
    match v.sysRes.find? fun x => x.1 = l with
    | none => 0
    | some x => if i = 0 then BitVec.ofNat 32 x.2.1 else if i = 1 then BitVec.ofNat 32 x.2.2 else 0
  else if c.serves n = true then
    BitVec.ofNat 32 (data.getD (4 * ((lanesOf v.regs.em).filter fun k => decide (k < l)).length + i) 0)
  else if i = 0 then 0xFFFFFFFF#32 else 0

/-- R302, R386, R413: `sys` with no active lane only advances. Otherwise it sends one message, with `em`, W and the four
words of each active lane in ascending order, to a service that is installed, none to one that is not, and the wave waits
for the reply with its registers as they are; the storage service first waits for its buffers' translations; a second
attempt waits. The reply writes D to D+3 in the active lanes (of a service that is not installed all ones in D and 0 in D+1
to D+3), every other lane and register stays, and the wave goes on after the instruction. (The message's layout is the
model's choice, log 13; which services are installed is free, log 36.) -/
def Obligations.ServiceCalls : Prop :=
  (∀ s d a b, Clear s { ops := [.v d 4 false, .v a 4 true, .s b 1 true], spec := false } →
    let n := (s.regs.s b).toNat
    let stores : Prop := n = 0x100 ∧ s.ctxOf.serves 0x100 = true
    let buffers := (lanesOf s.regs.em).flatMap fun l => s.storageWaits l (storageArg s.regs a l)
    let waits := s.setWave { s.wave with sysWait := some (n, d), sysRes := [] }
    let message := [s.launch.ctx, s.wave.ident.toNat, n, s.regs.em.toNat, s.wave.width] ++
      (lanesOf s.regs.em).flatMap fun l => [(lane (s.regs.v (a + 0)) l).toNat, (lane (s.regs.v (a + 1)) l).toNat,
        (lane (s.regs.v (a + 2)) l).toNat, (lane (s.regs.v (a + 3)) l).toNat]
    (s.regs.em = 0 → Completes (.sys d a b) s 0 (nextPc s.regs.pc) (SameRegs s.regs)) ∧
    (s.regs.em ≠ 0 → s.wave.sysWait ≠ none → Waits (.sys d a b) s 22 0) ∧
    (s.regs.em ≠ 0 → s.wave.sysWait = none → ¬ stores → s.ctxOf.serves n = true →
      exec (.sys d a b) s =
        .next (({ waits with outbox := s.outbox ++ [.sysCall s.cur message] } : State).stallWave 22 0)) ∧
    (s.regs.em ≠ 0 → s.wave.sysWait = none → s.ctxOf.serves n = false →
      exec (.sys d a b) s = .next (waits.stallWave 22 0)) ∧
    (s.regs.em ≠ 0 → s.wave.sysWait = none → stores → s.frbWaits (.wave s.cur) = false → buffers = [] →
      ∃ t, exec (.sys d a b) s = .next t ∧ t.wave.sysWait = some (n, d) ∧ t.regs = s.regs ∧ SameMemory s t) ∧
    (s.regs.em ≠ 0 → s.wave.sysWait = none → stores → s.frbWaits (.wave s.cur) = false → buffers ≠ [] →
      ∃ t, exec (.sys d a b) s = .next t ∧ t.wave.sysWait = none ∧ t.wave.stall = 22 ∧ t.regs = s.regs ∧
        t.storage = s.storage ∧ SameMemory s t)) ∧
  ∀ s w data n d, (s.waveAt w).sysWait = some (n, d) → d % 4 = 0 →
    let v := s.waveAt w
    ∃ t, exec (.sysReply w data) s = .next t ∧
      t = ({ s with fresh := t.fresh } : State).updWave w (fun _ => t.waveAt w) ∧ (t.waveAt w).sysWait = none ∧
      (t.waveAt w).regs.pc = nextPc v.regs.pc ∧ (t.waveAt w).regs.retired = v.regs.retired + 1 ∧
      (∀ l < 64, bitOf v.regs.em l = true → ∀ i < 4,
        lane ((t.waveAt w).regs.v (d + i)) l = replyWord s v n data l i) ∧
      VectorFrame v.regs (t.waveAt w).regs d 4 v.regs.em ∧ SameScalars v.regs (t.waveAt w).regs ∧
      SameSystem v.regs (t.waveAt w).regs
/-! ### Global memory -/

/-- The byte at a physical address of a tier. -/
def Sys2Proof.Machine.byteAt (s : State) (tier a : Nat) : Byte :=
  match tier with
  | 0 => s.hbm.read a
  | 1 => s.ddr.read a
  | _ => s.hostMem.read a

/-- The byte at a place after cells have been written in order: the last one for the place, or the old byte. -/
def Sys2Proof.Machine.afterCells (cells : List (Nat × Nat × Byte)) (tier a : Nat) (old : Byte) : Byte :=
  ((cells.reverse.find? fun c => decide (min c.1 2 = min tier 2) && decide (c.2.1 = a)).map fun c => c.2.2).getD old

/-- Every lane's address translates with the rights that the access needs, the access meets no tag of another party nor an
atomic of another rank that is still to be performed (log 57), and its core has room for its requests (R13, R208 to R210,
R367 to R370); `s1` is the state after the translation, `ps` are the lanes' places. -/
def Sys2Proof.Machine.Reached (s : State) (kind : Nat) (write priv : Bool) (rs : List Req) (s1 : State) (ps : List Place) : Prop :=
  s.accept (.wave s.cur) s.wave.core s.launch.ctx write priv rs = .ok s1 ps ∧
  (s.regs.priv = false → priv = false →
    s1.clash (.wave s.cur) s.launch.ctx kind ps = none ∧ s1.contends (.wave s.cur) s.launch.ctx kind ps = false) ∧ Room s ps

/-- A load is outstanding: what each of the `n` registers from `d` is to receive in the active lanes. -/
def Sys2Proof.Machine.LoadPending (s t : State) (d n : Nat) (val : Nat → Nat → Word) : Prop :=
  ∃ ld : PendLoad, t.wave.loads = s.wave.loads ++ [ld] ∧ ld.mask = s.regs.em ∧ ld.passes = [] ∧
    ld.dests = (List.range n).map fun i => (s.regs.vkey (d + i), mkLanes fun l => val i l)

/-- The frame of a memory instruction: no register of the acting wave changes but the pc, the counts and the region, no
other wave changes, and the pc is at the next instruction. -/
def Sys2Proof.Machine.MemFrame (s t : State) (region : Word) : Prop :=
  t.cur = s.cur ∧ (∀ k, k ≠ s.cur → t.waveAt k = s.waveAt k) ∧ SameRegs { s.regs with region := region } t.regs ∧
  t.regs.pc = nextPc s.regs.pc

/-- No scratchpad byte changes. -/
def Sys2Proof.Machine.SameScratch (s t : State) : Prop := ∀ b a, (t.blockAt b).scratch.read a = (s.blockAt b).scratch.read a

/-- R229 to R232: `ldg` makes a load outstanding with the bytes at its lanes' places, extended to the element; no
memory and no register changes; with an acquire scope it ends the wave's region. That the bytes are read when the access is
accepted is the model's choice (log 5). -/
def Sys2Proof.Machine.GlobalLoadsRule : Prop :=
  ∀ s sz sign ord d a b s1 ps,
    let acq := (syncScope ord).isSome
    let kind := if acq then 3 else 0
    let rs := globalReqs s.regs a b (bytesOf sz)
    Clear s { ops := [.v d (regsOf sz) false, .v a 1 true, .s b 2 true], spec := !acq, writes := regsOf sz } →
    rs ≠ [] → firstStage rs kind = none → s.wave.loads.length < 63 → Reached s kind false false rs s1 ps →
    (acq = true → MaySync s) →
    ∃ t, exec (.ldg sz sign ord d a b) s = .next t ∧
      LoadPending s t d (regsOf sz) (fun i l =>
        loadWord sz sign (laneVal (ps.map fun x => (x.req.lane, s.loadAt x)) l) i) ∧
      MemFrame s t (if acq then s.regs.region + 1 else s.regs.region) ∧ SameMemory s t ∧
      t.wave.stores = s.wave.stores

/-- R229 to R231: outside speculation `stg` writes the low bytes of D at its lanes' places in ascending lane order and
nothing else in any memory, and is counted on ST; a release store first waits until its scope has the wave's earlier
accesses and ends the region. That the bytes are written when the access is accepted is the model's choice (log 5). -/
def Sys2Proof.Machine.GlobalStoresRule : Prop :=
  ∀ s sz ord d a b s1 ps,
    let rel := syncScope ord
    let kind := if rel.isSome then 4 else 1
    let rs := globalReqs s.regs a b (bytesOf sz)
    let cells := storeCells ps (laneData s.regs (regsOf sz) d)
    s.wave.spec = none →
    Clear s { ops := [.v d (regsOf sz) true, .v a 1 true, .s b 2 true], spec := rel.isNone } →
    rs ≠ [] → firstStage rs kind = none → s.wave.stores.length < 31 → Reached s kind true false rs s1 ps →
    (∀ sc, rel = some sc → s.wave.performedAt sc = true ∧ MaySync s) →
    ∃ t, exec (.stg sz ord d a b) s = .next t ∧
      (∀ tier x, byteAt t tier x = afterCells cells tier x (byteAt s tier x)) ∧ SameScratch s t ∧
      MemFrame s t (if rel.isSome then s.regs.region + 1 else s.regs.region) ∧
      t.wave.stores = s.wave.stores ++ [{ reqs := requests ps }] ∧ t.wave.loads = s.wave.loads

/-- R220, R227, R317: under speculation plain stores of `stg`, `pst` and `pstq` are kept in the hold buffer with the
registers before them; no memory changes and nothing is counted. (With the watchdog off, which would be deferred, R306.) -/
def Sys2Proof.Machine.HeldStoresRule : Prop :=
  ∀ s sp s1 ps, s.wave.spec = some sp → sp.held.length < 16 → s.regs.wdctl.toNat / 64 % 2 = 0 →
    let holds := fun (i : Instr) (cells : List (Nat × Nat × Byte)) (qs : List Place) => ∃ t, exec i s = .next t ∧
      t.wave.spec = some { sp with
        instrs := sp.instrs + 1, held := sp.held ++ [{ before := s.regs, cells := cells, places := qs }] } ∧
      SameMemory s t ∧ MemFrame s t s.regs.region ∧ t.wave.stores = s.wave.stores
    (∀ sz ord d a b, syncScope ord = none →
      let rs := globalReqs s.regs a b (bytesOf sz)
      Clear s { ops := [.v d (regsOf sz) true, .v a 1 true, .s b 2 true] } → rs ≠ [] → firstStage rs 1 = none →
      s.accept (.wave s.cur) s.wave.core s.launch.ctx true false rs = .ok s1 ps → Room s ps →
      holds (.stg sz ord d a b) (storeCells ps (laneData s.regs (regsOf sz) d)) ps) ∧
    ∀ d a b n,
      let rs := s.wave.privAll a b n
      let m := (lanesOf s.regs.em).length
      let cells := (List.range n).flatMap fun j =>
        storeCells (((asPrivate ps).drop (j * m)).take m) fun l => (lane (s.regs.v (d + j)) l).toNat
      Clear s { ops := [.v d n true, .v a 1 true, .s b 1 true] } → rs ≠ [] → privStage s.regs a b n = none →
      s.accept (.wave s.cur) s.wave.core s.launch.ctx true true rs = .ok s1 ps → Room s ps →
      (n = 1 → holds (.pst d a b) cells (asPrivate ps)) ∧ (n = 2 → holds (.pstq d a b) cells (asPrivate ps))

/-- A global atomic: the memories hold what the lanes' operations in ascending lane order leave, and the old values are
delivered as a load, or the instruction is counted on ST; it is an acquire and a release and ends the region. That memory
changes when the access is accepted is the model's choice (log 5). -/
def Sys2Proof.Machine.Atomic (i : Bool → Nat → Nat → Nat → Instr) (op : AOp) (wd : AWidth) : Prop :=
  ∀ s ret d a b s1 ps,
    let rs := globalReqs s.regs a b (4 * widthRegs wd)
    let y := s.amoLanes op wd s.regs d ps
    Clear s { ops := [.v d (amoRegs op wd) true, .v a 1 true, .s b 2 true], spec := false } →
    rs ≠ [] → firstStage rs 2 = none → (if ret then s.wave.loads.length < 63 else s.wave.stores.length < 31) →
    s.wave.performedAt .pkg = true → Reached s 2 true false rs s1 ps → MaySync s →
    ∃ t, exec (i ret d a b) s = .next t ∧ (∀ tier x, byteAt t tier x = byteAt y.1 tier x) ∧ SameScratch s t ∧
      MemFrame s t (s.regs.region + 1) ∧
      (ret = true → LoadPending s t d (widthRegs wd) (fun j l => BitVec.ofNat 32 (laneVal y.2 l / 2 ^ (32 * j))) ∧
        t.wave.stores = s.wave.stores) ∧
      (ret = false → t.wave.stores = s.wave.stores ++ [{ reqs := requests ps }] ∧ t.wave.loads = s.wave.loads)

/-- R233 to R235: every global atomic, with and without its old value. -/
def Sys2Proof.Machine.GlobalAtomicsRule : Prop :=
  (∀ wd, Atomic (.atomAdd wd) .add wd ∧ Atomic (.atomSub wd) .sub wd ∧ Atomic (.atomMinI wd) .minI wd ∧
    Atomic (.atomMinN wd) .minN wd ∧ Atomic (.atomMaxI wd) .maxI wd ∧ Atomic (.atomMaxN wd) .maxN wd ∧
    Atomic (.atomAnd wd) .and wd ∧ Atomic (.atomOr wd) .or wd ∧ Atomic (.atomXor wd) .xor wd ∧
    Atomic (.atomXchg wd) .xchg wd ∧ Atomic (.atomCas wd) .cas wd ∧ Atomic (.atomInc wd) .inc wd ∧
    Atomic (.atomDec wd) .dec wd) ∧
  Atomic .atomFaddF32 .fadd32 .w32 ∧ Atomic .atomFaddF64 .fadd64 .w64

/-- R234: the function of each integer atomic on the old value and the operand, at both widths; a poisoned place stays
as it is and every lane receives the value before its own operation. -/
def Sys2Proof.Machine.AtomicFunctionsRule : Prop :=
  (∀ {w : Nat} (x d n : BitVec w),
    amoInt .add x d n = x + d ∧ amoInt .sub x d n = x - d ∧ amoInt .and x d n = x &&& d ∧ amoInt .or x d n = x ||| d ∧
    amoInt .xor x d n = x ^^^ d ∧ amoInt .xchg x d n = d ∧ amoInt .cas x d n = (if x = d then n else x) ∧
    amoInt .minI x d n = (if x.toInt ≤ d.toInt then x else d) ∧
    amoInt .maxI x d n = (if x.toInt ≤ d.toInt then d else x) ∧
    amoInt .minN x d n = (if x.toNat ≤ d.toNat then x else d) ∧
    amoInt .maxN x d n = (if x.toNat ≤ d.toNat then d else x) ∧
    amoInt .inc x d n = (if d.toNat ≤ x.toNat then 0 else x + 1) ∧
    amoInt .dec x d n = (if x = 0 ∨ d.toNat < x.toNat then d else x - 1)) ∧
  ∀ (s : State) op wd r d x, x.req.n = 4 * widthRegs wd →
    let old := leNat (s.readTier x.tier x.pa x.req.n)
    let new := amo op wd old (laneData r (widthRegs wd) d x.req.lane)
      (laneData r (widthRegs wd) (d + widthRegs wd) x.req.lane)
    (s.amoLanes op wd r d [x]).2 = [(x.req.lane, old)] ∧
    ∀ tier a, byteAt (s.amoLanes op wd r d [x]).1 tier a =
      if s.poisonAt x.tier x.pa then byteAt s tier a
      else afterCells (storeCells [x] fun _ => new) tier a (byteAt s tier a)

/-- R486, R29, R369: a global access with a misaligned lane raises MISALIGNED, one beyond the
address space PROTECTION, and a translation that fails the trap of its failure, with the lanes that meet it, the address
of the first and the access kind; shown of plain `ldg` and `stg`. -/
def Sys2Proof.Machine.GlobalAccessFaultsRule : Prop :=
  ∀ s sz sign d a b,
    let rs := globalReqs s.regs a b (bytesOf sz)
    let info := fun (code kind resp : Nat) (qs : List Req) => ({ code := code, info := maskInfo (reqMask qs) ++
      [BitVec.ofNat 32 (qs.headD ⟨0, 0, 0⟩).va, BitVec.ofNat 32 ((qs.headD ⟨0, 0, 0⟩).va / 2 ^ 32), 0xFFFFFFFF#32,
       BitVec.ofNat 32 kind, BitVec.ofNat 32 resp] } : TrapRec)
    let mis := rs.filter fun q => q.va % bytesOf sz ≠ 0
    let out := rs.filter fun q => 2 ^ 57 ≤ q.va
    (Clear s { ops := [.v d (regsOf sz) false, .v a 1 true, .s b 2 true], writes := regsOf sz } →
      (mis ≠ [] → Traps (.ldg sz sign .plain d a b) s (info 0x0B 0 0 mis)) ∧
      (mis = [] → out ≠ [] → Traps (.ldg sz sign .plain d a b) s (info 0x09 0 0 out)) ∧
      (rs ≠ [] → mis = [] → out = [] → s.wave.loads.length < 63 → ∀ s1 code qs resp,
        s.accept (.wave s.cur) s.wave.core s.launch.ctx false false rs = .fail s1 code qs resp →
        exec (.ldg sz sign .plain d a b) s = .next (s1.takeTrap (info code 0 resp qs)))) ∧
    (Clear s { ops := [.v d (regsOf sz) true, .v a 1 true, .s b 2 true] } →
      (mis ≠ [] → Traps (.stg sz .plain d a b) s (info 0x0B 1 0 mis)) ∧
      (mis = [] → out ≠ [] → Traps (.stg sz .plain d a b) s (info 0x09 1 0 out)) ∧
      (rs ≠ [] → mis = [] → out = [] → s.wave.spec = none → s.wave.stores.length < 31 → ∀ s1 code qs resp,
        s.accept (.wave s.cur) s.wave.core s.launch.ctx true false rs = .fail s1 code qs resp →
        exec (.stg sz .plain d a b) s = .next (s1.takeTrap (info code 1 resp qs))))

/-- R208 to R210: outside handlers and speculation a plain load that meets another party's write tag, and a plain store
that meets another party's tag, raise MM_CONFLICT with the kinds of both accesses, the other party's identity and
region; no memory changes. -/
def Sys2Proof.Machine.RaceTrapsRule : Prop :=
  ∀ s sz d a b s1 ps (c : Tag) qs, s.wave.spec = none → s.regs.priv = false →
    let rs := globalReqs s.regs a b (bytesOf sz)
    let raises := fun (i : Instr) (kind : Nat) => ∃ t r, exec i s = .next t ∧
      Entered s.regs (liveLanes s) (s.launchAt s.wave.launch).hs r t.regs ∧ r.code = 0x10 ∧
      r.info.drop 4 = [BitVec.ofNat 32 (kind + c.kind * 16), c.ident, c.region] ∧ SameMemory s t
    rs ≠ [] →
    (∀ sign, Clear s { ops := [.v d (regsOf sz) false, .v a 1 true, .s b 2 true], writes := regsOf sz } →
      firstStage rs 0 = none → s.wave.loads.length < 63 →
      s.accept (.wave s.cur) s.wave.core s.launch.ctx false false rs = .ok s1 ps → Room s ps →
      s1.clash (.wave s.cur) s.launch.ctx 0 ps = some (.conflict c, qs) → raises (.ldg sz sign .plain d a b) 0) ∧
    (Clear s { ops := [.v d (regsOf sz) true, .v a 1 true, .s b 2 true] } →
      firstStage rs 1 = none → s.wave.stores.length < 31 →
      s.accept (.wave s.cur) s.wave.core s.launch.ctx true false rs = .ok s1 ps → Room s ps →
      s1.clash (.wave s.cur) s.launch.ctx 1 ps = some (.conflict c, qs) → raises (.stg sz .plain d a b) 1)

/-- R208, R209: a reader clashes with another party's writer; any other access but an acquire clashes with another
party's writer or reader; a fourth reader of a granule finds no room, and a new one takes the lowest free of the three
slots; a party never clashes with itself. -/
def Sys2Proof.Machine.TagRulesRule : Prop :=
  ∀ (t : Tags) (p : Party) kind,
    (∀ w, t.writer = some w → w.party ≠ p → t.check p kind = some (.conflict w)) ∧
    ((∀ w, t.writer = some w → w.party = p) → kind = 3 → t.check p kind = none) ∧
    (t.writer = none → (∀ r ∈ t.live, r.party ≠ p) → kind = 0 →
      t.check p kind = if t.live.length < 3 then none else some (.capacity t.live)) ∧
    (t.writer = none → (∃ r ∈ t.live, r.party ≠ p) → kind = 1 → ∃ r ∈ t.live, r.party ≠ p ∧
      t.check p kind = some (.conflict r) ∧ ∀ q ∈ t.live, q.party ≠ p → r.ident.toNat ≤ q.ident.toNat) ∧
    ((∀ w, t.writer = some w → w.party = p) → (∀ r ∈ t.live, r.party = p) → t.check p kind = none) ∧
    ∀ (g : Tag) (n : Nat), t.writer = none → (∀ r ∈ t.live, r.party ≠ g.party) → g.kind = 0 →
      (∀ i < n, ∃ r, t.readers[i]? = some (some r)) → (t.readers[n]?).getD (none : Option Tag) = none →
      (t.record g).readers[n]? = some (some g) ∧ ∀ i, i ≠ n → (t.record g).readers[i]? = t.readers[i]?

/-- R243 to R245: `pld`, `pldq`, `pst` and `pstq` reach words of the lanes' private memory, interleaved by lane, in
pages of private memory, without tags; a word at or above s144 raises STACK_LIMIT with the lanes that name one, the first
one's index and the limit. That memory is read and written when the access is accepted is the model's choice (log 5). -/
def Obligations.PrivateMemory : Prop :=
  ∀ s d a b s1 ps n, n = 1 ∨ n = 2 →
    let rs := s.wave.privAll a b n
    let m := (lanesOf s.regs.em).length
    let part := fun (j : Nat) => (ps.drop (j * m)).take m
    let load := fun (i : Instr) => Clear s { ops := [.v d n false, .v a 1 true, .s b 1 true], writes := n } →
      rs ≠ [] → privStage s.regs a b n = none → s.wave.loads.length < 63 → Reached s 0 false true rs s1 ps →
      ∃ t, exec i s = .next t ∧ LoadPending s t d n (fun j l =>
          BitVec.ofNat 32 (laneVal ((part j).map fun x => (x.req.lane, s.loadAt x)) l)) ∧
        MemFrame s t s.regs.region ∧ SameMemory s t
    let store := fun (i : Instr) => s.wave.spec = none →
      Clear s { ops := [.v d n true, .v a 1 true, .s b 1 true] } →
      rs ≠ [] → privStage s.regs a b n = none → s.wave.stores.length < 31 → Reached s 1 true true rs s1 ps →
      ∃ t, exec i s = .next t ∧ MemFrame s t s.regs.region ∧ SameScratch s t ∧
        (∀ tier x, byteAt t tier x = afterCells ((List.range n).flatMap fun j =>
          storeCells (part j) fun l => (lane (s.regs.v (d + j)) l).toNat) tier x (byteAt s tier x)) ∧
        t.wave.stores = s.wave.stores ++ [{ reqs := requests ps }]
    (n = 1 → load (.pld d a b) ∧ store (.pst d a b)) ∧ (n = 2 → load (.pldq d a b) ∧ store (.pstq d a b)) ∧
    let index := fun l => (lane (s.regs.v a) l).toNat + (s.regs.s b).toNat
    let bad := (lanesOf s.regs.em).filter fun l => decide ((s.regs.ctxS 16).toNat ≤ index l + (n - 1))
    let trap : TrapRec := { code := 0x0C, info := maskInfo (mkMask fun l => bad.contains l) ++
      [BitVec.ofNat 32 (index (bad.headD 0)), s.regs.ctxS 16] }
    (bad ≠ [] → Clear s { ops := [.v d n false, .v a 1 true, .s b 1 true], writes := n } →
      (n = 1 → Traps (.pld d a b) s trap) ∧ (n = 2 → Traps (.pldq d a b) s trap)) ∧
    (bad ≠ [] → Clear s { ops := [.v d n true, .v a 1 true, .s b 1 true] } →
      (n = 1 → Traps (.pst d a b) s trap) ∧ (n = 2 → Traps (.pstq d a b) s trap))

/-! ### The scratchpad -/

/-- R214: which events by a wave a line admits, by state: a reader stalls at EMPTY and at FILLING of another; a writer
stalls at FULL, and conflicts at FILLING of another, as `lds.take` does at its own; OPEN admits all. -/
def Sys2Proof.Machine.LineAdmissionRule : Prop :=
  ∀ (l : Line) w,
    (l.st = .opened → ∀ act, l.verdict act w = .go) ∧
    (l.st = .empty → l.verdict .read w = .stall ∧ l.verdict .take w = .stall ∧
      ∀ act ∈ [LineAct.store, .sfin, .sclr, .sopen], l.verdict act w = .go) ∧
    (l.st = .full → l.verdict .store w = .stall ∧ l.verdict .sfin w = .stall ∧
      ∀ act ∈ [LineAct.read, .take, .sclr, .sopen], l.verdict act w = .go) ∧
    (l.st = .filling → l.owner = .wave w → l.verdict .take w = .conflict ∧
      ∀ act ∈ [LineAct.read, .store, .sfin, .sclr, .sopen], l.verdict act w = .go) ∧
    (l.st = .filling → l.owner ≠ .wave w → l.verdict .read w = .stall ∧ l.verdict .take w = .stall ∧
      ∀ act ∈ [LineAct.store, .sfin, .sclr, .sopen], l.verdict act w = .conflict)

/-- R214: the state of a line after an admitted event by a wave. -/
def Sys2Proof.Machine.LineTransitionsRule : Prop :=
  ∀ (l : Line) w,
    (l.st = .full → (l.after .take w).st = .empty) ∧ (∀ st, l.st = st → (l.after .read w).st = st) ∧
    (l.st = .empty → (l.after .store w).st = .filling ∧ (l.after .store w).owner = .wave w) ∧
    (l.st ≠ .empty → l.after .store w = l) ∧
    (l.st ≠ .full → (l.after .sfin w).st = .full) ∧
    (l.after .sclr w).st = .empty ∧ (l.after .sopen w).st = .opened

/-- Every lane's line admits the event for the acting wave, no older wait at the lines has its turn, and no tracked
access of another party stands at an OPEN line (R214, R215); outside speculation. -/
def Sys2Proof.Machine.LinesReady (s : State) (act : LineAct) (atomic : Bool) (rs : List Req) : Prop :=
  s.wave.spec = none ∧ (∀ q ∈ rs, (s.block.line (q.va / 128)).verdict act s.cur = .go) ∧
  s.olderWaits (linesOf rs) = false ∧
  (s.regs.priv = false → ∀ k, openKind act atomic = some k → s.openFoes k rs = [])

/-- The lines of an access after its event: each named line in its next state, every other line as it was. -/
def Sys2Proof.Machine.LinesAfter (s t : State) (act : LineAct) (rs : List Req) : Prop :=
  ∀ i, if i ∈ rs.map (fun q => q.va / 128) then
      ((t.blockAt s.wave.blk).line i).st = ((s.block.line i).after act s.cur).st ∧
      ((t.blockAt s.wave.blk).line i).owner = ((s.block.line i).after act s.cur).owner
    else (t.blockAt s.wave.blk).line i = s.block.line i

/-- The region after an access to lines: it ends unless every line is OPEN (R197). -/
def Sys2Proof.Machine.lineRegion (s : State) (rs : List Req) : Word :=
  if s.allOpen (linesOf rs) then s.regs.region else s.regs.region + 1

/-- R236 to R238: `lds` and `lds.take` make a load outstanding with the scratchpad's bytes and take their lines to the
next state; no byte and no register changes, and the region ends unless every line is OPEN. -/
def Sys2Proof.Machine.ScratchLoadsRule : Prop :=
  ∀ s sz d a b,
    let rs := padReqs s.regs a b (bytesOf sz)
    let loads := fun (i : Instr) (act : LineAct) =>
      Clear s { ops := [.v d (regsOf sz) false, .v a 1 true, .s b 1 true], writes := regsOf sz } → rs ≠ [] →
      padStage s.regs rs true 0 = none → s.wave.loads.length < 63 → LinesReady s act false rs →
      (s.allOpen (linesOf rs) = false → MaySync s) → ∃ t, exec i s = .next t ∧
        LoadPending s t d (regsOf sz) (fun j l =>
          loadWord sz false (laneVal (rs.map fun q => (q.lane, leNat (s.block.scratch.readList q.va q.n))) l) j) ∧
        LinesAfter s t act rs ∧ MemFrame s t (lineRegion s rs) ∧ SameMemory s t
    loads (.lds sz d a b) .read ∧ loads (.ldsTake sz d a b) .take

/-- R238, R239: `lds.try` never waits for a line: it delivers the bytes of the lines it can read and a status word for
each lane, changes no line's state and ends the region; `lds.line` delivers the status alone and changes nothing. -/
def Sys2Proof.Machine.ScratchPeeksRule : Prop :=
  ∀ s d a b, s.wave.spec = none → s.wave.loads.length < 63 →
    let status := fun (n : Nat) (valid : Bool) (l : Nat) =>
      match (padReqs s.regs a b n).find? fun q => q.lane = l with
      | none => 0
      | some q => (s.block.line (q.va / 128)).status s.cur (valid && (s.block.line (q.va / 128)).readable s.cur)
    (∀ sz, let rs := padReqs s.regs a b (bytesOf sz)
      let got := rs.filter fun q => (s.block.line (q.va / 128)).readable s.cur
      Clear s { ops := [.v d (2 * regsOf sz) false, .v a 1 true, .s b 1 true], writes := regsOf sz + 1 } → rs ≠ [] →
      padStage s.regs rs true 0 = none → (s.regs.priv = false → s.openFoes .r rs = []) → MaySync s →
      ∃ t, exec (.ldsTry sz d a b) s = .next t ∧
        LoadPending s t d (regsOf sz + 1) (fun j l =>
          if j = regsOf sz then status (bytesOf sz) true l
          else loadWord sz false (laneVal (got.map fun q => (q.lane, leNat (s.block.scratch.readList q.va q.n))) l) j) ∧
        (∀ i, ((t.blockAt s.wave.blk).line i).st = (s.block.line i).st) ∧
        MemFrame s t (s.regs.region + 1) ∧ SameMemory s t) ∧
    (Clear s { ops := [.v d 1 false, .v a 1 true, .s b 1 true], writes := 1 } → padReqs s.regs a b 1 ≠ [] →
      padStage s.regs (padReqs s.regs a b 1) false 0 = none →
      ∃ t, exec (.ldsLine d a b) s = .next t ∧ LoadPending s t d 1 (fun _ l => status 1 false l) ∧
        MemFrame s t s.regs.region ∧ SameMemory s t ∧ t.blocks = s.blocks)

/-- R240: outside speculation `sts` writes its lanes' bytes in ascending lane order, takes its lines to the next state
and is counted on ST; no other byte of any memory changes, and the region ends unless every line is OPEN. -/
def Sys2Proof.Machine.ScratchStoresRule : Prop :=
  ∀ s sz d a b,
    let rs := padReqs s.regs a b (bytesOf sz)
    let cells := (padCells rs (laneData s.regs (regsOf sz) d)).map fun c => (2, c.1, c.2)
    Clear s { ops := [.v d (regsOf sz) true, .v a 1 true, .s b 1 true] } → rs ≠ [] →
    padStage s.regs rs true 1 = none → s.wave.stores.length < 31 → LinesReady s .store false rs →
    (s.allOpen (linesOf rs) = false → MaySync s) →
    ∃ t, exec (.sts sz d a b) s = .next t ∧
      (∀ x, (t.blockAt s.wave.blk).scratch.read x = afterCells cells 2 x (s.block.scratch.read x)) ∧
      (∀ k, k ≠ s.wave.blk → t.blockAt k = s.blockAt k) ∧ t.hbm = s.hbm ∧ t.ddr = s.ddr ∧ t.hostMem = s.hostMem ∧
      LinesAfter s t .store rs ∧ MemFrame s t (lineRegion s rs) ∧
      t.wave.stores = s.wave.stores ++ [{ passes := [] }]

/-- R220, R227, R317, R238: on a speculated path `lds`, `lds.try` and `sts` reach OPEN lines, without stalling and without a
change of any memory or line: a load delivers the scratchpad's bytes with the wave's own held stores over them, and is noted
for its validation; `lds.try` also moves the region number on; a store is kept in the hold buffer with the registers before
it. At another line the wave waits with reason 19. (With the watchdog off, which would be deferred, R306.) -/
def Sys2Proof.Machine.SpeculatedScratchRule : Prop :=
  ∀ s sp sz d a b, s.wave.spec = some sp → s.regs.wdctl.toNat / 64 % 2 = 0 →
    let n := regsOf sz
    let rs := padReqs s.regs a b (bytesOf sz)
    let noted := sp.peeks ++ rs.map fun q => (q, leNat (s.block.scratch.readList q.va q.n))
    let value := fun (j l : Nat) => loadWord sz false (laneVal (rs.map fun q => (q.lane,
      leNat (withHeld s.wave true 0 q.va (s.block.scratch.readList q.va q.n)))) l) j
    let still := fun (t : State) => SameMemory s t ∧ ∀ k i, (t.blockAt k).line i = (s.blockAt k).line i
    rs ≠ [] → s.wave.loads.length < 63 →
    (Clear s { ops := [.v d n false, .v a 1 true, .s b 1 true], writes := n } → padStage s.regs rs true 0 = none →
      (s.allOpen (linesOf rs) = false → Waits (.lds sz d a b) s 19 sp.slot) ∧
      (s.allOpen (linesOf rs) = true → (s.regs.priv = false → s.openFoes .r rs = []) →
        ∃ t, exec (.lds sz d a b) s = .next t ∧ LoadPending s t d n value ∧ MemFrame s t s.regs.region ∧ still t ∧
          t.wave.spec = some { sp with instrs := sp.instrs + 1, writes := sp.writes + n, peeks := noted })) ∧
    (Clear s { ops := [.v d (2 * n) false, .v a 1 true, .s b 1 true], writes := n + 1 } →
      padStage s.regs rs true 0 = none →
      (s.allOpen (linesOf rs) = false → Waits (.ldsTry sz d a b) s 19 sp.slot) ∧
      (s.allOpen (linesOf rs) = true → (s.regs.priv = false → s.openFoes .r rs = []) →
        ∃ t, exec (.ldsTry sz d a b) s = .next t ∧
          LoadPending s t d (n + 1) (fun j l =>
            if j = n then (if bitOf s.regs.em l = true then 11 else 0) else value j l) ∧
          MemFrame s t (s.regs.region + 1) ∧ still t ∧
          t.wave.spec = some { sp with
            instrs := sp.instrs + 1, writes := sp.writes + (n + 1), peeks := noted, closed := sp.tracked.length })) ∧
    (Clear s { ops := [.v d n true, .v a 1 true, .s b 1 true] } → padStage s.regs rs true 1 = none → sp.held.length < 16 →
      (s.allOpen (linesOf rs) = false → Waits (.sts sz d a b) s 19 sp.slot) ∧
      (s.allOpen (linesOf rs) = true → ∃ t, exec (.sts sz d a b) s = .next t ∧ MemFrame s t s.regs.region ∧ still t ∧
        t.wave.stores = s.wave.stores ∧
        t.wave.spec = some { sp with
          instrs := sp.instrs + 1
          held := sp.held ++ [{
            before := s.regs, pad := true
            cells := (padCells rs (laneData s.regs n d)).map fun c => (0, c.1, c.2)
            places := rs.map fun q => { req := q, tier := 0, pa := q.va, w := false } }] }))

/-- A scratchpad atomic leaves what its lanes' operations in ascending lane order leave, delivers the old values, and
ends the region. -/
def Sys2Proof.Machine.PadAtomic (i : Nat → Nat → Nat → Instr) (op : AOp) (wd : AWidth) : Prop :=
  ∀ s d a b,
    let rs := padReqs s.regs a b (4 * widthRegs wd)
    let y := s.padAtomics op wd s.regs d rs
    Clear s { ops := [.v d (amoRegs op wd) true, .v a 1 true, .s b 1 true], spec := false } → rs ≠ [] →
    padStage s.regs rs true 2 = none → s.wave.loads.length < 63 → LinesReady s .store true rs →
    s.wave.remotePending = false → MaySync s →
    ∃ t, exec (i d a b) s = .next t ∧
      (∀ x, (t.blockAt s.wave.blk).scratch.read x = (y.1.blockAt s.wave.blk).scratch.read x) ∧
      LoadPending s t d (widthRegs wd) (fun j l => BitVec.ofNat 32 (laneVal y.2 l / 2 ^ (32 * j))) ∧
      LinesAfter s t .store rs ∧ MemFrame s t (s.regs.region + 1) ∧
      t.hbm = s.hbm ∧ t.ddr = s.ddr ∧ t.hostMem = s.hostMem

/-- R240, R241: the scratchpad atomics. -/
def Sys2Proof.Machine.ScratchAtomicsRule : Prop :=
  ∀ wd, PadAtomic (.satomAdd wd) .add wd ∧ PadAtomic (.satomMinI wd) .minI wd ∧ PadAtomic (.satomMinN wd) .minN wd ∧
    PadAtomic (.satomMaxI wd) .maxI wd ∧ PadAtomic (.satomMaxN wd) .maxN wd ∧ PadAtomic (.satomAnd wd) .and wd ∧
    PadAtomic (.satomOr wd) .or wd ∧ PadAtomic (.satomXchg wd) .xchg wd ∧ PadAtomic (.satomCas wd) .cas wd

/-- R242: `sfin`, `sclr` and `sopen` take their lanes' lines to FULL, EMPTY and OPEN, touch no byte, are counted on ST
and end the region. -/
def Sys2Proof.Machine.LineOperationsRule : Prop :=
  ∀ s a b,
    let rs := padReqs s.regs a b 1
    let does := fun (i : Instr) (act : LineAct) =>
      Clear s { ops := [.v a 1 true, .s b 1 true], spec := false } → rs ≠ [] → padStage s.regs rs false 8 = none →
      s.wave.stores.length < 31 → LinesReady s act false rs → (act = .sopen ∨ s.wave.remotePending = false) → MaySync s →
      ∃ t, exec i s = .next t ∧ LinesAfter s t act rs ∧ MemFrame s t (s.regs.region + 1) ∧ SameMemory s t ∧
        t.wave.stores = s.wave.stores ++ [{ passes := [] }] ∧ t.wave.loads = s.wave.loads
    does (.sfin a b) .sfin ∧ does (.sclr a b) .sclr ∧ does (.sopen a b) .sopen

/-- R236, R214: a scratchpad access with a misaligned lane raises MISALIGNED, one at or above s143 PROTECTION; outside
speculation one at a line filling under another raises FILL_CONFLICT, and one at a line that does not take it yet waits
at its instruction with its registers as they are, for a reader with reason 13, for a writer with reason 14; shown of `lds`
and `sts`. -/
def Sys2Proof.Machine.ScratchFaultsRule : Prop :=
  ∀ s sz d a b,
    let rs := padReqs s.regs a b (bytesOf sz)
    let mis := rs.filter fun q => q.va % bytesOf sz ≠ 0
    let out := rs.filter fun q => (s.regs.ctxS 15).toNat ≤ q.va
    let info := fun (code kind : Nat) (qs : List Req) => ({ code := code, info := maskInfo (reqMask qs) ++
      [BitVec.ofNat 32 (qs.headD ⟨0, 0, 0⟩).va, BitVec.ofNat 32 ((qs.headD ⟨0, 0, 0⟩).va / 2 ^ 32), 0xFFFFFFFF#32,
       BitVec.ofNat 32 kind, 0] } : TrapRec)
    let stalls := fun (i : Instr) (code : Nat) => ∃ t, exec i s = .next t ∧ t.wave.stall = code ∧ t.regs = s.regs ∧
      SameMemory s t ∧ t.blocks = s.blocks
    (Clear s { ops := [.v d (regsOf sz) false, .v a 1 true, .s b 1 true], writes := regsOf sz } →
      (mis ≠ [] → Traps (.lds sz d a b) s (info 0x0B 0 mis)) ∧
      (mis = [] → out ≠ [] → Traps (.lds sz d a b) s (info 0x09 0 out)) ∧
      (rs ≠ [] → mis = [] → out = [] → s.wave.spec = none → s.wave.loads.length < 63 →
        (∃ q ∈ rs, (s.block.line (q.va / 128)).verdict .read s.cur = .stall) → stalls (.lds sz d a b) 13)) ∧
    (Clear s { ops := [.v d (regsOf sz) true, .v a 1 true, .s b 1 true] } →
      (mis ≠ [] → Traps (.sts sz d a b) s (info 0x0B 1 mis)) ∧
      (mis = [] → out ≠ [] → Traps (.sts sz d a b) s (info 0x09 1 out)) ∧
      (rs ≠ [] → mis = [] → out = [] → s.wave.spec = none → s.wave.stores.length < 31 →
        let conf := rs.filter fun q => (s.block.line (q.va / 128)).verdict .store s.cur = .conflict
        (conf ≠ [] → ∃ r, Traps (.sts sz d a b) s r ∧ r.code = 0x12 ∧ r.info.take 2 = maskInfo (reqMask conf)) ∧
        (conf = [] → (∃ q ∈ rs, (s.block.line (q.va / 128)).verdict .store s.cur = .stall) →
          stalls (.sts sz d a b) 14)))

/-! ### Synchronisation -/

/-- R197, R198, R207: what ends the acting wave's region: its number is one higher and no tag of the wave is left. -/
def Sys2Proof.Machine.RegionEnds (s t : State) : Prop :=
  MemFrame s t (s.regs.region + 1) ∧
  ∀ e ∈ t.tags, e.2.writer.all (fun g => g.party ≠ .wave s.cur) = true ∧ ∀ g ∈ e.2.live, g.party ≠ .wave s.cur

/-- R247, R207: a fence ends the region and touches no memory: `fence.acq` once no load of the wave waits for a peer,
the others once its earlier accesses are performed at their scope; before that they wait. Homes at other ranks are told
to retire the region's tags first, and the wave waits for them (these end messages are the model's choice, log 33). That a
fence does not wait for local loads, which have their values already, is log 5; what a release waits for is log 31. -/
def Sys2Proof.Machine.FencesRule : Prop :=
  ∀ s sc, Clear s { spec := false } →
    let does := fun (i : Instr) (ready : Prop) =>
      (ready → MaySync s → ∃ t, exec i s = .next t ∧ RegionEnds s t ∧ SameMemory s t) ∧ (¬ ready → Waits i s 24 0) ∧
      (ready → s.wave.ending = [] → s.wave.homes ≠ [] → (∀ a ∈ s.answers, a.seq ≠ s.fresh) →
        ∃ t, exec i s = .next t ∧ t.wave.stall = 24 ∧ t.regs = s.regs ∧ t.tags = s.tags ∧ t.wave.homes = [] ∧
          t.wave.ending = s.wave.homes.map (fun r => (r, s.fresh)) ∧
          t.outbox = s.outbox ++ s.wave.homes.map (s.endMessage s.cur))
    does (.fenceRel sc) (s.wave.performedAt sc = true) ∧ does (.fenceSc sc) (s.wave.performedAt sc = true) ∧
    does (.fenceAcq sc) (∀ ld ∈ s.wave.loads, ld.passes = [])

/-- R248, R264: `wait` goes on when each counter is at or below its limit and waits otherwise, with reason 9; it changes
no register and does not end the region; a pending trap of poison or of a failed copy is taken instead. -/
def Sys2Proof.Machine.WaitCountersRule : Prop :=
  ∀ s ld st cp tl, Clear s { spec := false } →
    let low := s.wave.loads.length ≤ ld ∧ s.wave.stores.length ≤ st ∧ s.wave.copies.length ≤ cp ∧
      s.wave.tileOps.length ≤ tl
    (s.wave.deliverable PendTrap.late = none → low →
      Completes (.wait ld st cp tl) s 0 (nextPc s.regs.pc) (SameRegs s.regs)) ∧
    (s.wave.deliverable PendTrap.late = none → ¬ low → Waits (.wait ld st cp tl) s 9 0) ∧
    ∀ t, s.wave.deliverable PendTrap.late = some t → exec (.wait ld st cp tl) s =
      .next ((s.setWave { s.wave with pend := s.wave.pend.erase t }).takeTrap t.trap)

/-- R250, R251: arriving sets the wave's bit at the barrier, the first arrival fixing the count; the last expected
arrival flips the phase and clears the bits. `bar.wt` waits while the wave's bit is set, and `bar` arrives and then
waits with its wait owed; of the waves of the block that have waited at a barrier a lower index goes on first. -/
def Sys2Proof.Machine.BarriersRule : Prop :=
  ∀ s k,
    let br := s.barOf k
    let bar := fun (t : State) => tget (t.blockAt s.wave.blk).bars k {}
    let came := fun (n : Nat) => ({ br with
      arrived := br.arrived ++ [s.cur], expect := br.expect <|> some n } : Bar)
    (∀ b, let n := (s.regs.s b).toNat % 256
      Clear s { ops := [.s b 1 true], spec := false } → s.wave.performedAt .blk = true → MaySync s →
      s.hasArrived k = false →
      (s.barTurn k = false → ∃ t, exec (.barArr k b) s = .next t ∧ RegionEnds s t ∧ SameMemory s t ∧
        bar t = if (came n).complete (s.unfinished s.block) then (came n).flip else came n) ∧
      (br.owed.contains s.cur = false → (came n).complete (s.unfinished s.block) = false →
        ∃ t, exec (.bar k b) s = .next t ∧ t.regs.pc = s.regs.pc ∧ t.wave.stall = 16 ∧ SameMemory s t ∧
          bar t = { came n with owed := br.owed ++ [s.cur] })) ∧
    (∀ b, Clear s { ops := [.s b 1 true], spec := false } → s.hasArrived k = true →
      Waits (.barArr k b) s 16 k) ∧
    (∀ b, Clear s { ops := [.s b 1 true], spec := false } → br.owed.contains s.cur = true → s.hasArrived k = false →
      s.barTurn k = false → MaySync s → ∃ t, exec (.bar k b) s = .next t ∧ RegionEnds s t ∧ SameMemory s t ∧
        (bar t).owed.contains s.cur = false ∧ (bar t).arrived = br.arrived ∧ (bar t).phase = br.phase) ∧
    (Clear s { spec := false } →
      (s.hasArrived k = true ∨ s.barTurn k = true → Waits (.barWt k) s 16 k) ∧
      (s.hasArrived k = false → s.barTurn k = false → MaySync s → ∃ t, exec (.barWt k) s = .next t ∧ RegionEnds s t ∧ SameMemory s t))

/-- R252: `sig` adds pair B to the word at pair A, once, after its release; `sigwait` waits with reason 17 while the
word is below pair B, unsigned, and then ends the region without a write. That `sigwait` raises POISON at a poisoned word is
the model's reading of R429 (log 54). -/
def Sys2Proof.Machine.SignalsRule : Prop :=
  ∀ s sc a b s1 x,
    let q : Req := { lane := 0, va := (s.regs.s2 a).toNat, n := 8 }
    let word := leNat (s.readTier x.tier x.pa 8)
    Clear s { ops := [.s a 2 true, .s b 2 true], spec := false } → q.va % 8 = 0 → q.va < 2 ^ 57 →
    MaySync s →
    (s.poisonAt x.tier x.pa = false → s.wave.performedAt sc = true → s.wave.deliverable PendTrap.access = none → Reached s 2 true false [q] s1 [x] →
      ∃ t, exec (.sig sc a b) s = .next t ∧ RegionEnds s t ∧ SameScratch s t ∧
        ∀ tier y, byteAt t tier y = afterCells
          ((leBytes 8 (word + (s.regs.s2 b).toNat)).mapIdx fun i v => (x.tier, x.pa + i, v)) tier y
          (byteAt s tier y)) ∧
    (Reached s 3 false false [q] s1 [x] → s.poisonAt x.tier x.pa = true → s.regs.priv = false →
      Traps (.sigwait sc a b) s { code := 0x38, async := true, info := [0, 0, loWord (s.regs.s2 a), hiWord (s.regs.s2 a),
        0xFFFFFFFF#32, 3] }) ∧
    (Reached s 3 false false [q] s1 [x] → s.poisonAt x.tier x.pa = false →
      ((s.regs.s2 b).toNat ≤ word → ∃ t, exec (.sigwait sc a b) s = .next t ∧ MemFrame s t (s.regs.region + 1) ∧
        SameMemory s t) ∧
      (word < (s.regs.s2 b).toNat → ∃ t, exec (.sigwait sc a b) s = .next t ∧ t.wave.stall = 17 ∧ t.regs = s.regs ∧
        SameMemory s t))

/-- R253: `flushw` and `invl` on a range whose pages translate complete without changing memory or registers; `flushw`
is counted on ST, as one request (R13; log 55). (That every write is at its memory already is the model's choice of
log 10.) -/
def Obligations.CacheMaintenance : Prop :=
  ∀ s sc a b s1 ps,
    let rs := rangeReqs (s.regs.s2 a).toNat (s.regs.s b).toNat
    Clear s { ops := [.s a 2 true, .s b 1 true], spec := false } →
    (rs = [] → Completes (.flushw sc a b) s 0 (nextPc s.regs.pc) (SameRegs s.regs) ∧
      Completes (.invl sc a b) s 0 (nextPc s.regs.pc) (SameRegs s.regs)) ∧
    (rs ≠ [] → firstStage rs 0 = none → s.wave.stores.length < 31 →
      s.accept (.wave s.cur) s.wave.core s.launch.ctx false true rs = .ok s1 ps → s.coreRequests s.wave.core < 2048 →
      ∃ t, exec (.flushw sc a b) s = .next t ∧ MemFrame s t s.regs.region ∧ SameMemory s t ∧
        t.wave.stores = s.wave.stores ++ [{ reqs := 1 }]) ∧
    (rs ≠ [] → firstStage rs 0 = none →
      s.accept (.wave s.cur) s.wave.core s.launch.ctx false false rs = .ok s1 ps → s.coreRequests s.wave.core < 2048 →
      ∃ t, exec (.invl sc a b) s = .next t ∧ MemFrame s t s.regs.region ∧ SameMemory s t)

/-- R453, R458, R459: a synchronising operation appends its check entry in RECORD, 32 bytes in DDR-5 and no others; a
log without room for them ends the session with cause 2. In REPLAY one that is not the next logged entry of the wave
ends the session with cause 4 and raises REPLAY_DIVERGENCE, without its effect; shown of `fence.rel`. -/
def Obligations.CheckEntries : Prop :=
  ∀ s sc, Clear s { spec := false } → s.wave.performedAt sc = true → AloneHere s →
    let id := s.wave.ident.toNat
    let next := (s.rep.checks id).drop (tget s.rep.taken id 0)
    let n := s.regs.retired.toNat % 2 ^ 32
    let entry : LogEntry :=
      { cycle := s.cycle, gate := 0xFF, ctx := s.launch.ctx, body := .check id n s.regs.pc.toNat }
    let bytes : List Byte := leBytes 8 s.cycle ++ leBytes 1 0xFF ++ leBytes 1 0 ++ leBytes 2 12 ++ leBytes 4 s.launch.ctx ++
      leBytes 4 id ++ leBytes 4 n ++ leBytes 4 s.regs.pc.toNat ++ leBytes 4 0
    let place := s.rep.log.base + s.rep.used
    (s.rep.mode = 1 → s.rep.used + 32 ≤ s.rep.size → ∃ t, exec (.fenceRel sc) s = .next t ∧
      t.rep.log.entries = s.rep.log.entries ++ [entry] ∧ t.rep.log.bytes = s.rep.log.bytes ++ bytes ∧
      t.rep.used = s.rep.used + 32 ∧ t.ddr.readList place 32 = bytes ∧
      (∀ a, a < place ∨ place + 32 ≤ a → t.ddr.read a = s.ddr.read a) ∧ t.hbm = s.hbm ∧ t.hostMem = s.hostMem ∧
      SameScratch s t ∧ RegionEnds s t) ∧
    (s.rep.mode = 1 → s.rep.size < s.rep.used + 32 → ∃ t, exec (.fenceRel sc) s = .next t ∧
      t.rep.mode = 0 ∧ t.rep.cause = 2 ∧ t.rep.lost = true ∧ RegionEnds s t) ∧
    (s.rep.mode = 2 → Unlogged s → ∃ t, exec (.fenceRel sc) s = .next t ∧
      tget t.rep.taken id 0 = tget s.rep.taken id 0 + 1 ∧ RegionEnds s t) ∧
    (s.rep.mode = 2 → next.head? ≠ some (s.cycle, s.regs.retired.toNat % 2 ^ 32, s.regs.pc.toNat) →
      s.regs.priv = false → ∃ t r, exec (.fenceRel sc) s = .next t ∧ t.rep.mode = 0 ∧ t.rep.cause = 4 ∧
        Entered s.regs (liveLanes s) (s.launchAt s.wave.launch).hs r t.regs ∧ r.code = 0x3D ∧
        (next = [] → r.info.getD 7 0 = 3))

/-! ### Copies and other ranks -/

/-- A copy instruction with a free entry and a verdict. -/
def Sys2Proof.Machine.CopyIssue (i : Instr) (s : State) (a : Nat) (ops : List Opnd) (lanes : Bool) (e : CopyEntry) : Prop :=
  ∀ n, Clear s { ops := ops, spec := false } → s.wave.copies.length < 31 →
    s.block.entries.find? (fun n => !(s.entryAt (s.block.cores.headD 0) n).busy) = some n →
    let core := s.block.cores.headD 0
    let seq := s.block.copyCount % 2 ^ 24
    let handle := BitVec.ofNat 32 (seq * 256 + n)
    let counted := fun (t : State) => t.regs.s (a + 7) = handle ∧ t.regs.pc = nextPc s.regs.pc ∧
      ScalarFrame s.regs t.regs (a + 7) 1 ∧ (t.blockAt s.wave.blk).copyCount = s.block.copyCount + 1 ∧ SameMemory s t
    (s.copyVerdict e lanes = none → ∃ t, exec i s = .next t ∧ counted t ∧
      t.wave.copies = s.wave.copies ++ [(core, n, seq)] ∧
      (t.entryAt core n).busy = true ∧ (t.entryAt core n).kind = e.kind ∧ (t.entryAt core n).words = e.words ∧
      (t.entryAt core n).ctl = e.ctl ∧ (t.entryAt core n).rows = e.rows ∧ (t.entryAt core n).seq = seq ∧
      (t.entryAt core n).blk = s.wave.blk ∧ (t.entryAt core n).wave = s.cur) ∧
    (s.copyVerdict e lanes = some 0 → ∃ t, exec i s = .next t ∧ counted t ∧
      (t.entryAt core n).busy = false ∧ (t.entryAt core n).state = 2) ∧
    (∀ err, err ≠ 0 → err ≠ 7 → s.copyVerdict e lanes = some err → s.wave.alive = true → s.wave.final = false →
      ∃ t, exec i s = .next t ∧ counted t ∧ (t.entryAt core n).busy = false ∧ (t.entryAt core n).state = 3 ∧
        (t.entryAt core n).err = err ∧ ∃ p ∈ t.wave.pend, p.trap.code = 0x30 ∧ p.handle = seq * 256 + n)

/-- R255, R257, R259 to R263: a copy instruction takes the lowest free entry of its block's core, delivers its handle
in the eighth descriptor register and is counted on CP; an invalid descriptor ends at once with COPY_ERROR pending, an
empty copy completes at once; nothing is copied yet and no other scalar changes. -/
def Sys2Proof.Machine.CopyInstructionsRule : Prop :=
  ∀ s a,
    CopyIssue (.dcp a) s a [.s a 8 true] false { kind := .dcp, words := s.regs.descriptor a } ∧
    CopyIssue (.dcp2 a) s a [.s a 8 true] false { kind := .dcp2, words := s.regs.descriptor a } ∧
    CopyIssue (.dcpr a) s a [.s a 8 true] false { kind := .dcpr, words := s.regs.descriptor a } ∧
    CopyIssue (.dcpx a) s a [.s a 8 true] false
      { kind := .dcpx, words := s.regs.descriptor a, ctl := s.regs.s (a + 6) } ∧
    (∀ d b, (s.regs.gatherCtl d).2 = 0 →
      CopyIssue (.dcpg d a b) s a [.v d 1 true, .s a 8 true, .v b 1 true] (!(lanesOf s.regs.em).isEmpty)
        { kind := .dcpg, words := s.regs.descriptor a, ctl := (s.regs.gatherCtl d).1
          rows := (lanesOf s.regs.em).map fun l => (lane (s.regs.v b) l).toNat }) ∧
    (∀ i ∈ [Instr.dcp a, .dcp2 a, .dcpr a, .dcpx a], Clear s { ops := [.s a 8 true], spec := false } →
      (s.block.entries = [] → Traps i s { code := 0x09, info := [0, 0, 0, 0, 0xFFFFFFFF#32] }) ∧
      (s.block.entries ≠ [] → 31 ≤ s.wave.copies.length → Waits i s 8 0) ∧
      (s.wave.copies.length < 31 → s.block.entries ≠ [] →
        (∀ n ∈ s.block.entries, (s.entryAt (s.block.cores.headD 0) n).busy = true) → Waits i s 21 0)) ∧
    ∀ d, Clear s { ops := [.s d 1 false, .s a 1 true], spec := false } → s.wave.pend = [] →
      Completes (.dstat d a) s 0 (nextPc s.regs.pc) (GivesS s.regs d (s.copyStatus (s.regs.s a).toNat))

/-- The state in which the engine of a core has chosen its entry `n` to serve (R256). -/
def Sys2Proof.Machine.serving (s : State) (core n : Nat) : State :=
  (s.updCore core fun c => { c with copyPtr := n + 1 }).updEntry core n fun e => { e with state := 1 }

/-- The engine of a core serves entry `n` next, which waits for no peer. -/
def Sys2Proof.Machine.Serves (s : State) (core n : Nat) : Prop :=
  (s.coreAt core).nextEntry = some n ∧ (s.entryAt core n).waiting = false

/-- Where row `r` of a copy comes from (R261, R262). -/
def Sys2Proof.Machine.rowFrom (e : CopyEntry) (r : Nat) : Nat :=
  e.src + match e.kind with
    | .dcp2 => r * e.word 5
    | .dcpg => e.rows.getD r 0
    | _ => 0

/-- Where row `r` of a copy goes (R261, R262). -/
def Sys2Proof.Machine.rowTo (e : CopyEntry) (r : Nat) : Nat :=
  e.dst + match e.kind with
    | .dcp2 => r * e.word 6
    | .dcpg => r * e.word 5
    | _ => 0

/-- No stall at the lines began before that of a copy, which now reaches them (R214). -/
def Sys2Proof.Machine.FirstAt (s : State) (core n : Nat) (lns : List Nat) : Prop :=
  let e := s.entryAt core n
  s.lineTurn e.blk (if e.accept.isEmpty then s.cycle else e.since) lns = false

/-- A block after a transfer has read its line `i` (R214, R215): an OPEN line records an external reader. -/
def Sys2Proof.Machine.lineRead (word i : Nat) (b : Block) : Block :=
  if (b.line i).st = .opened then
    b.setLine i { b.line i with orec := { (b.line i).orec.addReader none with ext := word } }
  else b

/-- A copy reads `len` bytes at an address of its source space: `bs`, with the state `s1` after it. In the global space
the granules are translated, meet no write tag of another party and no poison, and are tagged; in the scratchpad every line
is FULL, or OPEN with no writer recorded, and no word is poisoned (R212, R214, R215, R429). -/
def Sys2Proof.Machine.CopySource (s : State) (core n a len : Nat) (s1 : State) (bs : List Byte) : Prop :=
  let e := s.entryAt core n
  let p := s.copyActor core n
  let b := s.blockAt e.blk
  let lns := (linePieces a len).map fun x => x.1 / 128
  if e.sspace = 1 then
    FirstAt s core n lns ∧
    (∀ i ∈ lns, (b.line i).st = .full ∨ ((b.line i).st = .opened ∧ (b.line i).orec.writer = .none)) ∧
    (∀ w ∈ b.spois, 4 * w + 4 ≤ a ∨ a + len ≤ 4 * w) ∧ bs = b.scratch.readList a len ∧
    s1 = lns.foldl (fun s i => s.updBlock e.blk (lineRead e.ident.toNat i))
      (s.updEntry core n fun e => { e with accept := [] })
  else ∃ s0 ps, s.engineCheck p 5 false (granReqs a len) = .ok s0 ps ∧
    (∀ x ∈ ps, s0.poisonAt x.tier x.pa = false) ∧ s1 = s0.engineTouch p 5 ps ∧ bs = s.placeBytes ps

/-- Several ranges read one after another. -/
def Sys2Proof.Machine.CopySources (s : State) (core n : Nat) : List (Nat × Nat) → State → List Byte → Prop
  | [], s1, bs => s1 = s ∧ bs = []
  | (a, len) :: rest, s1, bs => ∃ s0 b c, CopySource s core n a len s0 b ∧ CopySources s0 core n rest s1 c ∧ bs = b ++ c

/-- A line before and after an arrival of bytes of the transfer `x` at it (R213, R214, R216). -/
def Sys2Proof.Machine.LineArrival (l l' : Line) (x : Xfer) (a len : Nat) : Prop :=
  (l.st = .opened → l' = { l with orec := { l.orec with writer := .external, ext := x.word } }) ∧
  (l.st ≠ .opened → ∃ m : BitVec 128,
    (∀ i < 128, m.getLsbD i = ((decide (l.st = .filling) && l.mask.getLsbD i) ||
      (decide (a % 128 ≤ i) && decide (i < a % 128 + len)))) ∧
    (m = BitVec.allOnes 128 → l'.st = .full ∧ l'.owner = .none) ∧
    (m ≠ BitVec.allOnes 128 → l'.st = .filling ∧ l'.mask = m ∧ l'.owner = if l.st = .empty then .xfer x else l.owner))

/-- The bytes `bs` are in memory at the places that the copy's granules have, and no other byte of any memory and no
scratchpad byte has changed. -/
def Sys2Proof.Machine.GlobalWritten (s t : State) (qs : List Place) (bs : List Byte) : Prop :=
  (∀ tier x, byteAt t tier x = afterCells (placeCells qs bs) tier x (byteAt s tier x)) ∧ SameScratch s t

/-- The bytes `bs` are in a block's scratchpad from `a` up, and no other byte of any scratchpad and of any memory has
changed; every line that they reach has taken them. -/
def Sys2Proof.Machine.PadWritten (s t : State) (bk : Nat) (x : Xfer) (a : Nat) (bs : List Byte) : Prop :=
  (∀ c, (t.blockAt bk).scratch.read c =
    if a ≤ c ∧ c < a + bs.length then bs.getD (c - a) 0 else (s.blockAt bk).scratch.read c) ∧
  (∀ b, b ≠ bk → t.blockAt b = s.blockAt b) ∧ SameMemory s t ∧
  ∀ p ∈ linePieces a bs.length,
    LineArrival ((s.blockAt bk).line (p.1 / 128)) ((t.blockAt bk).line (p.1 / 128)) x p.1 p.2

/-- The transfer by which a copy fills lines (R213, R375). -/
def Sys2Proof.Machine.copyXfer (s : State) (core n : Nat) : Xfer :=
  let e := s.entryAt core n
  { issuer := (s.waveAt e.wave).ident.toNat, kind := 0, word := e.ident.toNat, id := e.id }

/-- A copy of which the core's engine serves one piece (R256, R487): what `f` makes of the bytes read is at the
destination, and nothing else has changed; the engine goes on after a piece of less than 128 bytes, and a copy whose last
byte is written is complete. A destination line that is FULL holds the piece; one FILLING under another owner fails the
copy (R214, R217). -/
def Sys2Proof.Machine.PieceMoved (s : State) (core n : Nat) (reads : List (Nat × Nat)) (a total : Nat)
    (f : List Byte → Option (List Byte × Nat)) : Prop :=
  ∀ s1 bs out flags,
    let e := s.entryAt core n
    let x := copyXfer s core n
    let s2 := s1.updEntry core n fun e => { e with held := some out, flags := e.flags ||| flags }
    let l := (s2.blockAt e.blk).line (a / 128)
    let after := fun (wrote : State → Prop) => ∃ t, wrote t ∧ (t.entryAt core n).done = e.done + out.length ∧
      (t.entryAt core n).flags = e.flags ||| flags ∧ (t.entryAt core n).held = none ∧
      (128 ≤ out.length → exec (.copyService core) s = .next t) ∧
      (out.length < 128 → exec (.copyService core) s = t.serveMany core n out.length 129 ∧
        (e.done + out.length = total → ∃ u, exec (.copyService core) s = .next u ∧ wrote u ∧
          (u.entryAt core n).busy = false ∧ (u.entryAt core n).state = 2 ∧
          (u.entryAt core n).flags = e.flags ||| flags))
    CopySources (serving s core n) core n reads s1 bs → f bs = some (out, flags) → out ≠ [] →
    a % 128 + out.length ≤ 128 → s.copyRemote core n = false →
    (e.dspace ≠ 1 → ∀ s3 qs, s2.engineCheck (s.copyActor core n) 6 true (granReqs a out.length) = .ok s3 qs →
      after fun t => GlobalWritten s t qs out) ∧
    (e.dspace = 1 → FirstAt s2 core n [a / 128] →
      (l.st = .empty ∨ l.st = .opened ∨ l.st = .filling ∧ l.fillingBy (.xfer x) = true →
        after fun t => PadWritten s1 t e.blk x a out) ∧
      (l.st = .full → ∃ t, exec (.copyService core) s = .next t ∧ SameMemory s t ∧ SameScratch s t ∧
        (t.entryAt core n).busy = true ∧ (t.entryAt core n).held = some out ∧ (t.entryAt core n).done = e.done ∧
        (t.entryAt core n).accept = [(a / 128, 8)]) ∧
      (l.st = .filling ∧ l.fillingBy (.xfer x) = false → ∃ t, exec (.copyService core) s = .next t ∧
        SameMemory s t ∧ SameScratch s t ∧ (t.entryAt core n).busy = false ∧ (t.entryAt core n).state = 3 ∧
        (t.entryAt core n).err = 1))

/-- R256, R261, R262, R487: the copy engine serves the entry at its turn, a piece of at most 128 bytes of a row at a time:
`dcp`, each row of `dcp2` and each gathered row of a plain `dcpg` move the bytes of their source to their destination. A
piece that is held comes before anything else is read; a part that goes to another rank is sent, and waited for; a copy
that has written at a peer is complete once the peer has answered that its tags are gone (R212; log 32). -/
def Sys2Proof.Machine.CopyServiceRule : Prop :=
  (∀ s core n,
    let e := s.entryAt core n
    let r := e.done / e.word 4
    let j := e.done % e.word 4
    let len := min 128 (e.word 4 - j)
    Serves s core n → e.held = none → (e.kind = .dcp ∨ e.kind = .dcp2 ∨ e.kind = .dcpg ∧ e.op = 7) →
    0 < e.word 4 → e.done < e.nrows * e.word 4 →
    PieceMoved s core n [(rowFrom e r + j, len)] (rowTo e r + j) (e.nrows * e.word 4) (fun bs => some (bs, 0)) ∧
    (e.sspace ≠ 1 → ∀ s1 err other, err ≠ 0 → s.copyRemote core n = false →
      (serving s core n).engineCheck (s.copyActor core n) 5 false (granReqs (rowFrom e r + j) len) = .fail s1 err other →
      ∃ t, exec (.copyService core) s = .next t ∧ SameMemory s t ∧ SameScratch s t ∧
        (t.entryAt core n).busy = false ∧ (t.entryAt core n).state = 3 ∧ (t.entryAt core n).err = err)) ∧
  (∀ s core n out,
    let e := s.entryAt core n
    let a := (e.rowAt (e.done / e.rowDst)).2 + e.done % e.rowDst
    let part := out.take (128 - a % 128)
    let p := s.copyActor core n
    Serves s core n → e.held = some out → out ≠ [] → e.crypts = false → e.kind ≠ .dcpr → s.copyRemote core n = true →
    (s.reaches p.ctx e.peer = true → ∃ t, exec (.copyService core) s = .next t ∧ SameMemory s t ∧ SameScratch s t ∧
      (t.entryAt core n).waiting = true ∧ (t.entryAt core n).done = e.done + part.length ∧
      (t.entryAt core n).held = (if out.length ≤ 128 - a % 128 then none else some (out.drop part.length)) ∧
      t.outbox = s.outbox ++ [.remote e.peer
        { stage := .go, ctx := p.ctx, kind := .write, ident := e.ident.toNat, seq := e.id
          lanes := [{ lane := 0, addr := a, data := 0, swap := 0, op := 0, wide := false, ret := false }]
          bytes := part.map BitVec.toNat }]) ∧
    (s.reaches p.ctx e.peer = false → ∃ t, exec (.copyService core) s = .next t ∧ SameMemory s t ∧ SameScratch s t ∧
      (t.entryAt core n).busy = false ∧ (t.entryAt core n).state = 3 ∧ (t.entryAt core n).err = 14)) ∧
  ∀ s core n,
    let e := s.entryAt core n
    let p := s.copyActor core n
    let quiet := fun (t : State) => exec (.copyService core) s = .next t ∧ SameMemory s t ∧ SameScratch s t
    (s.coreAt core).nextEntry = some n → e.crypts = false → e.kind ≠ .dcpr → s.copyRemote core n = true →
    (e.waiting = false → e.held = none → e.nrows * e.rowDst ≤ e.done → e.done ≠ 0 → s.reaches p.ctx e.peer = true →
      ∃ t, quiet t ∧ (t.entryAt core n).waiting = true ∧ (t.entryAt core n).busy = true ∧
        (t.entryAt core n).closing = some (0, 0) ∧ ∃ r, t.outbox = s.outbox ++ [.remote e.peer r] ∧ r.stage = .ended ∧
        r.ident = e.ident.toNat ∧ r.ctx = p.ctx) ∧
    ∀ x rest other, e.waiting = true → e.closing = some (0, other) →
      takeAnswer e.peer e.ident.toNat e.id s.answers = some (x, rest) →
      ∃ t, quiet t ∧ t.answers = rest ∧ (t.entryAt core n).busy = false ∧ (t.entryAt core n).state = 2

/-- What a conversion of `cnt` elements makes of the bytes read (R84, R265): each element converted under the control
word's mode, packed from the lowest, with the flags of all. -/
def Sys2Proof.Machine.converted (e : CopyEntry) (cnt : Nat) (bs : List Byte) : List Byte × Nat :=
  let db := e.bits.2
  let y := fun m => convertElem e.pair e.rm e.sat
    (fromContainer (cvtPair e.pair).2 (leNat bs / 2 ^ (e.bits.1 * m) % 2 ^ e.bits.1))
  (leBytes ((cnt * db + 7) / 8) (((List.range cnt).map fun m =>
      toContainer (cvtPair e.pair).1 (y m).bits * 2 ^ (db * m)).sum),
    ((List.range cnt).foldl (fun x m => x ||| (y m).flags) 0) &&& 0x3F00)

/-- What an expansion of `cnt` groups makes of the values and metadata read (R266): four elements for each group before
one whose metadata is wrong. -/
def Sys2Proof.Machine.expanded (ew cnt : Nat) (bs : List Byte) : List Byte :=
  let md := fun m => (bs.getD (2 * ew * cnt + m) 0).toNat
  let good := fun m => decide (md m < 16) && decide (md m % 4 < md m / 4)
  ((List.range cnt).takeWhile good).flatMap fun m => (List.range 4).flatMap fun i =>
    if i = md m % 4 then (bs.drop (2 * ew * m)).take ew
    else if i = md m / 4 then (bs.drop (2 * ew * m + ew)).take ew
    else List.replicate ew 0

/-- R262, R265, R266, R487: a converting `dcpx` or `dcpg` writes each element converted, with its flags in the status; an
expanding `dcpx` writes each group's four elements into the scratchpad, up to a group whose metadata is wrong, at which it
fails with SPARSE_INDEX; a misaligned element fails the copy with err 6. -/
def Sys2Proof.Machine.CopyConversionsRule : Prop :=
  ∀ s core n,
    let e := s.entryAt core n
    let ends := fun (s1 : State) (err : Nat) => ∃ t, exec (.copyService core) s = .next t ∧ SameMemory s t ∧
      (∀ b a, (t.blockAt b).scratch.read a = (s1.blockAt b).scratch.read a) ∧
      (t.entryAt core n).busy = false ∧ (t.entryAt core n).state = 3 ∧ (t.entryAt core n).err = err
    Serves s core n → e.held = none → 0 < e.word 4 →
    (e.kind = .dcpx ∨ e.kind = .dcpg → e.op = 0 →
      let sb := e.bits.1
      let db := e.bits.2
      let size := (e.word 4 * db + 7) / 8
      let r := e.done / size
      let i := 8 * (e.done % size) / db
      let cnt := min (1024 / db) (e.word 4 - i)
      let bad := (32 ≤ sb ∧ rowFrom e r % (sb / 8) ≠ 0) ∨ (32 ≤ db ∧ rowTo e r % (db / 8) ≠ 0)
      e.done < e.nrows * size →
      (¬bad → PieceMoved s core n [(rowFrom e r + i * sb / 8, (cnt * sb + 7) / 8)] (rowTo e r + e.done % size)
        (e.nrows * size) (fun bs => some (converted e cnt bs))) ∧
      (bad → s.copyRemote core n = false → ends s 6)) ∧
    (e.kind = .dcpx → e.op = 1 → e.dspace = 1 → 4 * e.ew * e.word 4 > e.done →
      let g := e.done / (4 * e.ew)
      let cnt := min 128 (4 * e.ew * e.word 4 - e.done) / (4 * e.ew)
      let reads := [(e.src + 2 * g * e.ew, 2 * cnt * e.ew), (e.src + 2 * e.word 4 * e.ew + g, cnt)]
      PieceMoved s core n reads (e.dst + e.done) (4 * e.ew * e.word 4)
        (fun bs => if bs.length = (2 * e.ew + 1) * cnt then some (expanded e.ew cnt bs, 0) else none) ∧
      ∀ s1 bs, CopySources (serving s core n) core n reads s1 bs → bs.length = (2 * e.ew + 1) * cnt →
        expanded e.ew cnt bs = [] → ends s 8)

/-- The destination of a decrypting copy outside the scratchpad is translated, and its context's alone (R267, log 56); `s1`
is the state after it. -/
def Sys2Proof.Machine.OwnedDst (s : State) (core n : Nat) (s1 : State) : Prop :=
  let e := s.entryAt core n
  let p := s.copyActor core n
  if e.op = 2 ∧ e.dspace ≠ 1 then
    ∃ ps, s.accept p.party p.core p.ctx true false (granReqs e.dst (e.word 4)) = .ok s1 ps ∧
      ∀ x ∈ ps, s1.ownedAlone p.ctx x.tier x.pa = true
  else s1 = s

/-- R267, R415: a decrypting or encrypting copy reads its whole source first, and then writes all of its result at once: the
plaintext whose tag matches, after which the receive counter goes on, or the ciphertext and its tag; a tag that does not
match fails it with DECRYPT_TAG and nothing written. (The turn among the copies of a slot is the model's, log 56.) -/
def Sys2Proof.Machine.CopyCryptoRule : Prop :=
  ∀ s core n k,
    let e := s.entryAt core n
    let s0 := serving s core n
    let p := s.copyActor core n
    let text := e.buf.map BitVec.toNat
    let x := copyXfer s core n
    let size := e.word 4 + (if e.op = 2 then 16 else 0)
    let counted := fun (t : State) => (t.entryAt core n).busy = false ∧ (t.entryAt core n).state = 2 ∧
      (tfind? (t.ctxAt p.ctx).keys e.slot).map KeySlot.recv = some (if e.op = 2 then k.recv + 1 else k.recv)
    Serves s core n → e.kind = .dcpx → e.op = 2 ∨ e.op = 3 → e.held = none → s.copyRemote core n = false →
    tfind? (s.ctxAt p.ctx).keys e.slot = some k →
    (e.op = 2 → s0.decryptTurn core n = true ∧ k.recv ≠ 2 ^ 64 - 1) →
    ∀ s1, OwnedDst s0 core n s1 →
    (e.buf.length < size → ∀ s2 bs,
      let a := e.src + e.buf.length
      let len := min (128 - a % 128) (size - e.buf.length)
      let t := s2.updEntry core n fun e => { e with buf := e.buf ++ bs }
      CopySource s1 core n a len s2 bs → SameMemory s t ∧ SameScratch s t ∧
        (128 ≤ len → exec (.copyService core) s = .next t) ∧
        (len < 128 → exec (.copyService core) s = t.serveMany core n len 129)) ∧
    (e.buf.length = size →
      (e.op = 2 → gcmOpen k.key (gcmIv k.rsalt k.recv) (text.take (e.word 4)) (text.drop (e.word 4)) = none →
        ∃ t, exec (.copyService core) s = .next t ∧ SameMemory s t ∧ SameScratch s t ∧
          (t.entryAt core n).busy = false ∧ (t.entryAt core n).state = 3 ∧ (t.entryAt core n).err = 7) ∧
      ∀ out,
        (e.op = 2 → (gcmOpen k.key (gcmIv k.rsalt k.recv) (text.take (e.word 4)) (text.drop (e.word 4))).map toBytes =
          some out) →
        (e.op = 3 → out = toBytes ((gcmSeal k.key (gcmIv k.ssalt e.counter) text).1 ++
          (gcmSeal k.key (gcmIv k.ssalt e.counter) text).2)) →
        ∀ s2, OwnedDst (s1.updEntry core n fun e => { e with held := some out }) core n s2 →
        (e.dspace ≠ 1 → ∀ s3 qs, s2.engineCheck p 6 true (granReqs e.dst out.length) = .ok s3 qs →
          ∃ t, exec (.copyService core) s = .next t ∧ GlobalWritten s t qs out ∧ counted t) ∧
        (e.dspace = 1 →
          let lns := (linePieces e.dst out.length).map fun x => x.1 / 128
          FirstAt s2 core n lns →
          (∀ i ∈ lns, let l := (s.blockAt e.blk).line i
            l.st = .empty ∨ l.st = .opened ∨ l.st = .filling ∧ l.fillingBy (.xfer x) = true) →
          ∃ t, exec (.copyService core) s = .next t ∧ PadWritten s t e.blk x e.dst out ∧ counted t))

/-- R268, R273: a `dcpr` reads its whole source first, and then makes one contribution of its elements, to a controller
here or by a message to its peer; a misaligned source or destination fails it with err 6. -/
def Sys2Proof.Machine.CopyReductionsRule : Prop :=
  ∀ s core n,
    let e := s.entryAt core n
    let s0 := serving s core n
    let ln := s.launchAt (s.blockAt e.blk).launch
    let w := if e.field / 2 ^ 16 = 1 then 8 else 4
    let c : Contribution :=
      { ctx := ln.ctx, region := e.field % 2 ^ 12, op := e.field / 2 ^ 16, mode := e.field / 2 ^ 12 % 16
        word5 := e.word 5, total := e.word 6, dst := e.dst
        elems := (List.range (e.word 4)).map fun i => leNat ((e.buf.drop (i * w)).take w)
        rank := s.rankOf ln.ctx, index := !ln.arrival, core := core, entry := n, ident := e.ident.toNat, seq := e.id }
    Serves s core n → e.kind = .dcpr →
    (e.src % w ≠ 0 ∨ e.dst % w ≠ 0 → ∃ t, exec (.copyService core) s = .next t ∧ SameMemory s t ∧ SameScratch s t ∧
      (t.entryAt core n).busy = false ∧ (t.entryAt core n).state = 3 ∧ (t.entryAt core n).err = 6) ∧
    (e.src % w = 0 → e.dst % w = 0 →
      (e.buf.length < e.word 4 * w → ∀ s1 bs,
        let a := e.src + e.buf.length
        let len := min (128 - a % 128) (e.word 4 * w - e.buf.length)
        let t := s1.updEntry core n fun e => { e with buf := e.buf ++ bs }
        CopySource s0 core n a len s1 bs → SameMemory s t ∧ SameScratch s t ∧
          (128 ≤ len → exec (.copyService core) s = .next t) ∧
          (len < 128 → exec (.copyService core) s = t.serveMany core n len 129)) ∧
      (e.buf.length = e.word 4 * w →
        (s.copyRemote core n = false → c ∉ (tget (s.ctxAt ln.ctx).regions c.region {}).waiting →
          exec (.copyService core) s = exec (.reduceContribution c) s0) ∧
        (s.copyRemote core n = true → s.reaches ln.ctx e.peer = true → n < 64 →
          ∃ t, exec (.copyService core) s = .next t ∧ SameMemory s t ∧ SameScratch s t ∧
            (t.entryAt core n).waiting = true ∧ t.outbox = s.outbox ++ [.contribute e.peer { c with entry := 64 }])))

/-- The checks of every peer of a remote memory access have come back without a fault, and the local lanes reach their
places (R278). -/
def Sys2Proof.Machine.PeersAgree (s : State) (kind : Nat) (write : Bool) (xs : List RLane) (s1 : State) (ps : List Place)
    (rest : List Answer) : Prop :=
  let others := s.otherRanks xs
  (others = [] ∨ s.wave.ask.map Prod.snd = some others) ∧
  (∃ as, takeAnswers s.wave.ident.toNat ((s.wave.ask.map Prod.fst).getD 0) others s.answers = some (as, rest) ∧
    ∀ a ∈ as, a.code = 0) ∧
  Reached s kind write false ((lanesAt xs s.ownRank).map RLane.req) s1 ps

/-- R276 to R278: once every peer agrees, `rld` makes one load outstanding, `rst` writes the local lanes' words and is
counted on ST, with a message to each other rank that can be reached; the pc advances and no register changes. Before,
the checks are asked for, once, under a new number, and the wave waits with reason 27. (That an access is performed when it
is accepted is log 5, that peers are asked first and told then is log 33.) -/
def Sys2Proof.Machine.RemoteAccessesRule : Prop :=
  ∀ s d a b s1 ps rest,
    let xs := s.regs.plainLanes a b
    let others := s.otherRanks xs
    let sent := fun (s0 : State) (rk : RemoteKind) (stage : ReqStage) (id : Nat) => s0.outbox ++ others.map fun p =>
      Outgoing.remote p (s.request stage rk id d (lanesAt xs p))
    xs ≠ [] → s.cutLanes xs = [] →
    (Clear s { ops := [.v d 1 false, .v a 2 true, .v b 1 true], spec := false } → s.wave.loads.length < 63 →
      remoteFirst xs (s.regs.ctxS 10).toNat 0 true = none →
      (PeersAgree s 0 false xs s1 ps rest → ∃ t ld id, exec (.rld d a b) s = .next t ∧
        t.wave.loads = s.wave.loads ++ [ld] ∧ ld.mask = s.regs.em ∧
        ld.dests = [(s.regs.vkey d, mkLanes fun l =>
          BitVec.ofNat 32 (laneVal (ps.map fun x => (x.req.lane, s.loadAt x)) l))] ∧
        ld.passes.map (fun p => (p.rank, p.id)) = others.map (fun p => (p, id)) ∧
        t.outbox = sent s1 .rld .go id ∧ t.answers = rest ∧ MemFrame s t s.regs.region ∧ SameMemory s t) ∧
      (others ≠ [] → s.wave.ask = none → ∃ t, exec (.rld d a b) s = .next t ∧ t.wave.stall = 27 ∧
        t.wave.ask = some (s.fresh, others) ∧ t.outbox = sent s .rld .ask s.fresh ∧ t.regs = s.regs ∧
        SameMemory s t)) ∧
    (Clear s { ops := [.v d 1 true, .v a 2 true, .v b 1 true], spec := false } → s.wave.stores.length < 31 →
      remoteFirst xs (s.regs.ctxS 10).toNat 1 true = none → PeersAgree s 1 true xs s1 ps rest →
      ∃ t st id, exec (.rst d a b) s = .next t ∧ t.wave.stores = s.wave.stores ++ [st] ∧
        st.passes.map (fun p => (p.rank, p.id)) = others.map (fun p => (p, id)) ∧ t.outbox = sent s1 .rst .go id ∧
        MemFrame s t s.regs.region ∧
        ∀ tier x, byteAt t tier x = afterCells (storeCells ps (laneData s.regs 1 d)) tier x (byteAt s tier x))

/-- R276, R277: once every peer agrees, `ratom` ends the region, performs the lanes at its own rank in order, and tells the
other ranks to perform theirs; `rput` and `rget` with an active lane are counted once and advance, whatever becomes of their
transfers; words of an `rput` for a line of a block here that admits them are written there at once, and its pass is
answered. `rflush` only advances. A rank outside the job or a nonzero peer word raises PROTECTION. (That an access is
performed when it is accepted is log 5, that peers are asked first and told then is log 33.) -/
def Sys2Proof.Machine.RemoteAtomicsAndTransfersRule : Prop :=
  (∀ s d a b s1 ps rest,
    let xs := s.regs.atomLanes a b
    let rets := xs.filter RLane.ret
    let others := s.otherRanks xs
    let y := s.remoteAtomics ps (s.regs.message d (lanesAt xs s.ownRank))
    Clear s { ops := [.v d 4 false, .v a 2 true, .v b 1 true], spec := false } → xs ≠ [] →
    s.cutLanes xs = [] → remoteFirst xs (s.regs.ctxS 10).toNat 2 true = none →
    s.regs.atomPoison d xs = none → s.wave.loads.length < 63 → s.wave.stores.length < 31 →
    s.wave.performedAt .job = true → PeersAgree s 2 true xs s1 ps rest → MaySync s →
    ∃ t, exec (.ratom d a b) s = .next t ∧ MemFrame s t (s.regs.region + 1) ∧ SameScratch s t ∧
      (∀ tier x, byteAt t tier x = byteAt y.1 tier x) ∧
      (∃ id, t.outbox = s1.outbox ++ others.map fun p => .remote p
        { s.request .go .ratom id d (lanesAt xs p) with region := (s.regs.region + 1).toNat }) ∧
      (rets = [] → t.wave.stores.length = s.wave.stores.length + 1 ∧ t.wave.loads = s.wave.loads) ∧
      (rets ≠ [] → t.wave.loads.length = s.wave.loads.length + 1 ∧ t.wave.stores = s.wave.stores)) ∧
  (∀ s d a b,
    let xs := s.regs.plainLanes a b
    xs ≠ [] → remoteFirst xs (s.regs.ctxS 10).toNat 7 false = none →
    (Clear s { ops := [.v d 1 true, .v a 2 true, .v b 1 true], spec := false } → s.wave.stores.length < 31 →
      ∃ t, exec (.rput d a b) s = .next t ∧ t.wave.stores.length = s.wave.stores.length + 1 ∧
        MemFrame s t s.regs.region ∧ t.hbm = s.hbm ∧ t.ddr = s.ddr ∧ t.hostMem = s.hostMem) ∧
    (Clear s { ops := [.v d 1 false, .v a 2 true, .v b 1 true], spec := false } → s.wave.loads.length < 63 →
      ∃ t, exec (.rget d a b) s = .next t ∧ t.wave.loads.length = s.wave.loads.length + 1 ∧
        MemFrame s t s.regs.region ∧ SameMemory s t)) ∧
  (∀ s d a b blk line bk b',
    let xs := s.regs.plainLanes a b
    let items := s.regs.passItems true d xs
    let id := s.wave.ident.toNat
    Clear s { ops := [.v d 1 true, .v a 2 true, .v b 1 true], spec := false } → xs ≠ [] → (∀ x ∈ xs, x.peer = s.ownRank) →
    remoteFirst xs (s.regs.ctxS 10).toNat 7 false = none → s.wave.stores.length < 31 → s.transfers = [] →
    (∀ i ∈ items, i.2.1 = blk ∧ i.2.2.1 / 128 = line ∧
      s.targetOf s.launch.ctx s.launch.jtag blk i.2.2.1 true = .at bk) →
    tfind? s.blocks bk ≠ none → s.lineTurn bk s.cycle [line] = false →
    (s.blockAt bk).arrive
      { issuer := id, kind := 1, word := (s.wave.ident + 0x80#32).toNat, id := s.fresh } line
      (items.flatMap fun i => cellsAt i.2.2.1 i.2.2.2) = .ok b' →
    ∃ t, exec (.rput d a b) s = .next t ∧ t.blockAt bk = b' ∧ t.transfers = [] ∧
      t.wave.stores.length = s.wave.stores.length + 1 ∧
      (∃ st, t.wave.stores.getLast? = some st ∧ st.passes = []) ∧ MemFrame s t s.regs.region) ∧
  ∀ s a b, Clear s { ops := [.v a 2 true, .v b 1 true], spec := false } →
    let bad := (s.regs.plainLanes a b).filter fun x => !x.okay || decide ((s.regs.ctxS 10).toNat ≤ x.peer)
    (bad = [] → Completes (.rflush a b) s 0 (nextPc s.regs.pc) (SameRegs s.regs)) ∧
    (bad ≠ [] → ∃ r, Traps (.rflush a b) s r ∧ r.code = 0x09)

/-- R205, R207, R214, R216, R277, R278, R281: at the home, the end of a region or of a copy retires the issuer's tags and
is answered; a check that passes is answered and holds the places it found, and a party that gives up lets them go (log
57); a load performed is answered with the bytes at its places, a store writes them, and a copy's part is written as a
copy's; words of an `rput` for a block's line that admits them are written there, and the sender is answered. (That the
end of a region is answered is log 33.) -/
def Sys2Proof.Machine.RemoteRequestsRule : Prop :=
  (∀ s (r : RemoteReq),
    let p := Party.remote r.ident 0
    let gone := fun (t : State) =>
      (∀ e ∈ t.tags, e.2.writer.all (fun g => g.party ≠ p) = true ∧ ∀ g ∈ e.2.live, g.party ≠ p) ∧
      ∀ x ∈ t.reserved, x.tag.party = p → x.tag.kind = 2
    (r.stage = .ended → ∃ t, exec (.remoteRequest r) s = .next t ∧ SameMemory s t ∧ gone t ∧
      t.outbox = s.outbox ++
        [.reply (r.ident / 2 ^ 28 % 16) { rank := s.rankOf r.ctx, ident := r.ident, seq := r.seq } []]) ∧
    (r.stage = .drop → ∃ t, exec (.remoteRequest r) s = .next t ∧ SameMemory s t ∧ t.tags = s.tags ∧
      t.reserved = s.reserved.filter fun x => x.tag.party ≠ p)) ∧
  (∀ s (r : RemoteReq), r.stage = .go → r.kind = .write →
    let bs := toBytes r.bytes
    let s0 : State := { s with waitReqs := s.waitReqs.erase r }
    ∀ s1 qs, s0.engineCheck { party := .remote r.ident 0, ident := BitVec.ofNat 32 r.ident, core := 48, ctx := r.ctx } 6
        true (granReqs ((r.lanes.map RemoteLane.addr).headD 0) bs.length) = .ok s1 qs →
      ∃ t, exec (.remoteRequest r) s = .next t ∧ GlobalWritten s t qs bs ∧ t.outbox = s1.outbox ++
        [.reply (r.ident / 2 ^ 28 % 16) { rank := s1.rankOf r.ctx, ident := r.ident, seq := r.seq } []]) ∧
  (∀ s (r : RemoteReq) s1 ps, r.stage = .ask →
    let p := Party.remote r.ident 0
    let s0 := ({ s with waitReqs := s.waitReqs.erase r } : State).unreserve p
    s0.accept p 48 r.ctx (decide (r.kind ≠ .rld)) false (reqLanes r) = .ok s1 ps →
    (r.track = true → s1.clash p r.ctx (reqKind r) ps = none ∧ s1.contends p r.ctx (reqKind r) ps = false) →
    ∃ t, exec (.remoteRequest r) s = .next t ∧ SameMemory s t ∧
      t.outbox = s1.outbox ++
        [.reply (r.ident / 2 ^ 28 % 16) { rank := s1.rankOf r.ctx, ident := r.ident, seq := r.seq } []] ∧
      ∃ x, t.reserved = s1.reserved ++ [x] ∧ x.tag.party = p ∧ x.ctx = r.ctx ∧ x.places = ps) ∧
  (∀ s (r : RemoteReq) x, r.stage = .go →
    s.reserved.find? (fun x => x.tag.party = Party.remote r.ident 0) = some x →
    (r.kind = .rld → ∃ t, exec (.remoteRequest r) s = .next t ∧ SameMemory s t ∧
      t.outbox = s.outbox ++
        [.reply (r.ident / 2 ^ 28 % 16)
          { rank := s.rankOf r.ctx, ident := r.ident, seq := r.seq
            bad := (x.places.filter fun q => s.poisonAt q.tier q.pa).map fun q => q.req.lane }
          (x.places.map fun q => (q.req.lane, leNat (s.readTier q.tier q.pa q.req.n)))]) ∧
    (r.kind = .rst → ∃ t, exec (.remoteRequest r) s = .next t ∧ SameScratch s t ∧
      ∀ tier a, byteAt t tier a = afterCells (storeCells x.places fun l =>
        ((r.lanes.find? fun x => x.lane = l).map RemoteLane.data).getD 0) tier a (byteAt s tier a))) ∧
  ∀ s ctx jtag ident seq places data blk line bk b, s.transfers = [] →
    let items := List.zip places data
    items ≠ [] →
    ident / 2 ^ 28 % 16 ≠ s.rankOf ctx →
    (∀ i ∈ items, i.1.1 = blk ∧ i.1.2 / 128 = line ∧ s.targetOf ctx jtag blk i.1.2 true = .at bk) →
    tfind? s.blocks bk ≠ none → s.lineTurn bk s.cycle [line] = false →
    (s.blockAt bk).arrive { issuer := ident - 0x80, kind := 1, word := ident, id := s.fresh } line
      (items.flatMap fun i => cellsAt i.1.2 (toBytes i.2)) = .ok b →
    ∃ t, exec (.arrival ctx jtag ident seq places data) s = .next t ∧ t.blockAt bk = b ∧ t.transfers = [] ∧
      t.outbox = s.outbox ++
        [.reply (ident / 2 ^ 28 % 16) { rank := s.rankOf ctx, ident := ident, seq := seq, info := [0] } []] ∧
      t.hbm = s.hbm ∧ t.ddr = s.ddr ∧ t.hostMem = s.hostMem

/-- R268, R269: an ELEM contribution whose turn it is is applied to its elements in full, the region's count goes on, and
its issuer is told; one sent again after a refusal ends its copy; one that is early is held, and one that is behind fails
with SEQ_STALE. A SUM contribution that agrees with those before it and overlaps none is kept; the one that completes the
vector writes the sum, adds 1 to the signal word and clears the region; one that disagrees or overlaps fails with
RANGE_OVERLAP. (Elements beyond the vector count for nothing: log 54.) -/
def Sys2Proof.Machine.ReductionsRule : Prop :=
  (∀ s (c : Contribution) s1 ps,
    let g := tget (s.ctxAt c.ctx).regions c.region {}
    c.mode = 0 → c ∉ s.waitContrs → g.waiting = [] → g.expect < 2 ^ 16 → c.word5 % 2 ^ 16 = g.expect →
    s.engineCheck (s.contrActor c) 2 true (contrReqs c) = .ok s1 ps →
    (∀ x ∈ ps, s.poisonAt x.tier x.pa = false) →
    let after := fun (t : State) =>
      (∀ tier x, byteAt t tier x = byteAt (s1.applyElems c.op ps c.elems) tier x) ∧
      (tget (t.ctxAt c.ctx).regions c.region {}).expect = (g.expect + 1) % 2 ^ 16
    (64 ≤ c.entry → ∃ t, exec (.reduceContribution c) s = .next t ∧ after t ∧
      t.outbox = s1.outbox ++
        [.reply c.rank { rank := s.rankOf c.ctx, ident := c.ident, seq := c.seq, info := [0] } []]) ∧
    (∀ core n, c = s.contribution core n → n < 64 → (s.entryAt core n).busy = true →
      (s.entryAt core n).resend = true → s.copyRemote core n = false →
      ∃ t, exec (.elemResend core n) s = .next t ∧ after t ∧
        (t.entryAt core n).busy = false ∧ (t.entryAt core n).state = 2)) ∧
  ∀ s (c : Contribution), c ∉ s.waitContrs → 64 ≤ c.entry →
    let g := tget (s.ctxAt c.ctx).regions c.region {}
    let region := fun (t : State) => tget (t.ctxAt c.ctx).regions c.region {}
    let answered := fun (s1 t : State) (code : Nat) => t.outbox = s1.outbox ++ [.reply c.rank
      { rank := s.rankOf c.ctx, ident := c.ident, seq := c.seq, code := code, info := [0] } []]
    let ahead := (c.word5 % 2 ^ 16 + 2 ^ 16 - g.expect) % 2 ^ 16
    let clashes := fun (p : Contribution) => p.op ≠ c.op ∨ p.total ≠ c.total ∨ p.dst ≠ c.dst ∨
      ∃ k, p.word5 ≤ k ∧ k < p.word5 + p.elems.length ∧ c.word5 ≤ k ∧ k < c.word5 + c.elems.length
    let within := fun (p : Contribution) => min p.elems.length (p.total - p.word5)
    let covered := (g.parts.map within).sum + within c
    g.waiting = [] →
    (c.mode = 0 → 32768 ≤ ahead → ∃ t, exec (.reduceContribution c) s = .next t ∧ SameMemory s t ∧ answered s t 9) ∧
    (c.mode = 0 → 0 < ahead → ahead < 32768 → s.earlyHeld (controllerOf c) < 512 →
      ∃ t, exec (.reduceContribution c) s = .next t ∧ SameMemory s t ∧ t.outbox = s.outbox ∧
        region t = { g with waiting := [c] }) ∧
    (c.mode = 1 → (∃ p ∈ g.parts, clashes p) →
      ∃ t, exec (.reduceContribution c) s = .next t ∧ SameMemory s t ∧ answered s t 11 ∧ region t = g) ∧
    (c.mode = 1 → (∀ p ∈ g.parts, ¬clashes p) → covered < c.total →
      ∃ t, exec (.reduceContribution c) s = .next t ∧ SameMemory s t ∧ answered s t 0 ∧
        region t = { g with parts := g.parts ++ [c] }) ∧
    ∀ s1 qs sigs v, c.mode = 1 → (∀ p ∈ g.parts, ¬clashes p) → c.total ≤ covered →
      s.engineCheck (s.contrActor c) 2 true
        (granReqs c.dst (redBytes c.op) ++ granReqs (c.dst + 8) 8) = .ok s1 (qs ++ sigs) →
      qs.length = (granReqs c.dst (redBytes c.op)).length → (∀ x ∈ sigs, s.poisonAt x.tier x.pa = false) →
      sumResult ((g.parts ++ [c]).map withinTotal) = some v →
      let cells := placeCells qs (leBytes (redBytes c.op) v)
      (∀ x ∈ cells, ∀ y ∈ sigs, min x.1 2 = min y.tier 2 → x.2.1 < y.pa ∨ y.pa + y.req.n ≤ x.2.1) →
      ∃ t, exec (.reduceContribution c) s = .next t ∧ answered s1 t 0 ∧ region t = { g with parts := [] } ∧
        ∀ tier x, byteAt t tier x = afterCells
          (cells ++ placeCells sigs (leBytes 8 (leNat (s.placeBytes sigs) + 1))) tier x (byteAt s tier x)
/-! ### The matrix engine -/

/-- The frame of an instruction that changes tiles alone: registers outside the tiles `ts` are as before. -/
def Sys2Proof.Machine.TileFrame (r u : WaveRegs) (ts : List Nat) : Prop :=
  SameScalars r u ∧ SameVectors r u ∧ SameSystem { r with tiles := u.tiles } u ∧
  ∀ t, t ∉ ts → u.tile t = r.tile t

/-- The acting wave's matrix engine is not lost and is not being reset (R434, R435). -/
def Sys2Proof.Machine.EngineUp (s : State) : Prop :=
  (s.engineAt s.wave.core).lost.contains s.wave.part = false ∧
    (s.engineAt s.wave.core).hang.contains s.wave.part = false

/-- A range of the scratchpad that a matrix operation captures at once: aligned, within the block's bytes, every line of
it FULL with no older stall there that has its turn, and no word of it poisoned (R176, R177, R214, R429). -/
def Sys2Proof.Machine.Captures (s : State) (addr n : Nat) : Prop :=
  addr % 128 = 0 ∧ addr + n ≤ (s.regs.ctxS 15).toNat ∧
  s.olderWaits ((List.range ((n + 127) / 128)).map (addr / 128 + ·)) = false ∧
  ∀ a, addr ≤ a → a < addr + n → (s.block.line (a / 128)).st = .full ∧ a / 4 ∉ s.block.spois

/-- A matrix operation issues: it joins the wave's operations, in order, and changes no register and no memory. -/
def Sys2Proof.Machine.OpIssued (i : Instr) (s : State) (o : TileOp) : Prop :=
  ∃ t, exec i s = .next t ∧ t.regs.pc = nextPc s.regs.pc ∧ t.regs.retired = s.regs.retired + 1 ∧
    SameRegs s.regs t.regs ∧ SameMemory s t ∧ t.wave.tileOps = s.wave.tileOps ++ [o]

/-- R176 to R178, R182: `mma`, `bload` and `mld` issue when their tile and slots are free, capture their bytes of the
scratchpad, and are counted on TL; the scale factors are the 16 or 64 bytes after the data. `mma` and `bload` wait while
a self-test of their partition is due (R186). (That operands are captured at issue, and TL falls in the order of issue, is
log 26.) -/
def Sys2Proof.Machine.MatrixIssueRule : Prop :=
  ∀ s a, EngineUp s → s.wave.tileOps.length < 31 →
    let addr := (s.regs.s a).toNat
    let bytes := fun n => s.block.scratch.readList addr n
    (∀ fm slot tile rnd scl nega,
      let dbl := decide (fm = .f64)
      let w := if dbl then 2 else 1
      let size := if dbl then 2048 else 1024
      let n := size + if scl then 16 else 0
      Clear s { ops := [.s a 1 true, .slot slot w, .tile tile w], spec := false } → Captures s addr n →
      s.testFirst = false → (∀ t ∈ s.regs.members tile, s.wave.tileBusy t = false) →
      (∀ j < w, s.wave.tileBusy (tile + j) = false ∧ s.slotBusy (slot + j) false = false) →
      (∀ j < w, (s.block.slot s.wave.bank (slot + j)).fmt.map mclass = some (mclass fm)) →
      typeFits (mclass fm) (s.regs.tile tile).ty = true →
      (scl = true → (s.block.slot s.wave.bank slot).factors.isSome) →
      OpIssued (.mma fm a slot tile rnd scl nega) s
        { kind := .mma, fm := fm, tile := tile, slot := slot, rnd := rnd, nega := nega, pair := dbl
          data := (bytes n).take size, factors := if scl then some ((bytes n).drop size) else none }) ∧
    (∀ scl slot fm,
      let dbl := decide (fm = .f64)
      let w := if dbl then 2 else 1
      let size := if dbl then 8192 else 4096
      let n := size + if scl then 64 else 0
      Clear s { ops := [.slot slot w, .s a 1 true], spec := false } → Captures s addr n → s.testFirst = false →
      (∀ j < w, s.slotBusy (slot + j) true = false) →
      OpIssued (.bload scl slot a fm) s
        { kind := .bload, fm := fm, slot := slot, pair := dbl
          data := (bytes n).take size, factors := if scl then some ((bytes n).drop size) else none }) ∧
    (∀ tile mode,
      let dbl := decide (mode = .fp64)
      let n := if dbl then 8192 else 4096
      Clear s { ops := [.tile tile (if dbl then 2 else 1), .s a 1 true], spec := false } → Captures s addr n →
      (∀ t ∈ tile :: s.regs.members tile, s.wave.tileBusy t = false) →
      (dbl = true → s.wave.tileBusy (tile + 1) = false) →
      OpIssued (.mld tile a mode) s
        { kind := .mld, tile := tile, mode := mode, pair := dbl, data := bytes n })

/-- R170 to R173, R178, R182: an `mma` that completes writes each element of its tile, a sum of groups of products in
the arithmetic of its class, and ORs the flags of all of them into the tile's status word, with NV where an operand of an
integer class holds the code that has no value (R83, R169, R173, R174); `bload` fills its slots, `mld` its tile; each leaves
TL in order and leaves every other tile as it was. (That results are written at the completion is log 26.) -/
def Sys2Proof.Machine.MatrixCompletionRule : Prop :=
  ∀ s w o os,
    let v := s.waveAt w
    s.engineHung v = false →
    (takeOp .mma v.tileOps = some (o, os) →
      let b := s.blockAt v.blk
      let lo := b.slot v.bank o.slot
      let data := if o.pair then lo.data ++ (b.slot v.bank (o.slot + 1)).data else lo.data
      let acc := fun e => v.regs.elem o.tile e o.pair
      let bf := lo.fmt.getD o.fm
      let res := if 5 ≤ mclass o.fm then mmaInt o (decide ((v.regs.tile o.tile).ty = .int32sat)) bf data acc
        else mmaFloat o bf data (lo.factors.getD []) acc
      let code := decide (5 ≤ mclass o.fm) && (badCode o.fm o.data (16 * kOf o.fm) || badCode bf data (64 * kOf o.fm))
      let flags := res.foldl (fun g x => g ||| x.flags) (if code then 0x100 else 0)
      ∃ t, exec (.mmaComplete w) s = .next t ∧ (t.waveAt w).tileOps = dropDoneOps os ∧
        (∀ e < 1024, (t.waveAt w).regs.elem o.tile e o.pair =
          ((res[e]?).map FRes.bits).getD 0 % 2 ^ (if o.pair then 64 else 32)) ∧
        (∀ k ∈ v.regs.members o.tile, ((t.waveAt w).regs.tile k).ty = (v.regs.tile k).ty ∧
          ((t.waveAt w).regs.tile k).status =
            (v.regs.tile k).status ||| (BitVec.ofNat 32 (flags / 2 ^ 8) &&& 0x1D#32)) ∧
        (∀ k, k ∉ o.tile :: (if o.pair then [o.tile + 1] else []) ++ v.regs.members o.tile →
          (t.waveAt w).regs.tile k = v.regs.tile k) ∧ SameMemory s t) ∧
    (takeOp .bload v.tileOps = some (o, os) →
      ∃ t, exec (.bloadComplete w) s = .next t ∧ (t.waveAt w).tileOps = dropDoneOps os ∧
        (t.waveAt w).regs = v.regs ∧ SameMemory s t ∧
        let slot := fun j => (t.blockAt v.blk).slot v.bank (o.slot + j)
        slot 0 = { fmt := some o.fm, data := o.data.take 4096, factors := o.factors } ∧
        (o.pair = true → slot 1 = { fmt := some o.fm, data := (o.data.drop 4096).take 4096, factors := o.factors })) ∧
    (takeOp .mld v.tileOps = some (o, os) → o.pair = decide (o.mode = .fp64) →
      ∃ t, exec (.mldComplete w) s = .next t ∧ (t.waveAt w).tileOps = dropDoneOps os ∧ SameMemory s t ∧
        let r := (t.waveAt w).regs
        let step := if o.pair then 8 else 4
        (∀ e < 1024, r.elem o.tile e o.pair =
          leNat ((List.range step).map fun i => o.data.getD (e * step + i) 0)) ∧
        (r.tile o.tile).ty = o.mode ∧ (r.tile o.tile).status = 0 ∧
        ∀ k, k ∉ o.tile :: (if o.pair then [o.tile + 1] else []) ++ v.regs.members o.tile → r.tile k = v.regs.tile k)

/-- R164, R174, R182: `mzero` gives a tile, or a pair, its type, zeros and a clear status; `mstat` reads the status
word, `mstat.clr` reads and clears it, `mstat.set` sets bits [4:2] and [0] from its operand; `bfree` empties the slot,
or both of an f64 operand. -/
def Sys2Proof.Machine.TileStatusRule : Prop :=
  ∀ s d tile, EngineUp s →
    let free := ∀ t ∈ s.regs.members tile, s.wave.tileBusy t = false
    (∀ mode, Clear s { ops := [.tile tile (if mode = .fp64 then 2 else 1)], spec := false } → free →
      s.wave.tileBusy tile = false → (mode = .fp64 → s.wave.tileBusy (tile + 1) = false) →
      Completes (.mzero tile mode) s 0 (nextPc s.regs.pc) fun u =>
        (∀ e, u.elem tile e (decide (mode = .fp64)) = 0) ∧ u.tile tile = { ty := mode, words := [] } ∧
        TileFrame s.regs u (tile :: (if mode = .fp64 then [tile + 1] else []) ++ s.regs.members tile)) ∧
    (Clear s { ops := [.s d 1 false, .tile tile 1], writes := 1 } → free →
      Completes (.mstat d tile) s 1 (nextPc s.regs.pc) (GivesS s.regs d (s.regs.tile tile).statusWord)) ∧
    (Clear s { ops := [.s d 1 false, .tile tile 1], spec := false } → free →
      Completes (.mstatClr d tile) s 0 (nextPc s.regs.pc) fun u =>
        u.s d = (s.regs.tile tile).statusWord ∧ ScalarFrame { s.regs with tiles := u.tiles } u d 1 ∧
        ∀ k, u.tile k = if k ∈ s.regs.members tile then { s.regs.tile k with status := 0 } else s.regs.tile k) ∧
    (Clear s { ops := [.s d 1 true, .tile tile 1], spec := false } → free →
      Completes (.mstatSet d tile) s 0 (nextPc s.regs.pc) fun u =>
        TileFrame s.regs u (s.regs.members tile) ∧
        ∀ k ∈ s.regs.members tile, u.tile k =
          { s.regs.tile k with status := s.regs.s d &&& 0x1D#32 }) ∧
    ∀ slot, Clear s { ops := [.slot slot 1], spec := false } →
      (∀ b ∈ s.block.freed s.wave.bank slot, s.slotBusy b true = false) →
      ∃ t, exec (.bfree slot) s = .next t ∧ t.regs.pc = nextPc s.regs.pc ∧ SameRegs s.regs t.regs ∧ SameMemory s t ∧
        ∀ k, (t.blockAt s.wave.blk).slot s.wave.bank k =
          if k ∈ s.block.freed s.wave.bank slot then {} else s.block.slot s.wave.bank k

/-- R182, R429: `mtov` gives each active lane the element at its row and column, zero beyond column 63, with the poison
of the element; `vtom` writes those elements and no others. -/
def Sys2Proof.Machine.TileElementsRule : Prop :=
  ∀ s tile b, EngineUp s → (∀ t ∈ s.regs.members tile, s.wave.tileBusy t = false) →
    let dbl := decide ((s.regs.tile tile).ty = .fp64)
    let n := if dbl then 2 else 1
    (dbl = true → tile % 2 = 0) →
    (∀ d, Clear s { ops := [.v d 1 false, .tile tile n, .s b 1 true, .v d n false], writes := n } →
      let value := fun l => ((tilePos (s.regs.s b) l).map fun k => s.regs.elem tile k dbl).getD 0
      Completes (.mtov d tile b) s n (nextPc s.regs.pc) fun u =>
        (if dbl then GivesV2 s.regs d (fun l => BitVec.ofNat 64 (value l)) u
         else GivesV s.regs d s.regs.em (fun l => BitVec.ofNat 32 (value l)) u) ∧
        ∀ l < 64, bitOf s.regs.em l = true → (tfind? u.vpois (s.regs.vkey d * 64 + l)).isSome =
          ((tilePos (s.regs.s b) l).map fun k => s.regs.elemBad tile k dbl).getD false) ∧
    ∀ a, Clear s { ops := [.tile tile n, .v a 1 true, .s b 1 true, .v a n true], spec := false } →
      Completes (.vtom tile a b) s 0 (nextPc s.regs.pc) fun u =>
        TileFrame s.regs u (tile :: if dbl then [tile + 1] else []) ∧
        ∀ k < 1024, u.elem tile k dbl =
          match (lanesOf s.regs.em).find? fun l => decide (tilePos (s.regs.s b) l = some k) with
          | some l => if dbl then (s.regs.v2 a l).toNat else (lane (s.regs.v a) l).toNat
          | none => s.regs.elem tile k dbl

/-- R176, R183, R376, R435: `mst` captures its tile converted to its format, with the flags raised in the tile's
status, and its lines are written one at a time, each once the block's line can take it: an OPEN line in place, an EMPTY
line so that it is FULL once its 128 bytes are written, while a FULL line and one FILLING under any owner are waited for; a
matrix instruction on a lost partition raises MATRIX_LOST, the odd tile of an FP64 pair ILLEGAL_REGISTER, an address that is
misaligned or out of range its fault, a pairing that is not admitted SHELF_FORMAT. (A line is written in one clock, so that
FILLING under the engine is never seen: log 2. That the odd tile is refused in the second stage, where the tile's type is
seen, is log 26.) -/
def Sys2Proof.Machine.TileStoresRule : Prop :=
  (∀ s d sat tile rnd fm,
    let i := Instr.mst d sat tile rnd fm
    let ty := (s.regs.tile tile).ty
    let dbl := decide (ty = .fp64)
    let eb := mstBytes fm
    let addr := (s.regs.s d).toNat
    Clear s { ops := [.s d 1 true, .tile tile (if fm = .f64 then 2 else 1)], spec := false } →
    ((s.engineAt s.wave.core).lost.contains s.wave.part = true → Traps i s (mkTrap 0x28 [0, 0, 1])) ∧
    (EngineUp s → addr % 128 = 0 → addr + 1024 * eb ≤ (s.regs.ctxS 15).toNat → dbl = true → tile % 2 = 1 →
      (∀ t ∈ s.regs.members tile, s.wave.tileBusy t = false) → s.wave.tileOps.length < 31 →
      Traps i s (mkTrap 0x02 [s.fetchWord, wrd tile])) ∧
    (EngineUp s → addr % 128 ≠ 0 → ∃ r, Traps i s r ∧ r.code = 0x0B) ∧
    (EngineUp s → addr % 128 = 0 → (s.regs.ctxS 15).toNat < addr + 1024 * eb →
      ∃ r, Traps i s r ∧ r.code = 0x09) ∧
    (EngineUp s → addr % 128 = 0 → addr + 1024 * eb ≤ (s.regs.ctxS 15).toNat →
      (∀ t ∈ s.regs.members tile, s.wave.tileBusy t = false) → (dbl = true → tile % 2 = 0) →
      s.wave.tileOps.length < 31 →
      (mstConvert ty fm (grpRnd rnd) sat = none → Traps i s (mkTrap 0x29 [s.fetchWord, 4])) ∧
      ∀ f, mstConvert ty fm (grpRnd rnd) sat = some f →
        let vals := (List.range 1024).map fun k => f (s.regs.elem tile k dbl)
        ∃ t, exec i s = .next t ∧ t.regs.pc = nextPc s.regs.pc ∧ SameMemory s t ∧
          TileFrame s.regs t.regs (s.regs.members tile) ∧
          (∀ k ∈ s.regs.members tile, t.regs.tile k =
            { s.regs.tile k with status :=
              (s.regs.tile k).status ||| tileFlags (vals.foldl (fun g v => g ||| v.flags) 0) }) ∧
          t.wave.tileOps = s.wave.tileOps ++ [{
            kind := .mst, fm := fm, tile := tile, pair := dbl, xid := s.fresh, since := s.cycle
            lines := mstLines addr eb vals ((List.range 1024).map fun k => s.regs.elemBad tile k dbl) }])) ∧
  ∀ s w o os n bs ws rest,
    let v := s.waveAt w
    let l := (s.blockAt v.blk).line n
    s.engineHung v = false → v.tileOps = o :: os → o.kind = .mst → o.done = false →
    o.lines = (n, bs, ws) :: rest → bs.length = 128 →
    (s.lineTurn v.blk o.since [n] = false → l.st = .opened ∨ l.st = .empty →
      ∃ t, exec (.mstLineWrite w false) s = .next t ∧
        (∀ a, (t.blockAt v.blk).scratch.read a =
          if a / 128 = n then bs.getD (a % 128) 0 else (s.blockAt v.blk).scratch.read a) ∧
        ((t.blockAt v.blk).line n).st = (if l.st = .opened then .opened else .full) ∧
        (l.st = .opened → ((t.blockAt v.blk).line n).orec.writer = .external) ∧
        (∀ i, i ≠ n → (t.blockAt v.blk).line i = (s.blockAt v.blk).line i) ∧
        t.hbm = s.hbm ∧ t.ddr = s.ddr ∧ t.hostMem = s.hostMem ∧
        (t.waveAt w).tileOps = dropDoneOps ({ o with lines := rest, done := rest.isEmpty } :: os)) ∧
    (l.st = .full ∨ l.st = .filling → os = [] → exec (.mstLineWrite w false) s = .next s)

/-- R186, R434, R435: a self-test starts the partition's count again, a failed bank is fenced and a second one loses
the partition; an engine that hangs is in reset for 4,096 clocks, after which the tiles and the outstanding operations
of the waves on it are gone. (What remains of an `mst` in a block's record goes on: log 54.) -/
def Sys2Proof.Machine.MatrixRecoveryRule : Prop :=
  ∀ s core part,
    let fences := fun (t : State) => tget (t.engineAt core).fences part []
    (∃ t, exec (.matrixSelfTest core part none) s = .next t ∧ tget (t.engineAt core).mops part 0 = 0 ∧
      fences t = fences s ∧ SameMemory s t) ∧
    (∀ k, k ∉ fences s → ∃ t, exec (.matrixSelfTest core part (some k)) s = .next t ∧ fences t = fences s ++ [k] ∧
      (1 ≤ (fences s).length → part ∈ (t.engineAt core).lost)) ∧
    (part ∉ (s.engineAt core).hang → ∃ t, exec (.matrixHang core part) s = .next t ∧ part ∈ (t.engineAt core).hang ∧
      tget (t.engineAt core).hangEnd part 0 = s.cycle + 4096 ∧ SameMemory s t) ∧
    (part ∈ (s.engineAt core).hang → tget (s.engineAt core).hangEnd part 0 ≤ s.cycle →
      ∃ t, exec (.matrixResetDone core part []) s = .next t ∧ part ∉ (t.engineAt core).hang ∧
        ∀ w, (tfind? s.waves w).isSome = true → s.onPart (s.waveAt w) core part = true →
          (t.waveAt w).tileOps = [] ∧ (t.waveAt w).regs.tiles = [] ∧
          (t.waveAt w).regs.vregs = (s.waveAt w).regs.vregs)
/-! ### Overlays -/

/-- A read of `n` bytes of the acting wave's overlay image succeeds (R73): the state after the translation, the bytes
and the poisoned words among them (R429). -/
def Sys2Proof.Machine.ReadsImage (s : State) (va n : Nat) (s1 : State) (bs : List Byte) (bad : List Nat) : Prop :=
  ∃ ps, s.accept (.wave s.cur) s.wave.core s.launch.ctx false false
      ((List.range ((n + 255) / 256)).map fun i => { lane := 0, va := va + 256 * i, n := 1 }) = .ok s1 ps ∧
    bs = (ps.flatMap fun x => s1.readTier x.tier x.pa 256).take n ∧
    bad = (List.range (n / 4)).filter fun i =>
      (ps[i / 64]?).any fun x => s1.poisonAt x.tier (x.pa + 4 * (i % 64))

/-- R73, R76, R388, R389: `ovload` starts the load of an overlay of the launch's image into its slot; the load replaces
the slot's contents when it completes, poisoned words included, but changes nothing where the slot holds that overlay;
`ovcall` enters an overlay that is in a slot, at the offset of the entry, and leaves its own overlay and the next pc as
link; `ovret` goes back to a link whose overlay its slot holds. A number that names no overlay, and a link that does
not fit, raise PROTECTION. (That a load changes nothing where the slot holds the overlay is log 35; an entry's offset that
is no multiple of 4 is taken as it is, log 54.) -/
def Obligations.Overlays : Prop :=
  (∀ s slot a s1 h s2 e s3 bs bad,
    let n := (s.regs.s a).toNat
    let size := field e 4 4
    Clear s { priv := decide (slot = s.launch.hs), ops := [.s a 1 true], spec := false } →
    (s.launch.ovs.length ≤ n → ∃ r, Traps (.ovload slot a) s r ∧ r.code = 0x09) ∧
    (n < s.launch.ovs.length →
      ReadsImage s s.launch.ovimg 16 s1 h [] → field h 0 4 = s1.launch.ovs.length →
      ReadsImage s1 (s1.launch.ovimg + 16 + 16 * n) 16 s2 e [] → size ≤ ((s1.launch.ovs[n]?).map Prod.fst).getD 0 →
      ReadsImage s2 (s2.launch.ovimg + field e 0 4) size s3 bs bad →
      ∃ t, exec (.ovload slot a) s = .next t ∧ MemFrame s3 t s.regs.region ∧ SameMemory s3 t ∧
        (t.slotAt slot).loading = (s3.slotAt slot).loading ++ [(n, toWords (size / 4) bs, bad)] ∧
        (t.slotAt slot).words = (s3.slotAt slot).words)) ∧
  (∀ s core slot n ws bad rest,
    (tget (s.coreAt core).slots slot {}).loading = (n, ws, bad) :: rest →
    ∃ t, exec (.overlayLoadComplete core slot) s = .next t ∧ SameMemory s t ∧
      let old := tget (s.coreAt core).slots slot {}
      let x := tget (t.coreAt core).slots slot {}
      (old.ov = some n → x = { old with loading := rest }) ∧
      (old.ov ≠ some n → x.ov = some n ∧ x.loading = rest ∧ x.pois = bad ∧
        ∀ i, tget x.words i 0 = (ws[i]?).getD 0)) ∧
  (∀ s d a i s1 h s2 e s3 o,
    let x := s.regs.s a
    let n := x.toNat / 2 ^ 8 % 256
    Clear s { ops := [.s d 1 false, .s a 1 true], spec := false, writes := 1 } →
    ((∀ j < 4, (s.slotAt j).ov ≠ some n ∧ ∀ l ∈ (s.slotAt j).loading, l.1 ≠ n) →
      ∃ r, Traps (.ovcall d a) s r ∧ r.code = 0x09) ∧
    (i < 4 → (s.slotAt i).ov = some n → (s.slotAt i).loading = [] →
      (∀ j < i, (s.slotAt j).ov ≠ some n ∧ ∀ l ∈ (s.slotAt j).loading, l.1 ≠ n) →
      ReadsImage s s.launch.ovimg 16 s1 h [] → field h 0 4 = s1.launch.ovs.length →
      ReadsImage s1 (s1.launch.ovimg + 16 + 16 * n) 16 s2 e [] →
      field e 4 4 ≤ ((s1.launch.ovs[n]?).map Prod.fst).getD 0 → x.toNat % 256 < field e 12 2 →
      ReadsImage s2 (s2.launch.ovimg + 16 + 16 * s2.launch.ovs.length + 4 * (field e 8 4 + x.toNat % 256)) 4 s3 o [] →
      field o 0 4 < field e 4 4 →
      ∃ t, exec (.ovcall d a) s = .next t ∧ t.regs.pc = BitVec.ofNat 18 (i * 2 ^ 16 + field o 0 4) ∧
        GivesS s3.regs d (BitVec.ofNat 32 (s3.ownOverlay * 2 ^ 24 + (nextPc s.regs.pc).toNat)) t.regs ∧
        SameMemory s3 t)) ∧
  ∀ s a,
    let x := s.regs.s a
    let fits := (s.slotAt (x.toNat / 2 ^ 16 % 4)).holds = some (x.toNat / 2 ^ 24) ∧ x.toNat / 2 ^ 18 % 64 = 0 ∧
      x.toNat % 4 = 0
    Clear s { ops := [.s a 1 true], spec := false } →
    (fits → Completes (.ovret a) s 0 (x.setWidth 18) (SameRegs s.regs)) ∧
    (¬ fits → ∃ r, Traps (.ovret a) s r ∧ r.code = 0x09)

/-! ### Quorums and tickets -/

/-- A collective of the acting wave that nothing turns away (R316): its slot names an entry that is not poisoned. -/
def Sys2Proof.Machine.Joined (s : State) (slot : Nat) : Prop :=
  s.wave.slotByte slot ≠ 255 ∧ (s.quorumAt s.launch.ctx (s.wave.slotByte slot)).poison = none

/-- A vote of the acting wave: to the agreement unit of its home here; elsewhere the package's own unit gathers it, and
sends the home one message once every current member here has voted (R313). -/
def Sys2Proof.Machine.VoteSent (s t : State) (v : Vote) : Prop :=
  let e := s.quorumAt v.ctx v.entry
  let vs := tget e.gather v.ordinal [] ++ [v]
  if e.home = (s.ctxAt v.ctx).rank then t.votes = s.votes ++ [v] ∧ t.outbox = s.outbox
  else
    t.votes = s.votes ∧
    (vs.length + e.left < e.bound →
      t.outbox = s.outbox ∧ tget (t.quorumAt v.ctx v.entry).gather v.ordinal [] = vs) ∧
    (e.bound ≤ vs.length + e.left →
      t.outbox = s.outbox ++ [.vote e.home vs] ∧ tget (t.quorumAt v.ctx v.entry).gather v.ordinal [] = [])

/-- The departure of the acting wave told to the home (R327), after the votes that the package's own unit then has
complete. -/
def Sys2Proof.Machine.LeaveSent (s t : State) (v : Vote) : Prop :=
  let e := s.quorumAt v.ctx v.entry
  if e.home = (s.ctxAt v.ctx).rank then t.votes = s.votes ++ [v] ∧ t.outbox = s.outbox
  else t.votes = s.votes ∧ (t.quorumAt v.ctx v.entry).left = e.left + 1 ∧
    ∃ xs, t.outbox = s.outbox ++ xs ++ [.vote e.home [v]]

/-- R315 to R318: `cbr.any` and `cbr.all` with a result branch as any, or all, of the votes tell; without one they cast
their vote once and go on under speculation at the hinted side, the other side kept. `qbar` completes with a result and
waits without one. (That a collective synchronises once, at its cast, and how votes are gathered, is log 34; the watchdog,
which would be deferred, is off.) -/
def Sys2Proof.Machine.CollectiveBranchesRule : Prop :=
  ∀ s slot p off hint k any every rest,
    let tgt := target s.regs.pc off
    let next := nextPc s.regs.pc
    let q := s.wave.slotByte slot
    let branch := fun (i : Instr) (kind : Nat) (dir : Bool) =>
      ((s.member slot).res = .resolved k any every (some (s.site kind)) :: rest → (s.member slot).proxy = false →
        ∃ t, exec i s = .next t ∧ t.regs.pc = (if dir then tgt else next) ∧ SameRegs s.regs t.regs ∧ SameMemory s t ∧
          (t.member slot).res = rest ∧ (t.member slot).taken = dir) ∧
      ((s.member slot).res = [] → (s.member slot).cast = false → (s.member slot).proxy = false →
        (s.member slot).used = false → s.wave.performedAt .job = true →
        s.wave.deliverable PendTrap.access = none → MaySync s → s.regs.wdctl.toNat / 64 % 2 = 0 →
        ∃ t sp, exec i s = .next t ∧ t.regs.pc = (if hint then tgt else next) ∧
          SameRegs { s.regs with region := s.regs.region + 1 } t.regs ∧ SameMemory s t ∧
          t.wave.spec = some sp ∧ sp.slot = slot ∧ sp.hint = hint ∧ sp.taken = tgt ∧ sp.fall = next ∧
          sp.held = [] ∧ sp.deferred = none ∧ sp.base.pc = s.regs.pc ∧ (t.member slot).cast = true ∧
          VoteSent s t { ctx := s.launch.ctx, entry := q, ordinal := (s.member slot).ord, kind := .cast
                         member := s.memberOf s.cur, site := s.site kind
                         value := decide (s.regs.s p ≠ 0), code := 0 })
    Joined s slot → (s.member slot).asking = none →
    (Clear s { ops := [.s p 1 true], spec := false } →
      branch (.cbrAny hint slot p off) 0 any ∧ branch (.cbrAll hint slot p off) 1 every) ∧
    (Clear s { spec := false } →
      ((s.member slot).res = .resolved k any every (some (s.site 2)) :: rest → (s.member slot).proxy = false →
        ∃ t, exec (.qbar slot) s = .next t ∧ t.regs.pc = next ∧ SameRegs s.regs t.regs ∧ SameMemory s t ∧
          (t.member slot).res = rest) ∧
      ((s.member slot).res = [] → (s.member slot).cast = true →
        ∃ t, exec (.qbar slot) s = .next t ∧ t.wave.stall = 19 ∧ t.regs = s.regs ∧ t.votes = s.votes))

/-- R316, R322, R323, R376: a collective on the byte 255 raises PROTECTION, on a poisoned quorum QUORUM_ABORT with its
poisoner, at another site than its ordinal's COLLECTIVE_MISMATCH, after a timeout COLLECTIVE_TIMEOUT; shown of `qbar`.
-/
def Sys2Proof.Machine.CollectiveTrapsRule : Prop :=
  ∀ s slot,
    let q := s.wave.slotByte slot
    let code := fun (n : Nat) (info : List Word) => s.regs.priv = false → (s.member slot).asking = none →
      ∃ t r, exec (.qbar slot) s = .next t ∧ r.code = n ∧ r.info = 0 :: 0 :: info ∧
        Entered s.regs (liveLanes s) (s.launchAt s.wave.launch).hs r t.regs
    Clear s { spec := false } → s.wave.spec = none →
    (q = 255 → ∃ r, Traps (.qbar slot) s r ∧ r.code = 0x09) ∧
    (∀ p, q ≠ 255 → (s.quorumAt s.launch.ctx q).poison = some p →
      Traps (.qbar slot) s (mkTrap 0x20 [wrd q, wrd p.1, wrd p.2])) ∧
    (∀ k x rest, Joined s slot → (s.member slot).res = .mismatch k x :: rest →
      code 0x21 [wrd q, wrd k, wrd x, wrd (s.site 2)]) ∧
    ∀ k n c rest, Joined s slot → (s.member slot).res = .timeout k n c :: rest → code 0x22 [wrd q, wrd k, wrd n, wrd c]

/-- R326 to R328: `cvote` casts a proxy vote with the value of its operand; `qleave` gives the slot byte 255 and tells
the home; `qstat` reads the member's state. (How votes are gathered, and that a departure withdraws those gathered, is log
34.) -/
def Sys2Proof.Machine.QuorumInstructionsRule : Prop :=
  ∀ s slot,
    let q := s.wave.slotByte slot
    let vote : Vote :=
      { ctx := s.launch.ctx, entry := q, ordinal := (s.member slot).ord, kind := .proxy
        member := s.memberOf s.cur, site := 0, value := false, code := 0 }
    (∀ a, Clear s { priv := true, ops := [.s a 1 true], spec := false } → q ≠ 255 →
      ((s.member slot).proxy = true → Completes (.cvote a slot) s 0 (nextPc s.regs.pc) (SameRegs s.regs)) ∧
      (Joined s slot → (s.member slot).proxy = false → (s.member slot).cast = false → (s.member slot).used = false →
        s.wave.performedAt .job = true → MaySync s →
        ∃ t, exec (.cvote a slot) s = .next t ∧ t.regs.pc = nextPc s.regs.pc ∧ SameMemory s t ∧
          (t.member slot).proxy = true ∧ (t.member slot).pord = (s.member slot).ord ∧
          VoteSent s t { vote with value := decide (s.regs.s a ≠ 0) })) ∧
    (Clear s { spec := false } → slot < 4 → q ≠ 255 →
      ∃ t, exec (.qleave slot) s = .next t ∧ t.regs.pc = nextPc s.regs.pc ∧ t.wave.slotByte slot = 255 ∧
        (∀ j < 4, j ≠ slot → t.wave.slotByte j = s.wave.slotByte j) ∧ SameMemory s t ∧
        LeaveSent s t { vote with ordinal := 0, kind := .leave }) ∧
    (Clear s { spec := false } → q = 255 → Completes (.qleave slot) s 0 (nextPc s.regs.pc) (SameRegs s.regs)) ∧
    ∀ d, Clear s { ops := [.s d 1 false], spec := false } →
      Completes (.qstat d slot) s 0 (nextPc s.regs.pc) (GivesS s.regs d (s.qstatWord slot))

/-- R313, R321, R327: at its home a vote joins its ordinal; with the last current member's vote the ordinal resolves and
every voter is sent the result; a loss poisons the quorum; a departure lowers the membership. -/
def Sys2Proof.Machine.VoteArrivalsRule : Prop :=
  ∀ s (v : Vote),
    let e := s.quorumAt v.ctx v.entry
    let o := tget e.ords v.ordinal {}
    let entry := fun (t : State) => t.quorumAt v.ctx v.entry
    let votes := o.votes ++ [(v.member, v.site, v.value, false)]
    (v.kind = .cast → e.poison = none → tfind? e.proxied v.ordinal = none → o.mismatch = false → (∀ x, o.site = some x → x = v.site) →
      (o.votes.length + 1 < e.current →
        ∃ t, exec (.voteArrival v) s = .next t ∧ (tget (entry t).ords v.ordinal {}).votes = votes ∧
          (tget (entry t).ords v.ordinal {}).site = some v.site ∧ t.results = s.results ∧ SameMemory s t) ∧
      (e.current ≤ o.votes.length + 1 → (∀ x ∈ votes, x.1 / 2 ^ 28 % 16 = (s.ctxAt v.ctx).rank) →
        ∃ t, exec (.voteArrival v) s = .next t ∧ tfind? (entry t).ords v.ordinal = none ∧
          t.results = s.results ++ votes.map fun x => (x.1 / 2 ^ 32, v.entry,
            .resolved v.ordinal (votes.any fun y => y.2.2.1) (votes.all fun y => y.2.2.1) (some v.site)))) ∧
    (v.kind = .leave → e.ords = [] →
      ∃ t, exec (.voteArrival v) s = .next t ∧ (entry t).departed = e.departed + 1 ∧ t.results = s.results) ∧
    (v.kind = .lost → ∃ t, exec (.voteArrival v) s = .next t ∧ (entry t).poison.isSome = true)

/-- R313, R318, R323, R326: a result reaches the member that voted, whose next ordinal it opens; a member that
speculated past a collective and finds its direction resolved goes on from where it is; one that finds the other direction,
or another site, goes back to it with the registers of before; an ordinal whose timer has run out tells the members here
that have cast at it, and the other ranks, with the count of the votes; votes gathered here for too long go to their home
with word of it. (That every package tells its own members, and keeps the time of what it gathers, is log 34.) -/
def Sys2Proof.Machine.VoteResultsRule : Prop :=
  (∀ s ctx w q k any every site i,
    let v := s.waveAt w
    let r := VoteRes.resolved k any every site
    v.spec = none → v.alive = true → v.resultSlot q k = some i → (tget v.quor i {}).asking ≠ some k →
    (s.quorumAt (s.launchAt v.launch).ctx q).poison = none →
    ∃ t, exec (.voteResult w ⟨ctx, q⟩ r) s = .next t ∧ (t.waveAt w).regs = v.regs ∧ SameMemory s t ∧
      (tget (t.waveAt w).quor i {}).ord = k + 1 ∧ (tget (t.waveAt w).quor i {}).cast = false ∧
      (tget (t.waveAt w).quor i {}).res = (tget v.quor i {}).res ++ [r]) ∧
  (∀ s ctx w q k any every site rest sp,
    let v := s.waveAt w
    let m := tget v.quor sp.slot {}
    let r := VoteRes.resolved k any every site
    let dir := resTaken r (m.mine / 2 ^ 22)
    v.spec = some sp → m.res = r :: rest → s.specRoom v sp = true →
    (site = some m.mine → dir = sp.hint → sp.tracked = [] → sp.peeks = [] → sp.held = [] → sp.deferred = none →
      ∃ t, exec (.voteResult w ⟨ctx, q⟩ r) s = .next t ∧ (t.waveAt w).spec = none ∧ SameMemory s t ∧
        (t.waveAt w).regs = v.regs ∧ (tget (t.waveAt w).quor sp.slot {}).res = rest) ∧
    (site = some m.mine → dir ≠ sp.hint →
      ∃ t, exec (.voteResult w ⟨ctx, q⟩ r) s = .next t ∧ (t.waveAt w).spec = none ∧ SameMemory s t ∧
        (t.waveAt w).regs.pc = (if dir then sp.taken else sp.fall) ∧
        (t.waveAt w).regs.sregs = sp.base.sregs ∧ (t.waveAt w).regs.vregs = sp.base.vregs) ∧
    (site ≠ some m.mine → ∃ t, exec (.voteResult w ⟨ctx, q⟩ r) s = .next t ∧ (t.waveAt w).spec = none ∧
      (t.waveAt w).regs = sp.base ∧ SameMemory s t)) ∧
  ∀ s ctx entry k o,
    let e := s.quorumAt ctx entry
    let r := VoteRes.timeout k o.votes.length e.current
    (e.ords = [(k, o)] → e.due = [] → o.deadline ≠ 0 → o.deadline ≤ s.cycle →
      ∃ t, exec (.collectiveTimeout ctx entry) s = .next t ∧
        (∀ x ∈ s.waves, x.2.alive = true → (s.launchAt x.2.launch).ctx = ctx →
          (∃ i < 4, x.2.slotByte i = entry ∧ (tget x.2.quor i {}).ord = k ∧ (tget x.2.quor i {}).cast = true) →
          (x.1, entry, r) ∈ t.results) ∧
        t.outbox = s.outbox ++ ((s.ctxAt ctx).peers.map fun p => .voteResult p ctx 0 entry r) ∧
        (tget (t.quorumAt ctx entry).ords k {}).votes = (o.votes.filter fun v => v.2.2.2) ∧
        (tget (t.quorumAt ctx entry).ords k {}).deadline = 0 ∧ SameMemory s t) ∧
    ∀ d, e.ords = [] → e.due = [(k, d)] → d ≤ s.cycle →
      ∃ t x, exec (.collectiveTimeout ctx entry) s = .next t ∧ SameMemory s t ∧
        t.outbox = s.outbox ++ [.vote e.home (tget e.gather k [] ++ [x])] ∧ x.kind = .expire ∧ x.ordinal = k ∧
        x.entry = entry ∧ (t.quorumAt ctx entry).due = [] ∧ tget (t.quorumAt ctx entry).gather k [] = []

/-- R329 to R331: `tkwait` completes once its block's ticket is current, `tkpass` passes it on over every pass recorded
after it; outside an ordered launch both raise PROTECTION, behind a broken ticket TICKET_BROKEN. (That waves of one block go
on in the order of their index is log 31.) -/
def Sys2Proof.Machine.TicketsRule : Prop :=
  ∀ s, Clear s { spec := false } →
    let l := s.launch
    let b := s.wave.blk % 2 ^ 32
    let whole := l.ordered = true ∧ ∀ x ∈ l.broken, b ≤ x
    let first := s.earlierWoken 18 (fun _ w => decide (w.blk = s.wave.blk)) = false
    (l.ordered = false → ∀ i ∈ [Instr.tkwait, .tkpass], ∃ r, Traps i s r ∧ r.code = 0x09) ∧
    (∀ x ∈ l.broken, l.ordered = true → x < b → (∀ y ∈ l.broken, x ≤ y) →
      s.earlierWoken 18 (fun _ w => decide (x < w.blk % 2 ^ 32)) = false →
      ∀ i ∈ [Instr.tkwait, .tkpass], Traps i s (mkTrap 0x23 [wrd x, wrd b])) ∧
    (whole → l.ordc = b → first → MaySync s →
      (∃ t, exec .tkwait s = .next t ∧ RegionEnds s t ∧ SameMemory s t ∧ t.launch.ordc = b) ∧
      (s.wave.performedAt .pkg = true → s.wave.deliverable PendTrap.access = none →
        ∃ t, exec .tkpass s = .next t ∧ RegionEnds s t ∧ SameMemory s t ∧
        b < t.launch.ordc ∧ t.launch.ordc ∉ l.recorded ∧ ∀ x, b < x → x < t.launch.ordc → x ∈ l.recorded)) ∧
    (whole → l.ordc < b → Waits .tkwait s 18 b ∧ Waits .tkpass s 18 b) ∧
    (whole → b < l.ordc → Completes .tkpass s 0 (nextPc s.regs.pc) (SameRegs s.regs))
/-! ### Completions of a wave -/

/-- Nothing changes but the record of one wave. -/
def Sys2Proof.Machine.OnlyWaveAt (s t : State) (w : Nat) : Prop := t = s.updWave w fun _ => t.waveAt w

/-- R28, R32, R33, R38, R207, R277, R305, R306: the first load of a wave, complete, is written in its lanes to the
registers it is for; a peer's answer to an access answers its pass, values and poison; a store that is performed leaves
ST; a draining wave with nothing outstanding, of a block with no parked wave, is Exited, without tags, once the homes of its
tags at other ranks have answered that they are gone; an instruction that brings the progress counter of an enabled watchdog
to its limit leaves WATCHDOG pending, or deferred on a speculated path, and it is taken at the wave's boundary. (That a
region's end is answered is log 33.) -/
def Sys2Proof.Machine.WaveCompletionsRule : Prop :=
  (∀ s w ld rest,
    let v := s.waveAt w
    v.loads = ld :: rest → ld.remote = false → ld.dests.Pairwise (fun x y => x.1 ≠ y.1) →
    ∃ t, exec (.loadComplete w none []) s = .next t ∧ OnlyWaveAt s t w ∧ (t.waveAt w).loads = rest ∧
      (t.waveAt w).regs.sregs = v.regs.sregs ∧ (t.waveAt w).regs.pc = v.regs.pc ∧
      (∀ i d l, ld.dests[i]? = some d → l < 64 → lane (tget (t.waveAt w).regs.vregs d.1 []) l =
        if bitOf ld.mask l && (decide (i = 0) || !bitOf ld.narrow l) then lane d.2 l
        else lane (tget v.regs.vregs d.1 []) l) ∧
      ∀ k l, (∀ d ∈ ld.dests, d.1 ≠ k) → l < 64 →
        lane (tget (t.waveAt w).regs.vregs k []) l = lane (tget v.regs.vregs k []) l) ∧
  (∀ s w (a : Answer) vals p, a.code = 0 → (s.waveAt w).passOf a.rank a.seq = some p →
    ∀ x ∈ [(Instr.loadComplete w (some a) vals, vals), (.storePerformed { w := w, reply := some a }, [])],
    ∃ t, exec x.1 s = .next t ∧ OnlyWaveAt s t w ∧ (t.waveAt w).regs = (s.waveAt w).regs ∧
      let v := (s.waveAt w).answer a.rank a.seq x.2 (a.bad.map fun l => (l, p.info l))
      (t.waveAt w).loads = v.loads ∧ (t.waveAt w).stores = v.stores) ∧
  (∀ s w st rest, (s.waveAt w).stores = st :: rest → st.passes = [] →
    ∃ t, exec (.storePerformed { w := w }) s = .next t ∧ OnlyWaveAt s t w ∧ (t.waveAt w).stores = rest) ∧
  (∀ s w, let v := s.waveAt w
    v.life = .draining → v.loads = [] → v.stores = [] → v.tileOps = [] → s.boundary v = none → v.ending = [] →
    v.homes ≠ [] → (∀ a ∈ s.answers, a.seq ≠ s.fresh) → ∃ t, exec (.exitDrain w) s = .next t ∧ (t.waveAt w).life = .draining ∧ (t.waveAt w).homes = [] ∧
      (t.waveAt w).ending = (v.homes.map fun r => (r, s.fresh)) ∧ SameMemory s t ∧
      ∃ rs, t.outbox = s.outbox ++ rs ∧ rs.length = v.homes.length ∧
        ∀ x ∈ rs, ∃ r q, r ∈ v.homes ∧ x = .remote r q ∧ q.stage = .ended ∧ q.ident = v.ident.toNat ∧ q.seq = s.fresh) ∧
  (∀ s w, let b := s.blockAt (s.waveAt w).blk
    (s.waveAt w).life = .draining → (s.waveAt w).drained = true → s.boundary (s.waveAt w) = none →
    (s.waveAt w).homes = [] → (s.waveAt w).ending = [] →
    (∀ k ∈ b.waveKeys, (s.waveAt k).life ≠ .parked) → (∀ c ∈ b.cores, (s.coreAt c).outgoing = false) →
    ∃ t, exec (.exitDrain w) s = .next t ∧ (t.waveAt w).life = .exited ∧ SameMemory s t ∧
      (∀ q < 4, (t.waveAt w).slotByte q = 255) ∧
      ∀ e ∈ t.tags, e.2.writer.all (fun g => g.party ≠ .wave w) = true ∧ ∀ g ∈ e.2.live, g.party ≠ .wave w) ∧
  (∀ s, Clear s {} →
    let limit := 2 ^ (min (max (s.regs.wdctl.toNat % 64) 16) 40)
    s.regs.wdctl.toNat / 64 % 2 = 1 → ∃ t, exec .nop s = .next t ∧ (limit ≤ t.regs.progcnt →
      (s.wave.spec = none → (∀ x ∈ s.wave.pend, x.trap.code ≠ 0x1A) →
        ∃ p, t.wave.pend = s.wave.pend ++ [p] ∧ p.trap.code = 0x1A) ∧
      ∀ sp, s.wave.spec = some sp → sp.deferred = none →
        ∃ sp' p, t.wave.spec = some sp' ∧ sp'.deferred = some p ∧ p.code = 0x1A)) ∧
  ∀ s w x, let v := s.waveAt w
    v.life = .resident → s.boundary v = some x → x.trap.code = 0x1A →
    ∃ t p, exec (.watchdog w) s = .next t ∧ OnlyWaveAt s t w ∧ p.code = 0x1A ∧ p.async = true ∧ p.rst = false ∧
      (t.waveAt w).life = .resident ∧ (t.waveAt w).pend = v.pend.erase x ∧
      Entered v.regs v.live (s.launchAt v.launch).hs p (t.waveAt w).regs

/-- What the package writes at an address of a context's space, within one 4 KiB page of it (R369, R403, R410): the bytes
are there and nothing else has changed when the page translates and no earlier write of the context waits; the write joins
those that wait when one does, or when the page is still to be found. -/
def Sys2Proof.Machine.PostDone (s t : State) (p : Post) : Prop :=
  let n := p.bytes.length
  let party := Party.remote p.ctx 1
  p.addr % 4096 + n ≤ 4096 → 0 < n → p.dev = false →
  ((∀ x ∈ s.posts, x.ctx ≠ p.ctx) → s.frbWaits party = false →
    (∀ tier pa, (s.look party p.ctx p.addr true).place = some (tier, pa) →
      (∀ i < n, byteAt t tier (pa + i) = p.bytes.getD i 0) ∧
      ∀ tr a, (min tr 2 ≠ min tier 2 ∨ a < pa ∨ pa + n ≤ a) → byteAt t tr a = byteAt s tr a) ∧
    ((s.look party p.ctx p.addr true).waits.isSome = true → p ∈ t.posts ∧
      ∀ tr a, byteAt t tr a = byteAt s tr a)) ∧
  ((∃ x ∈ s.posts, x.ctx = p.ctx) → t.posts = s.posts ++ [p] ∧ ∀ tr a, byteAt t tr a = byteAt s tr a)

/-- R302, R386, R411 to R413: a drive's completion ends the command, leaves the lane's status and block count for the
reply, and for a Read writes its buffer, shown of one within a 4 KiB page; with an NVMe status the lane reads 3 with that status; a command that a
revocation aborted ends with 2 and delivers nothing. -/
def Sys2Proof.Machine.StorageCompletionsRule : Prop :=
  ∀ s w lane status blocks data x,
    s.storage.find? (fun x => x.wave = w && decide (x.lane = lane)) = some x → (s.waveAt w).sysWait.isSome = true →
    s.revokes = [] →
    let ends := fun (t : State) (st n : Nat) =>
      (t.waveAt w).sysRes = (s.waveAt w).sysRes ++ [(lane, st, n)] ∧ t.storage = s.storage.erase x
    (x.aborted = true → ∃ t, exec (.storageCompletion w lane status blocks data) s = .next t ∧ ends t 2 0 ∧
      SameMemory s t) ∧
    (x.aborted = false → status ≠ 0 → ∃ t, exec (.storageCompletion w lane status blocks data) s = .next t ∧
      ends t (3 + status % 2 ^ 16 * 2 ^ 16) blocks ∧ SameMemory s t) ∧
    (x.aborted = false → status = 0 → ∃ t, exec (.storageCompletion w lane status blocks data) s = .next t ∧
      ends t 0 blocks ∧ (x.write = true → SameMemory s t) ∧
      (x.write = false → let bs := (byteList data).take (x.count * Config.blockBytes x.drive x.nsid)
        PostDone s t { ctx := x.ctx, addr := x.addr, bytes := bs }))

/-- R36, R188, R377, R380, R381: at its deadline a wave that has not been pre-empted takes PREEMPT, its speculation
rolled back; a parking wave with nothing outstanding is parked; a Saved block whose place is free again is Resident,
its waves in their handlers with PREEMPT, rst set, once its image and the overlays of its slots can be read. (What a
restored wave keeps beyond R381 is log 29.) -/
def Sys2Proof.Machine.PreemptionRule : Prop :=
  (∀ s l w v, tfind? s.waves w = some v → v.launch = l → v.overdue s.cycle = true →
    ∃ t p, exec (.preemptDeadline l) s = .next t ∧ SameMemory s t ∧ (t.waveAt w).spec = none ∧
      (t.waveAt w).regs = v.rollBack.regs ∧ (t.waveAt w).pend = v.pend ++ [p] ∧ p.trap.code = 0x3C) ∧
  (∀ s w, s.parkReady (s.waveAt w) = true →
    ∃ t, exec (.parkComplete w) s = .next t ∧ (t.waveAt w).tileOps = [] ∧
      ((t.waveAt w).life = .parked ∨ (t.waveAt w).life = .saved) ∧
      (t.blockAt (s.waveAt w).blk).msts = (s.blockAt (s.waveAt w).blk).msts ++
        ((s.waveAt w).tileOps.filter fun o => !o.done).map fun o => (w, o)) ∧
  ∀ s blk,
    let b := s.blockAt blk
    s.restorable blk = true → s.imageBad b = false → s.frbWaits (imageParty b.launch) = false →
    s.imageWaits b.launch (b.img.toList.map fun x => (x.1, s.imageSize b)) (b.kept.flatMap Prod.snd).eraseDups = [] →
    ∃ t, exec (.blockRestore blk) s = .next t ∧ (t.blockAt blk).st = .resident ∧ SameMemory s t ∧
      ∀ w ∈ b.waveKeys, (s.waveAt w).life = .saved →
        let r := (t.waveAt w).regs
        (t.waveAt w).life = .resident ∧ r.priv = true ∧ r.tcode = 0x33C#32 ∧
        r.pc = BitVec.ofNat 18 ((s.launchAt b.launch).hs * 0x10000) ∧ r.ctxs = (s.waveAt w).regs.ctxs ∧
        r.retired = (s.waveAt w).regs.retired ∧ r.sregs = [] ∧ r.vregs = []

/-- R8, R16, R22, R37, R39, R335 to R337, R342: the next block of a launch is placed with each wave at pc 0 of slot 0
and all its lanes active, once the overlays of a core that is new to the launch can be read; a block all of whose waves are
Exited leaves its cores and counts as retired; a core whose quantum ends is switched out when another has work, else its
quantum starts again. -/
def Sys2Proof.Machine.BlockLifeRule : Prop :=
  (∀ s l b p, s.placeable l = some (b, p) →
    let k := blockKey l b
    let x := s.launchAt l
    (∀ c ∈ p.cores, (s.coreAt c).loaded = some l) ∨
      (s.frbWaits (imageParty l) = false ∧ s.imageWaits l [] x.preloads = []) →
    ∃ t, exec (.blockPlace l) s = .next t ∧ SameMemory s t ∧ (t.launchAt l).nplaced = x.nplaced + 1 ∧
      (t.blockAt k).st = .resident ∧ (t.blockAt k).cores = p.cores ∧ (t.blockAt k).nw = x.n ∧
      ∀ i a, p.waves[i]? = some a →
        let w := t.waveAt (waveKey k i)
        w.life = .resident ∧ w.core = a.1 ∧ w.part = a.2.1 ∧ w.slot = a.2.2 ∧ w.index = i ∧ w.blk = k ∧
        w.regs = { em := widthMask x.width, ctxs := s.startScalars x b i a.1 }) ∧
  (∀ s blk,
    let b := s.blockAt blk
    s.retirable blk = true →
    ∃ t, exec (.blockRetire blk) s = .next t ∧ (t.blockAt blk).cores = [] ∧
      (t.blockAt blk).st = (if b.st = .removed then .removed else .retired) ∧ (t.blockAt blk).lines = [] ∧
      (t.launchAt b.launch).nretired = (s.launchAt b.launch).nretired + 1 ∧
      t.hbm = s.hbm ∧ t.ddr = s.ddr ∧ t.hostMem = s.hostMem) ∧
  ∀ s core ln, s.launchOn core = some ln →
    ((∀ x ∈ s.group core, x ≠ core → s.hasWork ln x = false) →
      ∃ t, exec (.quantumEnd core) s = .next t ∧ (t.coreAt core).qends = s.cycle + s.quantum ln ∧ SameMemory s t) ∧
    (∀ x ∈ s.group core, x ≠ core → s.hasWork ln x = true → (s.coreAt core).qends ≠ 0 →
      (∃ b ∈ s.blocks, b.2.cores.contains core = true ∧ b.2.st = .resident) →
      (∀ b ∈ s.blocks, b.2.cores.contains core = true → b.2.st = .resident →
        ∃ k ∈ b.2.waveKeys, (s.waveAt k).life = .resident) →
      ∃ t, exec (.quantumEnd core) s = .next t ∧ (t.coreAt core).outgoing = true ∧ SameMemory s t ∧
        ∀ w v, tfind? s.waves w = some v → v.core = core → v.life = .resident → (t.waveAt w).preq.isSome = true)

/-! ### Commands -/

/-- A command of a queue that is at work on the state `y`: the one in progress, or the entry at the head, which is taken
now (R333, R399, R405, R406). -/
def Sys2Proof.Machine.AtWork (s : State) (ctx q op : Nat) (y : State) (x : Cmd) : Prop :=
  x.op = op ∧
  (((s.queueAt ctx q).busy = some x ∧ y = s) ∨
    ((s.queueAt ctx q).busy = none ∧ s.entryWaits ctx q = true ∧
      ∃ s1 ss, s.hostAccept ctx q (hostParts (s.queueAt ctx q).entry 64 false) = .ok s1 ss ∧
        let ent := s1.headEntry ctx q
        s1.mayStart ctx q ent = true ∧ fld ent 0 1 = op ∧ badEntry ent = none ∧ x = (s1.takeCmd ctx q ent).2 ∧
        y = if op = 1 then (s1.takeCmd ctx q ent).1 else (s1.takeCmd ctx q ent).1.journal ctx q x 2 0))

/-- The state `u` with a command complete (R403): its record written at the ring's next slot, or waiting for the slot's
page, the record counted, no command in progress. -/
def Sys2Proof.Machine.Finished (u t : State) (ctx q : Nat) (x : Cmd) (status d0 d1 : Nat) : Prop :=
  let k := u.queueAt ctx q
  (t.queueAt ctx q).written = k.written + 1 ∧ (k.busy = some x → (t.queueAt ctx q).busy = none) ∧
  (x.jrn = none → PostDone u t
    { ctx := ctx, queue := some q, addr := k.crbase.toNat + 32 * (k.written % k.size), bytes := x.record status d0 d1 })

/-- R40, R333, R402, R403, R406, R429, R432: what COPY, SIGNAL, WAITSIG, FLUSH and INVAL do when their words translate, each
completing with OK in its own time. A SIGNAL of a poisoned word adds nothing and does not end with OK, and a WAITSIG of one
goes on waiting (the status is free: log 37). (That FLUSH and INVAL have no memory to write is log 10.) -/
def Obligations.MemoryCommands : Prop :=
  ∀ s ctx q y x s1 ss,
    let reads := fun (n : Nat) => y.hostAccept ctx q (hostParts (x.arg 0) n false) = .ok s1 ss
    let ok := fun (i : Instr) (u : State) => ∃ t, exec i s = .next t ∧ Finished u t ctx q x 0 0 0
    let clean := ∀ z ∈ ss, s1.poisonAt z.tier z.pa = false
    (AtWork s ctx q 2 y x →
      y.hostAccept ctx q (hostParts (x.arg 0) (x.arg 2) false ++ hostParts (x.arg 1) (x.arg 2) true) = .ok s1 ss →
      ∃ u, ok (.copy ctx q) u ∧ ∀ tier a, byteAt u tier a =
        afterCells (spanCells (ss.filter fun z => z.part.2.2)
          (s1.spanBytes (ss.filter fun z => !z.part.2.2))) tier a (byteAt s1 tier a)) ∧
    (AtWork s ctx q 3 y x → y.hostAccept ctx q (hostParts (x.arg 0) 8 true) = .ok s1 ss →
      (clean → ∃ u, ok (.signal ctx q) u ∧ ∀ tier a, byteAt u tier a =
        afterCells (spanCells ss (leBytes 8 (leNat (s1.spanBytes ss) + x.arg 1))) tier a (byteAt s1 tier a)) ∧
      (¬clean → ∃ t u st d0 d1, exec (.signal ctx q) s = .next t ∧ Finished u t ctx q x st d0 d1 ∧ st ≠ 0 ∧
        ∀ tier a, byteAt u tier a = byteAt s1 tier a)) ∧
    (AtWork s ctx q 4 y x → reads 8 → ∃ t, exec (.waitsig ctx q) s = .next t ∧ t = s1) ∧
    ((s.queueAt ctx q).busy = some x → x.op = 4 → y = s → reads 8 →
      (x.arg 1 ≤ leNat (s1.spanBytes ss) → clean → ok (.waitsigSatisfied ctx q) s1) ∧
      (leNat (s1.spanBytes ss) < x.arg 1 ∨ ¬clean → exec (.waitsigSatisfied ctx q) s = .next s1)) ∧
    (AtWork s ctx q 5 y x → reads (x.arg 1) → ok (.flush ctx q) s1) ∧
    (AtWork s ctx q 6 y x → reads (x.arg 1) → ok (.inval ctx q) (s1.dropSpans ss))

/-- The member bitmaps of a launch read one after another (R401). -/
def Sys2Proof.Machine.MapsRead (ctx q : Nat) : List (Nat × Nat × Nat) → Tbl (List Byte) → State → State → Tbl (List Byte) → Prop
  | [], m, s, s', m' => s' = s ∧ m' = m
  | (slot, a, n) :: rest, m, s, s', m' => ∃ s1 ss, s.hostAccept ctx q (hostParts a n false) = .ok s1 ss ∧
    MapsRead ctx q rest (tset m slot (s1.spanBytes ss)) s1 s' m'

/-- R400: an entry whose bytes are not as R400 has them completes at once with CMD_INVALID and the offset of the first bad
field, whichever command it would be. -/
def Sys2Proof.Machine.MalformedEntryRule : Prop :=
  ∀ s ctx q s1 ss off,
    (s.queueAt ctx q).busy = none → s.entryWaits ctx q = true →
    s.hostAccept ctx q (hostParts (s.queueAt ctx q).entry 64 false) = .ok s1 ss →
    let ent := s1.headEntry ctx q
    let y := s1.takeCmd ctx q ent
    s1.mayStart ctx q ent = true → badEntry ent = some off →
    let bad := fun (i : Instr) => ∃ t, exec i s = .next t ∧ Finished y.1 t ctx q y.2 1 off 0 ∧
      (t.queueAt ctx q).head = (s1.queueAt ctx q).head + 1 ∧ t.launches = s1.launches
    (fld ent 0 1 ≤ 1 ∨ 8 < fld ent 0 1 → bad (.launch ctx q)) ∧ (fld ent 0 1 = 2 → bad (.copy ctx q)) ∧
    (fld ent 0 1 = 3 → bad (.signal ctx q)) ∧ (fld ent 0 1 = 4 → bad (.waitsig ctx q)) ∧
    (fld ent 0 1 = 5 → bad (.flush ctx q)) ∧ (fld ent 0 1 = 6 → bad (.inval ctx q)) ∧
    (fld ent 0 1 = 7 → bad (.checkpointSave ctx q)) ∧ (fld ent 0 1 = 8 → bad (.ownership ctx q))

/-- R8, R310, R334, R347, R400, R401, R403, R404: a well-formed LAUNCH whose checks hold becomes a launch whose blocks
are all Pending, and completes later; a bad field of its descriptor, a grid of no or too many blocks, a handler slot
that an overlay is preloaded into complete it at once with their status. (Where the records after the kernel record lie is
log 8; what of them is checked, and with which status, is log 37.) -/
def Sys2Proof.Machine.LaunchCommandRule : Prop :=
  ∀ s ctx q y x s1 ss s2 hs s3 rs,
    let d := s1.spanBytes ss
    let head := s2.spanBytes hs
    let krec := fld d 0 8
    let k := makeKernel head (s3.spanBytes rs)
    let l := makeLaunch ctx q x d k
    let ends := fun (st d0 d1 : Nat) => ∃ t u, exec (.launch ctx q) s = .next t ∧ Finished u t ctx q x st d0 d1 ∧
      t.launches = s3.launches
    AtWork s ctx q 1 y x → y.hostAccept ctx q (hostParts (x.arg 0) 192 false) = .ok s1 ss →
    s1.hostAccept ctx q (hostParts krec 32 false) = .ok s2 hs →
    s2.hostAccept ctx q (hostParts (krec + 32) (16 * fld head 10 2 + 8 * fld head 24 1) false) = .ok s3 rs →
    (∀ off, badDescriptor d k = some off → ends 1 off 0) ∧
    (badDescriptor d k = none →
      (l.gridOk = false → ends 2 0 0) ∧
      ∀ s4 maps, l.gridOk = true → MapsRead ctx q (bitmaps l d k) [] s3 s4 maps →
        ((l.ovs.any fun o => o.2 = some l.hs) = true → ends 8 0 0) ∧
        (s4.launchCheck l (bindings l d k maps) = none →
          ∃ t, exec (.launch ctx q) s = .next t ∧ t.nextLaunch = s4.nextLaunch + 1 ∧
            (t.queueAt ctx q).written = (s4.queueAt ctx q).written ∧ (t.queueAt ctx q).busy = none ∧
            let n := t.launchAt s4.nextLaunch
            n.complete = false ∧ n.nplaced = 0 ∧ n.nretired = 0 ∧ n.blocks = fld d 24 4 * fld d 28 4 * fld d 32 4 ∧
            n.n = fld d 36 2 ∧ n.hs = fld d 38 1 ∧ n.args = fld d 48 8 ∧ n.width = fld k.head 4 1 ∧
            n.sigaddr = fld d 160 8))

/-- R40, R347, R403, R406, R432: a launch all of whose blocks have retired adds 1 to its signal word and completes with OK,
or with ABORTED and the code when one of its blocks was removed; with its signal word poisoned it adds nothing and does not
end with OK (the status is free: log 37). -/
def Sys2Proof.Machine.LaunchEndRule : Prop :=
  ∀ s ln,
    let l := s.launchAt ln
    l.ended = true → l.imageTag = none → l.broken = [] → l.copyFail = none →
    let st := if l.aborted then 12 else 0
    let d := if l.aborted then l.abortCode else 0
    let ends := fun (u : State) (st d0 d1 : Nat) => ∃ t u', exec (.launchComplete ln) s = .next t ∧
      Finished u' t l.ctx l.queue l.cmd st d0 d1 ∧ (t.launchAt ln).complete = true ∧
      (u'.hbm = u.hbm ∧ u'.ddr = u.ddr ∧ u'.hostMem = u.hostMem)
    (l.sigaddr = 0 → ends s st d 0) ∧
    ∀ s1 ss, l.sigaddr ≠ 0 → s.hostAccept l.ctx l.queue (hostParts l.sigaddr 8 true) = .ok s1 ss →
      ((∀ z ∈ ss, s1.poisonAt z.tier z.pa = false) →
        ends (s1.writeCells (spanCells ss (leBytes 8 (leNat (s1.spanBytes ss) + 1)))) st d 0) ∧
      ((∃ z ∈ ss, s1.poisonAt z.tier z.pa = true) → ∃ st d0 d1, st ≠ 0 ∧ ends s1 st d0 d1)
/-! ### Ownership and queue registers -/

/-- A dropped write is counted, up to the register's width, and nothing else changes (R394). -/
def Sys2Proof.Machine.Dropped (i : Instr) (s : State) : Prop :=
  exec i s = .next { s with dropcnt := min (s.dropcnt + 1) (2 ^ 32 - 1) }

/-- R395 to R398, R419: a claim without an owner opens the election window, which its lowest claimant wins; the owner's
beat restarts its lease, another's is dropped; a lease that runs out leaves no owner; OWNERSHIP waits for its target,
which takes over by a claim, and completes with HANDOVER_LAPSED when the target does not claim in time or there is no
owner. (When a claim, a lapse and a handover's end count, each in a step of its own, is the model's choice, log 38.) -/
def Obligations.Ownership : Prop :=
  ∀ s m,
    let id := m % 2 ^ 16
    let claim := exec (.ownclaim m) s
    let like := fun (u : State) (c q : Nat) => SameMemory s u ∧ u.queueAt c q = s.queueAt c q
    (s.owned = false → s.openWin = false →
      claim = .next { s with openWin := true, claims := [id], winEnd := s.cycle + 14000 }) ∧
    (s.owned = false → s.openWin = true → claim = .next { s with claims := s.claims ++ [id] }) ∧
    (s.owned = true → s.giver = none → claim = .next s) ∧
    (∀ c q x, s.owned = true → s.giver = some (c, q) → (s.queueAt c q).busy = some x → x.op = 8 →
      (id = s.target → ∃ t u, claim = .next t ∧ like u c q ∧ Finished u t c q x 0 0 0 ∧ t.owner = id ∧
        t.owned = true ∧ t.giver = none ∧ t.beat = s.cycle) ∧
      (s.giveEnd ≤ s.cycle → ∃ t u, exec .handoverLapsed s = .next t ∧ like u c q ∧
        Finished u t c q x 15 s.target 0 ∧ t.giver = none ∧ t.owner = s.owner ∧ t.owned = true) ∧
      (s.leaseMs ≠ 0 → s.beat + s.leaseMs * 1400000 ≤ s.cycle → ∃ t u, exec .ownershipLapse s = .next t ∧
        like u c q ∧ Finished u t c q x 15 s.target 0 ∧ t.giver = none ∧ t.owned = false)) ∧
    (s.owned = true → s.owner = id → exec (.ownbeat m) s = .next { s with beat := s.cycle }) ∧
    ((s.owned = false ∨ s.owner ≠ id) → Dropped (.ownbeat m) s) ∧
    (∀ w ∈ s.claims, (∀ x ∈ s.claims, w ≤ x) → s.openWin = true → s.winEnd ≤ s.cycle →
      exec .electionWindowEnd s = .next
        { s with owned := true, owner := w, openWin := false, claims := [], beat := s.cycle }) ∧
    (s.owned = true → s.giver = none → s.leaseMs ≠ 0 → s.beat + s.leaseMs * 1400000 ≤ s.cycle →
      exec .ownershipLapse s = .next { s with owned := false }) ∧
    ∀ ctx q y x, AtWork s ctx q 8 y x → y.giver = none →
      (y.owned = true → exec (.ownership ctx q) s = .next
        { y with giver := some (ctx, q), target := fld x.ent 8 2, giveEnd := y.cycle + 100 * 1400000 }) ∧
      (y.owned = false → ∃ t, exec (.ownership ctx q) s = .next t ∧ Finished y t ctx q x 15 (fld x.ent 8 2) 0)

/-- R394, R399, R377: the writes of a queue's TAIL and CRHEAD move them as far as the ring allows; a pre-emption request
reaches every Resident wave of the launch its journal number names, and holds its Saved blocks until they are released;
a write by a master without the right is dropped. -/
def Obligations.QueueRegisters : Prop :=
  ∀ s ctx q m v,
    let x := s.queueAt ctx q
    let d := (v + x.size - x.crhead % x.size) % x.size
    (s.mayControl ctx m = true → x.size ≠ 0 → x.distance v < x.size →
      ∃ t, exec (.tail ctx q m v) s = .next t ∧ t.queueAt ctx q = { x with tail := v % x.size } ∧ SameMemory s t) ∧
    (x.size ≤ x.distance v → Dropped (.tail ctx q m v) s) ∧
    (x.size ≤ v → Dropped (.crhead ctx q m v) s) ∧
    (s.mayControl ctx m = true → v < x.size → x.crhead + d ≤ x.written →
      ∃ t, exec (.crhead ctx q m v) s = .next t ∧ t.queueAt ctx q = { x with crhead := x.crhead + d } ∧
        SameMemory s t) ∧
    (x.written < x.crhead + d → Dropped (.crhead ctx q m v) s) ∧
    (∀ ln, s.mayControl ctx m = true → s.launchByJournal ctx (v % 2 ^ 63) = some ln →
      ∃ t, exec (.preq ctx m v) s = .next t ∧
        (t.launchAt ln).hold = ((s.launchAt ln).hold || decide (v / 2 ^ 63 % 2 = 1)) ∧ SameMemory s t ∧
        ∀ k w, tfind? s.waves k = some w → w.launch = ln → w.life = .resident → (t.waveAt k).preq.isSome = true) ∧
    (∀ l, s.mayControl ctx m = true →
      s.launches.find? (fun l => l.2.ctx = ctx && l.2.cmd.jrn.any fun j => j.1 = v) = some l →
      ∃ t, exec (.prelease ctx m v) s = .next t ∧ (t.launchAt l.1).hold = false ∧ SameMemory s t) ∧
    (s.mayControl ctx m = false → ∀ i ∈ [Instr.tail ctx q m v, .crhead ctx q m v, .preq ctx m v, .prelease ctx m v],
      Dropped i s)

/-! ### Administration -/

/-- A request of the administration page that is at hand (R407). -/
def Sys2Proof.Machine.Asked (s : State) (op : Nat) : Prop := s.admBusy = true ∧ s.admOp = op

/-- A request ends with a result. -/
def Sys2Proof.Machine.Ended (i : Instr) (s : State) (res : Nat) (post : State → Prop) : Prop :=
  ∃ t, exec i s = .next t ∧ t.admBusy = false ∧ t.admRes = res ∧ post t

/-- R309, R362, R407, R408, R414: CREATE makes a context of its descriptor, a confidential one of a TDI in RUN alone;
DESTROY marks the context and stays at hand and, once nothing of it is left, removes what is tagged with it; QWRITE
writes an entry that no launch is bound to. An error of a TDI puts it into ERROR and destroys its context in the same way.
(Where a descriptor and a table lie is log 16.) -/
def Sys2Proof.Machine.ContextAdministrationRule : Prop :=
  ∀ s,
    let c := s.admArg 0
    let unchanged := fun (t : State) => t.ctxs = s.ctxs ∧ SameMemory s t
    (Asked s 1 → 64 ≤ c → Ended .create s 1 unchanged) ∧
    (Asked s 1 → c < 64 → (tfind? s.ctxs c).isSome = true → Ended .create s 2 unchanged) ∧
    (∀ d qs, Asked s 1 → c < 64 → tfind? s.ctxs c = none → s.deviceBytes (s.admArg 1) 64 = some d →
      s.deviceBytes (fld d 16 8) 2048 = some qs → descriptorOk d = true →
      (fld d 14 1 % 2 = 1 → s.tdiAt (fld d 15 1) ≠ .run → Ended .create s 3 unchanged) ∧
      ((fld d 14 1 % 2 = 0 ∨ s.tdiAt (fld d 15 1) = .run) → Ended .create s 0 fun t =>
        let x := t.ctxAt c
        (tfind? t.ctxs c).isSome = true ∧ x.ptbase.toNat = fld d 0 8 ∧ x.pasid = fld d 8 4 ∧
        x.submitter = fld d 12 2 ∧ x.conf = decide (fld d 14 1 % 2 = 1) ∧ x.debug = decide (fld d 14 1 / 2 = 1) ∧ x.tdi = fld d 15 1 ∧
        x.rank = fld d 36 1 ∧ x.jobSize = fld d 37 1 ∧
        ∀ i < 255, (tget x.quorums i {}).word.toNat = fld qs (8 * i) 8)) ∧
    (Asked s 2 → tfind? s.ctxs c = none → Ended .destroy s 1 unchanged) ∧
    (Asked s 2 → (tfind? s.ctxs c).isSome = true → c ∉ s.dying → (∀ v ∈ s.revokes, v.adm = true → 3 ≤ v.phase) →
      ∃ t, exec .destroy s = .next t ∧ c ∈ t.dying ∧ t.admBusy = true) ∧
    (Asked s 2 → (tfind? s.ctxs c).isSome = true → c ∈ s.dying → s.destroyed c = true →
      Ended .destroy s 0 fun t => tfind? t.ctxs c = none ∧ c ∉ t.dying ∧
        t.hbm = s.hbm ∧ t.ddr = s.ddr ∧ t.hostMem = s.hostMem ∧
        (∀ e ∈ t.tlb, e.ctx ≠ c) ∧ (∀ e ∈ t.frb, e.ctx ≠ c) ∧
        ∀ l ∈ t.launches, l.2.ctx ≠ c) ∧
    (∀ x, Asked s 3 → tfind? s.ctxs c = some x → c ∉ s.dying →
      let e : Quorum := { word := BitVec.ofNat 64 (s.admArg 2) }
      let good := s.admArg 1 < 255 ∧ s.admArg 2 < 2 ^ 42 ∧ e.members ≤ 196608 ∧ e.home < x.jobSize
      let free := ∀ l ∈ s.launches, l.2.ctx = c → l.2.complete = false → ∀ b ∈ l.2.quors, b.2.1 ≠ s.admArg 1
      (good → free → Ended .qwrite s 0 fun t => t.quorumAt c (s.admArg 1) = e ∧ SameMemory s t) ∧
      (good → ¬ free → Ended .qwrite s 4 unchanged) ∧ (¬ good → Ended .qwrite s 1 unchanged)) ∧
    ∀ tdi k x, s.ctxs.find? (fun c => c.2.conf && decide (c.2.tdi = tdi)) = some (k, x) →
      (k ∉ s.dying → s.tdiAt tdi ≠ .error →
        ∃ t, exec (.tdiError tdi) s = .next t ∧ k ∈ t.dying ∧ t.tdiAt tdi = .error) ∧
      (k ∈ s.dying → s.tdiAt tdi = .error → s.destroyed k = true → ∃ t, exec (.tdiError tdi) s = .next t ∧ tfind? t.ctxs k = none)

/-- R368, R407, R409, R411, R412: KEYSET and KEYCLR fill and clear a key slot, TLBINV drops the range's translations,
LEASE gives a storage lease, REVOKE takes its range away: at once when no command is on it, else 50 ms later by aborts,
1.05 s later by a reset of the drive's controller. (A range that its middle loses is log 17.) -/
def Sys2Proof.Machine.KeysAndLeasesRule : Prop :=
  (∀ s x,
    let c := s.admArg 0
    tfind? s.ctxs c = some x → c ∉ s.dying →
    (∀ key, Asked s 4 → x.conf = false → s.admArg 1 < 32 → s.admArg 3 < 2 ^ 32 → s.admArg 4 < 2 ^ 32 →
      s.admArg 3 ≠ s.admArg 4 → s.deviceBytes (s.admArg 2) 32 = some key →
      (tfind? x.keys (s.admArg 1) = none → Ended .keyset s 0 fun t =>
        tfind? (t.ctxAt c).keys (s.admArg 1) =
          some { key := key.map BitVec.toNat, rsalt := s.admArg 3, ssalt := s.admArg 4 }) ∧
      ((tfind? x.keys (s.admArg 1)).isSome = true → Ended .keyset s 5 fun t => t.ctxs = s.ctxs)) ∧
    (Asked s 4 → x.conf = true → Ended .keyset s 6 fun t => t.ctxs = s.ctxs) ∧
    (Asked s 5 → s.admArg 1 < 32 → s.keyInUse c (s.admArg 1) = false → Ended .keyclr s 0 fun t =>
      tfind? (t.ctxAt c).keys (s.admArg 1) = none ∧
        ∀ k, k ≠ s.admArg 1 → tfind? (t.ctxAt c).keys k = tfind? x.keys k) ∧
    (Asked s 6 → Ended .tlbinv s 0 fun t => ∀ e, e ∈ t.tlb ↔ e ∈ s.tlb ∧
      ¬ (e.ctx = c ∧ e.host = none ∧ e.page * 2 ^ e.shift < s.admArg 1 + s.admArg 2 ∧ s.admArg 1 < (e.page + 1) * 2 ^ e.shift)) ∧
    (Asked s 7 → s.admArg 1 < 64 → s.admArg 2 < 8 → s.admArg 6 < 4 →
      (tfind? x.leases (s.admArg 1) = none → Ended .lease s 0 fun t => tfind? (t.ctxAt c).leases (s.admArg 1) = some
        { drive := s.admArg 2, nsid := s.admArg 3, first := s.admArg 4, count := s.admArg 5, rights := s.admArg 6 }) ∧
      ((tfind? x.leases (s.admArg 1)).isSome = true → Ended .lease s 7 fun t => t.ctxs = s.ctxs)) ∧
    (∀ l, Asked s 8 → s.revokes = [] → tfind? x.leases (s.admArg 1) = some l →
      let v : Revocation :=
        { ctx := c, lease := s.admArg 1, first := s.admArg 2, count := s.admArg 3, since := s.admAt, adm := true }
      (∀ k ∈ s.storage, v.covers k = false) →
        Ended .revoke s 0 fun t => l.first + l.count ≤ s.admArg 2 + s.admArg 3 → s.admArg 2 ≤ l.first → 0 < l.count →
          tfind? (t.ctxAt c).leases (s.admArg 1) = none) ∧
    (∀ l k, Asked s 8 → s.revokes = [] → tfind? x.leases (s.admArg 1) = some l → k ∈ s.storage →
      let v : Revocation :=
        { ctx := c, lease := s.admArg 1, first := s.admArg 2, count := s.admArg 3, since := s.admAt, adm := true }
      v.covers k = true → ∃ t, exec .revoke s = .next t ∧ t.admBusy = true ∧ t.revokes = [v])) ∧
  ∀ s i v, s.revokes[i]? = some v →
    (v.phase = 0 → v.since + 50 * 1400000 ≤ s.cycle →
      ∃ t, exec (.revokeAbort i) s = .next t ∧ t.revokes[i]? = some { v with phase := 1 } ∧
        t.storage = s.storage.map (fun x => if v.covers x then { x with aborted := true } else x) ∧ SameMemory s t) ∧
    (v.phase = 1 → v.since + 1050 * 1400000 ≤ s.cycle →
      ∃ t, exec (.revokeControllerReset i) s = .next t ∧
        ∀ x ∈ t.storage, ∀ y ∈ s.storage, v.covers y = true → x.drive ≠ y.drive)

/-- R409, R416, R417: ATTEST writes the report of its context, with the nonce, to HBM4; SPDM answers with the same
report, with a certificate chain, and installs a key in a confidential context. (What signatures and chains hold is
free, log 9.) -/
def Sys2Proof.Machine.AttestationRule : Prop :=
  (∀ s x nonce,
    let c := s.admArg 0
    let a := s.admArg 2
    Asked s 9 → tfind? s.ctxs c = some x → c ∉ s.dying → s.deviceBytes (s.admArg 1) 32 = some nonce →
    exists? 0 a 16864 = true →
    Ended .attest s 0 fun t =>
      (∀ i < 256, t.hbm.read (a + i) = (s.reportBody c nonce).getD i 0) ∧
      (∀ j, (∀ i < 16864, j ≠ a + i) → t.hbm.read j = s.hbm.read j) ∧ t.ddr = s.ddr ∧ t.hostMem = s.hostMem) ∧
  ∀ s tdi c, s.ctxOfTdi tdi = some c →
    (∀ slot, ∃ t, exec (.spdmMessage (.certificate slot)) s = .next t ∧
      t.outbox = s.outbox ++ [.message .spdm (Config.certificate slot)] ∧ SameMemory s t) ∧
    (∀ nonce, ∃ t xs, exec (.spdmMessage (.measure tdi nonce)) s = .next t ∧
      t.outbox = s.outbox ++ [.message .spdm xs] ∧ SameMemory s t ∧
      xs.take 256 = (s.reportBody c ((List.range 32).map fun i => BitVec.ofNat 8 (nonce.getD i 0))).map BitVec.toNat) ∧
    ∀ slot key rsalt ssalt, key.length = 32 → slot < 32 → rsalt < 2 ^ 32 → ssalt < 2 ^ 32 → rsalt ≠ ssalt →
      tfind? (s.ctxAt c).keys slot = none →
      ∃ t, exec (.spdmMessage (.keyInstall tdi slot key rsalt ssalt)) s = .next t ∧
        t.outbox = s.outbox ++ [.message .spdm [0]] ∧
        tfind? (t.ctxAt c).keys slot = some { key := key, rsalt := rsalt, ssalt := ssalt }
/-! ### Checkpoints -/

/-- A command's read of a range that translates: the state after it and the bytes. -/
def Sys2Proof.Machine.HostReads (s : State) (ctx q a n : Nat) (s1 : State) (bs : List Byte) : Prop :=
  ∃ ss, s.hostAccept ctx q (hostParts a n false) = .ok s1 ss ∧ bs = s1.spanBytes ss

/-- A CHECKPOINT at work whose descriptor `d`, stripes `xs` and two manifests have been read (R437, R438). -/
def Sys2Proof.Machine.CheckpointRead (s : State) (ctx q : Nat) (x : Cmd) (d : List Byte) (xs : List Stripe) (ma mb : List Byte)
    (s1 : State) : Prop :=
  ∃ y u v a b c head rest head' rest' table, AtWork s ctx q 7 y x ∧
    HostReads y ctx q (x.arg 0) 64 u d ∧ badCheckpoint d (u.ctxAt ctx).conf = none ∧ fld d 24 8 ≠ 0 ∧
    HostReads u ctx q (fld d 24 8) (16 * fld d 32 4) v table ∧ stripeTable table (fld d 32 4) = some xs ∧
    HostReads v ctx q (fld d 0 8) 128 a head ∧
    HostReads a ctx q (fld d 0 8 + 128) (96 * manifestCount head) b rest ∧ ma = head ++ rest ∧
    HostReads b ctx q (fld d 8 8) 128 c head' ∧
    HostReads c ctx q (fld d 8 8 + 128) (96 * manifestCount head') s1 rest' ∧ mb = head' ++ rest'

/-- Stripes stored in order from a state's memory on (R439, R440, R442): each, read as the memory stands then, narrowed
and sealed under a key as it asks, is written at its place; `ds` are the digests of what is stored, `ss` the spans of each
stripe's reads and writes. -/
def Sys2Proof.Machine.StripesStored (base : Nat) (key : Option KeySlot) :
    Nat → List (Nat × Stripe) → List HostSpan → State → State → List (List Nat) → Prop
  | _, [], _, s, t, ds => t = s ∧ ds = []
  | counter, (off, x) :: ps, ss, s, t, ds =>
    let ss1 := ss.drop (hostParts x.addr x.len false).length
    let nw := (hostParts (base + off) (x.stored key.isSome) true).length
    let bytes := sealStripe key counter
      (narrowBytes x (s.spanBytes (ss.take (hostParts x.addr x.len false).length)))
    ∃ ds', ds = sha384 (natBytes bytes) :: ds' ∧
      StripesStored base key (counter + 1) ps (ss1.drop nw) (s.writeCells (spanCells (ss1.take nw) bytes)) t ds'

/-- The fields of a manifest (R438), with the digests `ds` of its stripes as they are stored. -/
def Sys2Proof.Machine.ManifestOf (m : List Byte) (enc : Bool) (seq slot counter cycle : Nat) (c : Machine.Ctx) (ps : List (Nat × Stripe))
    (ds : List (List Nat)) : Prop :=
  ∃ (head : List Byte) (recs : List (List Byte)), m = head ++ byteList (sha384 (natBytes (head ++ recs.flatten))) ++ recs.flatten ∧
    head.length = 80 ∧ recs.length = ps.length ∧ head.take 4 = byteList [0x44, 0x43, 0x4B, 0x50] ∧ fld head 4 2 = 1 ∧
    fld head 6 2 = enc.toNat ∧ fld head 8 8 = seq % 2 ^ 64 ∧ fld head 16 4 = ps.length % 2 ^ 32 ∧
    fld head 20 1 = c.rank % 256 ∧ fld head 21 1 = c.jobSize % 256 ∧ fld head 22 2 = slot % 2 ^ 16 ∧
    fld head 24 8 = cycle % 2 ^ 64 ∧
    ∀ i p r d, ps[i]? = some p → recs[i]? = some r → ds[i]? = some d →
      fld r 0 8 = p.2.addr % 2 ^ 64 ∧ fld r 8 4 = p.2.len % 2 ^ 32 ∧ fld r 12 4 = p.2.narrow.toNat ∧
      fld r 16 8 = p.1 % 2 ^ 64 ∧ fld r 24 8 = (if enc then (counter + i) % 2 ^ 64 else 0) ∧
      r.drop 32 = byteList d ++ leBytes 16 0

/-- R437 to R443: a save that has room writes its stripes, sealed where a key slot is named, and its manifest to the area
that does not hold the newest valid checkpoint, the manifest's magic last, and nothing else; it completes with OK, its
sequence number and its area; without room it completes with CKPT_SPACE, without a key that can be used with CKPT_KEY. A
restore from the one valid checkpoint writes its stripes back, whole; with none it completes with CKPT_NONE. (The
manifest's reads, and that what waits for a translation is asked again whole, are the model's choices, logs 37 and 54.) -/
def Obligations.Checkpoints : Prop :=
  (∀ s ctx q x d xs ma mb s1, CheckpointRead s ctx q x d xs ma mb s1 → fld d 36 1 = 0 →
    let need := areaNeed (decide (fld d 37 1 ≠ 255)) xs
    (fld d 16 8 < need → ∃ t, exec (.checkpointSave ctx q) s = .next t ∧ Finished s1 t ctx q x 16 need 0) ∧
    (need ≤ fld d 16 8 → fld d 37 1 ≠ 255 → (s1.ctxAt ctx).ckptKey (fld d 37 1) = none →
      ∃ t, exec (.checkpointSave ctx q) s = .next t ∧ Finished s1 t ctx q x 20 (fld d 37 1) 0) ∧
    ∀ key, need ≤ fld d 16 8 →
      (fld d 37 1 = 255 ∧ key = none ∨ ∃ k, fld d 37 1 ≠ 255 ∧ (s1.ctxAt ctx).ckptKey (fld d 37 1) = some k ∧
        k.send + xs.length < 2 ^ 64 ∧ key = some k) →
      let counter := (key.map KeySlot.send).getD 0
      let target := (saveTarget ma mb).2
      let base := fld d (8 * target) 8
      let len := 128 + 96 * xs.length
      let ps := placeStripes key.isSome (up4k len) xs
      let stripes := ps.flatMap fun p =>
        hostParts p.2.addr p.2.len false ++ hostParts (base + p.1) (p.2.stored key.isSome) true
      let first := (hostParts base 4 true).length
      ∀ s2 ss,
        s1.hostAccept ctx q (hostParts base 4 true ++ stripes ++ hostParts (base + 4) (len - 4) true ++
          hostParts base 4 true) = .ok s2 ss →
        (∀ z ∈ ss, z.part.2.2 = false → ∀ i < z.part.2.1, s2.poisonAt z.tier (z.pa + i) = false) →
        ∃ t u v ds m, exec (.checkpointSave ctx q) s = .next t ∧ Finished u t ctx q x 0 (saveTarget ma mb).1 target ∧
          StripesStored base key counter ps (ss.drop first)
            (s2.writeCells (spanCells (ss.take first) (leBytes 4 0))) v ds ∧
          ManifestOf m key.isSome (saveTarget ma mb).1 (fld d 37 1) counter s1.cycle (s1.ctxAt ctx) ps ds ∧
          SameMemory (v.writeCells (spanCells (ss.drop (first + stripes.length)) (m.drop 4 ++ m.take 4))) u ∧
          ((key.isSome = true → ∃ k, tfind? (u.ctxAt ctx).keys (fld d 37 1) = some k ∧ k.send = counter + xs.length)) ∧
          ∀ tier a, (∀ z ∈ ss, z.part.2.2 = true → ∀ i < z.part.2.1,
            ¬ (min z.tier 2 = min tier 2 ∧ a = z.pa + i)) → byteAt u tier a = byteAt s2 tier a) ∧
  ∀ s ctx q x d xs ma mb s1, CheckpointRead s ctx q x d xs ma mb s1 → fld d 36 1 = 1 →
    let c : Candidate := { area := 0, base := fld d 0 8, man := ma }
    let key := (s1.ctxAt ctx).ckptKey (fld d 37 1)
    (manifestValid ma = false → manifestValid mb = false →
      ∃ t, exec (.checkpointRestore ctx q) s = .next t ∧ Finished s1 t ctx q x 17 0 0) ∧
    (manifestValid ma = true → manifestValid mb = false → layoutDiff 0 c.stripes xs = none →
      (c.enc = true → key.isSome = true) →
      ∀ s2 ss bodies s3 ws, s1.hostAccept ctx q c.parts.flatten = .ok s2 ss →
        s2.openStripes c key ss = .inr bodies →
        s2.hostAccept ctx q
          (List.zipWith (fun a (y : Stripe) => hostParts a y.len true) (xs.map Stripe.addr) c.stripes).flatten =
          .ok s3 ws →
        ∃ t u, exec (.checkpointRestore ctx q) s = .next t ∧ Finished u t ctx q x 0 (fld ma 8 8) 0 ∧
          ∀ tier a, byteAt u tier a = afterCells
            (spanCells ws (List.zipWith widenBytes c.stripes bodies).flatten) tier a (byteAt s3 tier a))

/-! ### Stopping, scanning, restarting -/

/-- R460 to R464, R455, R457: STOPCTL arms a stop unless it has passed; at the stop's clock the package freezes; a
frozen package scans an image of itself, with its header and sections in DDR-5, goes on, or restarts from what stands at
ATTBASE: then its domain and what its gate buffers hold are the image's, and a session begins as RPCTL has it. An image
whose digests fail leaves it frozen with result 2, one of other firmware with 3. The sections depend on the domain and the
gate buffers alone. A REPLAY session delivers its logged arrivals in order, each at its cycle. (What the sections' bytes
hold, and what an image from another package loads, is Config's, logs 9 and 20; that reads of the host's memory show the
log's copy in a REPLAY session is log 60; how a stop names its clock is log 46.) -/
def Obligations.Attic : Prop :=
  (∀ s m v, s.isOwner m = true →
    ∃ n, exec (.stopctl m v) s = .next { s with rep := { s.rep with stopctl := n } } ∧
      n / 2 % 2 = v / 2 % 2 ∧ n / 4 % 2 = v / 4 % 2 ∧
      (v % 2 = 1 → n % 2 = (!s.stopPassed (decide (v / 2 % 2 = 1))).toNat ∧
        n / 8 % 2 = (s.stopPassed (decide (v / 2 % 2 = 1))).toNat)) ∧
  (∀ s m v, s.isOwner m = false → Dropped (.stopctl m v) s) ∧
  (∀ s, s.freezeDue = true → ∃ t, exec .freeze s = .next t ∧ t.frozen = true ∧ t.toDomain = s.toDomain ∧
    t.rep.stopctl = s.rep.stopctl / 2 * 2 ∧ SameMemory s t ∧ (s.rep.stopctl / 4 % 2 = 1 → t.attBusy 1 = true)) ∧
  (∀ s full, s.attBusy (if full then 1 else 4) = true →
    let i := if full then Instr.scan else .digestOnlyScan
    let bs := s.imageNow full
    let n := bs.length
    let a := s.rep.attBase.toNat
    (s.rep.attSize < n → ∃ t, exec i s = .next t ∧ t.rep.attctl / 2 ^ 24 = 1 ∧ t.rep.attctl / 8 % 2 = 0 ∧
      t.toDomain = s.toDomain ∧ SameMemory s t ∧ t.images = s.images) ∧
    (n ≤ s.rep.attSize → exists? 1 a n = true →
      ∃ t x, exec i s = .next t ∧ t.frozen = true ∧ t.rep.attctl / 2 ^ 24 = 0 ∧ t.rep.attctl / 8 % 2 = 0 ∧
        t.hbm = s.hbm ∧ t.hostMem = s.hostMem ∧ (∀ j, (∀ k < n, j ≠ a + k) → t.ddr.read j = s.ddr.read j) ∧
        t.ddr.readList a n = bs ∧ bs.take 4 = byteList [0x41, 0x54, 0x54, 0x43] ∧ fld bs 4 2 = 1 ∧
        fld bs 8 8 = (s.cycle - 1) % 2 ^ 64 ∧
        (full = true → ∀ y ∈ s.parts s.scanDram, y.1 % 4096 = 0 ∧
          t.ddr.readList (a + y.1) y.2.body.length = y.2.body) ∧
        x ∈ t.images ∧ x.base = a ∧ x.domain = s.toDomain ∧ x.gates = s.gateHeld ∧ x.bytes = bs ∧ t.attImage = x)) ∧
  (∀ (s s' : State) (dram : Bool), s.toDomain = s'.toDomain → s.gateHeld = s'.gateHeld → (dram = true → s.dramDigests = s'.dramDigests) →
    s.parts dram = s'.parts dram) ∧
  (∀ s, s.attBusy 2 = true → ∃ t, exec .atticResume s = .next t ∧ t.frozen = false ∧ t.toDomain = s.toDomain ∧
    t.rep.attctl / 8 % 2 = 0 ∧ SameMemory s t) ∧
  (∀ s, s.attBusy 3 = true →
    let x := s.attImage
    (s.digestsHold = false → ∃ t, exec .restart s = .next t ∧ t.rep.attctl / 2 ^ 24 = 2 ∧ t.frozen = true ∧
      t.toDomain = s.toDomain) ∧
    (s.digestsHold = true → natBytes ((s.attHead.1.drop 32).take 48) ≠ sha384 s.firmware →
      ∃ t, exec .restart s = .next t ∧ t.rep.attctl / 2 ^ 24 = 3 ∧
      t.frozen = true ∧ t.toDomain = s.toDomain) ∧
    (s.restartCheck = 0 →
      ∃ t, exec .restart s = .next t ∧ t.frozen = false ∧ t.toDomain = x.domain ∧
        t.agenda = s.restartAgenda x ∧
        t.hbm = s.hbm ∧ t.ddr = s.ddr ∧ t.rep.attctl / 2 ^ 24 = 0 ∧ 
        (s.rep.rpctl % 4 ≠ 2 → t.hostMem = s.hostLive.getD s.hostMem ∧ t.hostLive = none) ∧
        (s.rep.rpctl % 4 = 1 → t.rep.mode = 1 ∧ t.rep.log.entries = []) ∧
        (s.rep.rpctl % 4 = 2 → (t.rep.mode = 2 ∧ t.hostLive = some (s.hostLive.getD s.hostMem)) ∨
          t.rep.mode = 0 ∧ t.rep.cause = 5))) ∧
  ∀ s, s.rep.mode = 2 →
    let xs := s.rep.log.arrivals
    (∀ e p a, xs[s.rep.next]? = some (e, p, a) → e.cycle ≤ s.cycle → e.held = none →
      ∃ t, exec .loggedArrivalDelivery s = .next t ∧ t.admitted = s.admitted ++ [a] ∧ t.rep.next = s.rep.next + 1 ∧
        t.toDomain = s.toDomain ∧ t.hbm = s.hbm ∧ t.ddr = s.ddr ∧
        (s.rep.next + 1 < xs.length → t.rep.mode = 2 ∧ t.hostMem = s.hostMem) ∧
        (xs.length ≤ s.rep.next + 1 → t.rep.mode = 0 ∧ t.rep.cause = 1 ∧ t.rep.ended = some s.cycle ∧
          t.hostMem = s.hostLive.getD s.hostMem)) ∧
    (xs.length ≤ s.rep.next → exec .loggedArrivalDelivery s =
      .next { s with
        rep := { s.rep with mode := 0, cause := 1, ended := some s.cycle }
        hostMem := s.hostLive.getD s.hostMem, hostLive := none }) ∧
    ∀ e p a, xs[s.rep.next]? = some (e, p, a) → s.cycle < e.cycle → exec .loggedArrivalDelivery s = .next s
/-! ### Debugging and observation -/

/-- R467, R394: HALT, RESUME and STEP set whether a wave stops at its next instruction; READ_REGISTER answers with a
lane of a vector register or a system register, WRITE_REGISTER writes it. A request that is not allowed, or names no
wave, is answered with all ones, or is dropped from a master without the right. -/
def Sys2Proof.Machine.DebugRequestsRule : Prop :=
  ∀ s ctx m ident,
    let all := fun (n x : Nat) =>
      [Instr.halt ctx m ident, .resume ctx m ident, .step ctx m ident n, .readRegister ctx m ident x,
        .writeRegister ctx m ident x]
    let refused := fun (i : Instr) => ∃ t, exec i s = .next t ∧ (t.ctxAt ctx).dbgrsp = 0xFFFFFFFFFFFFFFFF#64 ∧
      t.waves = s.waves ∧ SameMemory s t
    (∀ n x, ∀ i ∈ all n x,
      (s.mayDebug ctx m = true → s.waveByIdent ctx ident = none → refused i) ∧
      (s.mayDebug ctx m = false → s.mayControl ctx m = true → refused i) ∧
      (s.mayDebug ctx m = false → s.mayControl ctx m = false → Dropped i s)) ∧
    ∀ w, s.mayDebug ctx m = true → s.waveByIdent ctx ident = some w →
      let v := s.waveAt w
      (∃ t, exec (.halt ctx m ident) s = .next t ∧ OnlyWaveAt s t w ∧
        t.waveAt w = { v with halted := true, steps := none }) ∧
      (∃ t, exec (.resume ctx m ident) s = .next t ∧ OnlyWaveAt s t w ∧
        t.waveAt w = { v with halted := false, steps := none }) ∧
      (∀ n, n ≠ 0 → ∃ t, exec (.step ctx m ident n) s = .next t ∧ OnlyWaveAt s t w ∧
        t.waveAt w = { v with halted := false, steps := some n }) ∧
      (∀ x r l, v.debugReg x = some (.vec r l) →
        (∃ t, exec (.readRegister ctx m ident x) s = .next t ∧ t.waves = s.waves ∧
          (t.ctxAt ctx).dbgrsp = (lane (tget v.regs.vregs r []) l).setWidth 64) ∧
        ∃ t, exec (.writeRegister ctx m ident x) s = .next t ∧ OnlyWaveAt s t w ∧
          ∀ k j, j < 64 → lane (tget (t.waveAt w).regs.vregs k []) j =
            if k = r ∧ j = l then (s.ctxAt ctx).dbgrsp.setWidth 32 else lane (tget v.regs.vregs k []) j) ∧
      ∀ x n, v.debugReg x = some (.sys n) →
        (∃ t, exec (.readRegister ctx m ident x) s = .next t ∧ t.waves = s.waves ∧
          (t.ctxAt ctx).dbgrsp = (({ s with cur := w } : State).sysRead n).setWidth 64) ∧
        (sysWritable n = false → refused (.writeRegister ctx m ident x))

/-- R349 to R351, R467: a context samples in the clocks whose number is a multiple of its period; a sample counts a record
for each partition of its core in the context's ring, and its fields show the wave and what it did; a debuggable context's
Attic sections of the last scan answer a read, eight bytes at a time. (What the sections hold is free, log 9; how their
bytes are numbered is log 17; when a sample is taken, and which ring a partition without a wave shows, is log 41.) -/
def Sys2Proof.Machine.ObservationRule : Prop :=
  (∀ s core info k c, s.ctxs = [(k, c)] → s.sampleDue c = true → (∀ p < 8, s.occupied core p = []) →
    1 ≤ (c.smpsize.toNat - 64) / 8 →
    ∃ t, exec (.sample { core := core, waves := info }) s = .next t ∧ t.waves = s.waves ∧ SameScratch s t ∧
      tget (t.ctxAt k).smpCounts core 0 = tget c.smpCounts core 0 + 8) ∧
  (∀ (s : State) (p seq port wait k : Nat) (w : Wave), w.core < 64 → port < 4 → w.slot < 32 → p < 8 → wait < 32 →
    let x := s.sampleWord p seq port wait k w
    x / 2 ^ 48 = seq % 2 ^ 16 ∧ x / 2 ^ 42 % 64 = w.core ∧ x / 2 ^ 40 % 4 = port ∧ x / 2 ^ 35 % 32 = w.slot ∧
    x / 2 ^ 32 % 8 = p ∧ x / 2 ^ 24 % 2 = w.spec.isSome.toNat ∧
    (∀ pc entered, s.acted = some (k, pc, entered) → x % 2 ^ 18 = pc.toNat ∧ x / 2 ^ 23 % 2 = (!entered).toNat ∧
      x / 2 ^ 18 % 32 = if entered then 26 else 0) ∧
    ((∀ pc entered, s.acted ≠ some (k, pc, entered)) → x % 2 ^ 18 = w.regs.pc.toNat ∧ x / 2 ^ 23 % 2 = 0 ∧
      ∃ r, x / 2 ^ 18 % 32 = r ∧ (s.reasons w wait = [] → r = 1) ∧
        (s.reasons w wait ≠ [] → r ∈ s.reasons w wait ∧ ∀ y ∈ s.reasons w wait, r ≤ y))) ∧
  (∀ (s : State) (c : Machine.Ctx), s.sampleDue c = true ↔ c.smpctl.getLsbD 16 = true ∧ s.cycle % 2 ^ c.samplePower = 0) ∧
  (∀ s core info, (∀ c ∈ s.ctxs, s.sampleDue c.2 = false) →
    exec (.sample { core := core, waves := info }) s = .next s) ∧
  ∀ s ctx m x, s.mayDebug ctx m = true →
    (∀ bs, s.lastSections ctx = some bs → ∃ t, exec (.readAtticSections ctx m x) s = .next t ∧ t.waves = s.waves ∧
      SameMemory s t ∧ (8 * x + 8 ≤ bs.length → (t.ctxAt ctx).dbgrsp = BitVec.ofNat 64 (fld bs (8 * x) 8)) ∧
      (bs.length < 8 * x + 8 → (t.ctxAt ctx).dbgrsp = Config.freeValue s.fresh)) ∧
    (s.images = [] → ∃ t, exec (.readAtticSections ctx m x) s = .next t ∧ t.waves = s.waves ∧
      (t.ctxAt ctx).dbgrsp = 0xFFFFFFFFFFFFFFFF#64)

/-- The nodes of a reading of the wait-for graph: waiting waves and Pending blocks (R352). -/
def Sys2Proof.Machine.readingNodes (s : State) : List WaitNode := s.waveNodes ++ s.pendingNodes

/-- The nodes that have waited for their context's threshold (R353). -/
def Sys2Proof.Machine.stalledNodes (s : State) : List WaitNode :=
  (readingNodes s).filter fun n => decide ((s.ctxAt n.ctx).threshold ≤ s.cycle - n.since)

/-- An edge of the graph from one stalled node to another. -/
def Sys2Proof.Machine.StalledEdge (s : State) (a b : WaitNode) : Prop :=
  a ∈ stalledNodes s ∧ b ∈ stalledNodes s ∧ some b.id ∈ a.edges

/-- R251, R352 to R354: a reading finds DEADLOCK for the stalled nodes on a cycle, with all that lie on cycles with one
another; UNSATISFIABLE for a barrier whose count exceeds the waves that can still arrive; STARVED for a stalled Pending
block that no stalled node holds up, with its queue's priority; LONG_WAIT for a stalled wave all of whose edges are unknown;
and nothing else. A finding is reported once to its contexts, and a reading without one reports nothing. (What is a
DEADLOCK's set of nodes, the detail of type 2, and what makes two findings one, is log 41.) -/
def Sys2Proof.Machine.FindingsRule : Prop :=
  (∀ (s : State) (n : WaitNode), Relation.TransGen (StalledEdge s) n n →
    ∃ f ∈ s.findings, f.type = 1 ∧ n ∈ f.nodes ∧ n.ctx ∈ f.ctxs) ∧
  (∀ (s : State), ∀ f ∈ s.findings, f.type = 1 → ∀ a ∈ f.nodes, ∀ b ∈ f.nodes,
    Relation.TransGen (StalledEdge s) a b ∧ a.ctx ∈ f.ctxs) ∧
  (∀ (s : State) (b br e : Nat) (x : Block) (y : Bar), (b, x) ∈ s.blocks → (br, y) ∈ x.bars → y.expect = some e → e ≠ 0 →
    y.arrived ≠ [] → (x.st = .resident ∨ x.st = .saved) →
    let can := y.arrived.length + ((s.unfinished x).filter fun k => !y.arrived.contains k).length
    can < e → ∃ f ∈ s.findings, f.type = 2 ∧ f.detail = x.lin + br * 2 ^ 32 + e * 2 ^ 40 + can * 2 ^ 48 ∧
      f.ctxs = [(s.launchAt x.launch).ctx] ∧
      ∀ n, n ∈ f.nodes ↔ n ∈ readingNodes s ∧ ∃ k ∈ y.arrived, n.id = waveNode k) ∧
  (∀ (s : State), ∀ n ∈ stalledNodes s,
    (n.id % 2 = 1 → (∀ m ∈ stalledNodes s, some m.id ∉ n.edges) → ∃ f ∈ s.findings, f.type = 3 ∧ f.nodes = [n] ∧
      f.ctxs = [n.ctx] ∧
      let l := s.launchAt (n.id / 2 / 2 ^ 32)
      f.detail = (s.queueAt l.ctx l.queue).ctl / 2 % 4) ∧
    (n.id % 2 = 0 → (∀ e ∈ n.edges, e = none) →
      ∃ f ∈ s.findings, f.type = 4 ∧ f.nodes = [n] ∧ f.ctxs = [n.ctx])) ∧
  (∀ (s : State), ∀ f ∈ s.findings, (f.type = 1 ∨ f.type = 2 ∨ f.type = 3 ∨ f.type = 4) ∧
    (f.type ≠ 2 → ∀ n ∈ f.nodes, n ∈ stalledNodes s)) ∧
  (∀ s, s.findings = [] → exec .waitForReading s = .next { s with reading := s.cycle / 2 ^ 21 }) ∧
  ∀ s f c, s.findings = [f] → f.ctxs = [c] → (tfind? s.ctxs c).isSome = true →
    ((f.type, f.key) ∈ (s.ctxAt c).findings → exec .waitForReading s = .next { s with reading := s.cycle / 2 ^ 21 }) ∧
    ((f.type, f.key) ∉ (s.ctxAt c).findings → ∃ t, exec .waitForReading s = .next t ∧
      (t.ctxAt c).findings = (s.ctxAt c).findings ++ [(f.type, f.key)] ∧ (t.ctxAt c).findNo = (s.ctxAt c).findNo + 1 ∧
      t.waves = s.waves ∧ t.reading = s.cycle / 2 ^ 21)

/-! ### Faults and their answers -/

/-- R211, R367, R369, R370, R392, R393: what an access waits for is answered by the service cores, which may write the
entry at which its walk ended, the host's translation, its PRI response, its absence for 10 ms, or the end of a migration,
which takes the tags of a page that has moved with it; an ATS invalidation drops the translations of its range and is
acknowledged once no access accepted under them is still to be performed. No write of the package waits here for a page
(what one that waits does is in what writes it). (Which entry a reply answers, and the phases, are log 43; where a page
moves is log 59; which accesses a translation's cache serves is log 50.) -/
def Sys2Proof.Machine.FaultAnswersRule : Prop :=
  ∀ s ctx va, s.posts = [] →
    let pending := fun (e : FrbEntry) => e.sentFor ctx (va / 4096) = true
    (∀ ok code, (s.ctxAt ctx).policy = true → ∃ t, exec (.faultReply ctx va ok code) s = .next t ∧
      t.frb = answerOne (fun e => e.asks .service ctx (va / 2 ^ 16)) (ok, code) s.frb ∧
      ∀ tier a, (ok = true → ∀ p ∈ s.absentAt ctx va 4 0 (s.ctxAt ctx).ptbase.toNat,
        ¬ (min tier 2 = min p.1 2 ∧ p.2 ≤ a ∧ a < p.2 + 8)) → byteAt t tier a = byteAt s tier a) ∧
    ((s.ctxAt ctx).policy = false → ∀ ok code, ∃ t n, exec (.faultReply ctx va ok code) s = .next t ∧ SameMemory s t ∧
      t.frb = answerOne (fun e => e.asks .service ctx (va / 2 ^ 16)) (false, n) s.frb) ∧
    (∃ t, exec (.migClear ctx va) s = .next t ∧ SameScratch s t ∧
      (∀ e ∈ t.frb, ¬ e.asks .mig ctx (s.pageStart ctx va) = true) ∧ t.frb.length = s.frb.length ∧
      (∀ e ∈ t.tlb, ¬ (e.ctx = ctx ∧ e.host = none ∧ e.page = va / 2 ^ e.shift)) ∧
      (∀ m, s.migration ctx va = some m → t.tags = s.tags.map fun x => (m.granule x.1, x.2)) ∧
      (s.migration ctx va = none → t.tags = s.tags ∧ t.poison = s.poison ∧
        ∀ tier a, (∀ p ∈ s.leafAt ctx va 4 0 (s.ctxAt ctx).ptbase.toNat,
          ¬ (min tier 2 = min p.1 2 ∧ p.2 ≤ a ∧ a < p.2 + 8)) → byteAt t tier a = byteAt s tier a)) ∧
    (∀ host r w, (∃ e ∈ s.frb, e.asks .ats ctx (va / 4096) = true) → ∀ (i : Nat) (e : FrbEntry), s.frb[i]? = some e →
      e.asks .ats ctx (va / 4096) = true →
      let x := ((s.translated ctx (va / 4096) host r w).frb[i]?).getD e
      (r = true → (w = true ∨ e.write = false) → x.answer = some (true, 0) ∧ x.host = some (host, w)) ∧
      ((r = false ∨ w = false ∧ e.write = true) → x.answer = none ∧ x.kind = .pri)) ∧
    (∀ w code, (∃ e ∈ s.frb, pending e) → ∃ t, exec (.priResponse ctx va w code) s = .next t ∧ SameMemory s t ∧
      t.tlb = s.tlb ∧ t.frb.length = s.frb.length ∧ ∀ (i : Nat) (e : FrbEntry), s.frb[i]? = some e → pending e →
        (code = 0 → t.frb[i]? = some { e with kind := .ats, sent := none }) ∧
        (code ≠ 0 → (t.frb[i]?).bind FrbEntry.answer = some (false, code))) ∧
    ((∃ e ∈ s.frb, pending e ∧ s.priExpired e = true) → ∃ t n, exec (.priTimeout ctx va) s = .next t ∧
      SameMemory s t ∧ t.tlb = s.tlb ∧
      ∀ (i : Nat) (e : FrbEntry), s.frb[i]? = some e → pending e → s.priExpired e = true →
        (t.frb[i]?).bind FrbEntry.answer = some (false, n)) ∧
    ∀ pasid base len, s.invals = [] →
      let v : Inval := { pasid := pasid, base := base, len := len }
      ∃ t, exec (.atsInvalidation pasid base len) s = .next t ∧ SameMemory s t ∧
      (s.invalOver v = true → t.outbox = s.outbox ++ [.atsDone pasid base len] ∧ t.invals = []) ∧
      (s.invalOver v = false → t.outbox = s.outbox ∧ t.invals = [v]) ∧
      ∀ e, e ∈ t.tlb ↔ e ∈ s.tlb ∧ ¬ (e.host.isSome = true ∧ (s.ctxAt e.ctx).pasid = pasid ∧
        e.page * 4096 < base + len ∧ base < (e.page + 1) * 4096)

/-- R280: a page's shoot-down goes through its four steps in order; the fourth ends it and answers. -/
def Sys2Proof.Machine.ShootdownsRule : Prop :=
  ∀ s ctx va,
    let page := va / 2 ^ 16
    (s.shoot = [] → ∃ t, exec (.shootdown ctx va 1) s = .next t ∧ SameMemory s t ∧
      t.shoot = [{ ctx := ctx, page := page, step := 1 }]) ∧
    ∀ n, let x : Shoot := { ctx := ctx, page := page, step := n }
      s.shoot = [x] →
      (n = 1 → ∃ t, exec (.shootdown ctx va 2) s = .next t ∧ t.shoot = [{ x with step := 2 }] ∧ SameMemory s t) ∧
      (n = 2 → ∃ t, exec (.shootdown ctx va 3) s = .next t ∧ t.shoot = [{ x with step := 3 }] ∧
        (∀ e ∈ t.tlb, ¬ (e.ctx = ctx ∧ e.host = none ∧ e.page = va / 2 ^ e.shift))) ∧
      (n = 3 → ∃ t, exec (.shootdown ctx va 4) s = .next t ∧ t.shoot = [] ∧ SameMemory s t ∧
        t.outbox = s.outbox ++ [.message .shootdown [ctx, page]])

/-- R427, R429, R431, R448: an uncorrectable error poisons the data at its place (of DDR-5 its burst of 64 bytes, of a
dirty line each of its granules), which keeps its value, and a record of it is counted when the error log is enabled; a
change of a memory's refresh rate is noted. -/
def Sys2Proof.Machine.ErrorsRule : Prop :=
  ∀ s,
    (∀ sensor rate, exec (.refreshRateChange sensor rate) s = .next { s with refresh := tset s.refresh sensor rate }) ∧
    ∀ e, s.struck e = true →
      ∃ t, exec (.uncorrectableError e) s = .next t ∧
        (s.errSize = 0 → SameMemory s t) ∧ (s.errSize ≠ 0 → t.errCnt = (s.errCnt + 1) % 2 ^ 32) ∧
        match e with
        | .vreg w reg l => (tfind? (t.waveAt w).regs.vpois (reg * 64 + l)).isSome = true ∧
          (t.waveAt w).regs.vregs = (s.waveAt w).regs.vregs
        | .sreg w reg => (tfind? (t.waveAt w).regs.spois reg).isSome = true ∧
          (t.waveAt w).regs.sregs = (s.waveAt w).regs.sregs
        | .fpc w l => (tfind? (t.waveAt w).regs.vpois (fpcKey * 64 + l)).isSome = true ∧
          (t.waveAt w).regs.fpc = (s.waveAt w).regs.fpc
        | .tile w k i => i ∈ ((t.waveAt w).regs.tile k).pois ∧
          ((t.waveAt w).regs.tile k).words = ((s.waveAt w).regs.tile k).words
        | .shelf b k i => i ∈ (tget (t.blockAt b).shelf k {}).pois
        | .scratch b a => a / 4 ∈ (t.blockAt b).spois
        | .line b l => ∀ i < 32, 32 * l + i ∈ (t.blockAt b).spois
        | .imem c k i => i ∈ (tget (t.coreAt c).slots k {}).pois
        | .granule tier a => s.errSize = 0 →
          ∀ b, (if tier = 1 then b / 64 = a / 64 else b / 32 = a / 32) → t.poisonAt tier b = true
        | .tags tier a => s.errSize = 0 → ∀ b, b / 32 = a / 32 → t.poisonAt tier b = true
        | .cache _ tier a => s.errSize = 0 → ∀ b, b / 128 = a / 128 → t.poisonAt tier b = true

/-! ### Links to other ranks -/

/-- R274, R431, R436, R448, R466: heartbeats, a peer that has been silent too long or that departs, links that go down
and come back by a detour, flits that are resent, ports, the four times of an alignment; an Ethernet frame has no effect
of its own. (What the spec leaves open of a lost rank and of a link's record is log 45.) -/
def Obligations.Links : Prop :=
  ∀ s rank,
    (∃ t, exec (.heartbeat (some rank)) s = .next t ∧ tget t.heard rank 0 = s.cycle ∧ SameMemory s t) ∧
    (s.beatDue = true → ∃ t, exec (.heartbeat none) s = .next t ∧ t.beatAt = s.cycle ∧ SameMemory s t ∧
      t.outbox = s.outbox ++ s.peerRanks.map fun r => .message .heartbeat [r]) ∧
    ((s.silent rank = true → ∃ t, exec (.rankLost rank) s = .next t ∧ rank ∈ t.lostRanks ∧
        ∀ x ∈ t.transfers, x.rank ≠ rank) ∧
      (s.isPeer rank = true → ∃ t, exec (.departureFlit rank) s = .next t ∧ rank ∈ t.lostRanks ∧
        ∀ x ∈ t.transfers, x.rank ≠ rank) ∧
      (s.isPeer rank = false → s.isOwn rank = true → ∃ t, exec (.departureFlit rank) s = .next t ∧ SameMemory s t ∧
        t.outbox = s.outbox ++ s.peerRanks.map fun r => .message .departure [r])) ∧
    (rank ∉ s.linksDown → ∃ t, exec (.linkDown rank) s = .next t ∧ rank ∈ t.linksDown ∧
      (∀ r, (List.range 16).find? (fun r => decide (r ≠ rank) && s.isPeer r && !s.linksDown.contains r) = some r →
        (rank, s.cycle + s.flowletGap) ∈ t.resends)) ∧
    (s.resendDue.contains rank = true → ∃ t, exec (.detourResend rank) s = .next t ∧ SameMemory s t ∧
      t.outbox = s.outbox ++ (if (s.detour rank).isSome then [.message .resend [rank]] else []) ∧
      ∀ x ∈ t.resends, x.1 ≠ rank) ∧
    (∃ t, exec (.linkReplay rank) s = .next t ∧ t.outbox = s.outbox ++ [.message .resend [16 + rank]]) ∧
    (rank ∉ s.ports → ∃ t, exec (.portDown rank) s = .next t ∧ t.ports = s.ports ++ [rank]) ∧
    (s.alignDue = true → ∃ t, exec .alignmentExchange s = .next t ∧ t.alignAt = some s.cycle ∧
      t.outbox = s.outbox ++ [.message .align [s.cycle]]) ∧
    (∀ t1, exec (.alignmentReply rank t1) s =
      .next { s with outbox := s.outbox ++ [.message .alignReply [rank, t1, s.cycle, s.cycle]] }) ∧
    (∀ t1 t2 t3, s.aligns = true → ∃ t, exec (.alignmentResult t1 t2 t3) s = .next t ∧ SameMemory s t ∧
      t.alignofs = BitVec.ofInt 64 ((((s.cycle : Int) - t3) - ((t2 : Int) - t1)).tdiv 2)) ∧
    ∀ port data, exec (.ethernetFrame port data) s = .next s

/-! ### Reset, boot and power -/

/-- R340, R469, R478, R482 to R484: a cold reset with good firmware, a recovery with a fetched image and a package reset
release the domain at cycle 0 without waves, contexts or launches, each logical core on its physical core or its die's
spare; the recovery registers work while boot waits for an image; a package reset keeps the replay registers and the
reserved region, poison with it, and drops what its gate buffers held. (What is kept across a reset, and what stands for
the boot ROM's tests, is log 47; that the host's memory is as the host has it is log 60.) -/
def Obligations.Resets : Prop :=
  let fresh := fun (t : State) (bad : List Nat) => t.cycle = 0 ∧ t.waves = [] ∧ t.blocks = [] ∧ t.launches = [] ∧
    t.ctxs = [] ∧ t.tlb = [] ∧ t.owned = false ∧ t.boot.stage = 6 ∧ t.frozen = false ∧
    ∀ c < 48, tget t.remap c 0 =
      if c / 12 * 16 + c % 12 ∉ bad then BitVec.ofNat 32 (0x8000 + c / 12 * 256 + c % 12)
      else if (∀ p < 12, c / 12 * 16 + p ∈ bad → c % 12 ≤ p) ∧ c / 12 * 16 + 12 ∉ bad then
        BitVec.ofNat 32 (0x8000 + c / 12 * 256 + 12)
      else 0
  ∀ s bad,
    (∃ t, exec (.coldReset true bad []) s = .next t ∧ fresh t bad ∧ t.boot.power = true ∧ t.boot.fwstat = 1#32 ∧
      t.hostMem = s.hostLive.getD s.hostMem ∧ t.hbm = [] ∧ t.ddr = [] ∧ t.rep = {} ∧ t.poison = []) ∧
    (∃ t, exec (.coldReset false bad []) s = .next t ∧ t.boot.stage = 2 ∧ t.boot.fwstat = 4#32 ∧
      t.boot.rcvstat = 0x80000000#32 ∧ t.waitsImage = true ∧
      t.hostMem = s.hostLive.getD s.hostMem) ∧
    (s.boot.stage = 6 → ∃ t, exec (.packageReset bad []) s = .next t ∧ fresh t bad ∧ t.boot = s.boot ∧
      (s.rep.rpctl % 4 ≠ 2 → t.hostMem = s.hostLive.getD s.hostMem) ∧ t.hbm = [] ∧ t.alignofs = s.alignofs ∧ t.images = s.images ∧
      (∀ a, t.ddr.read a = if Config.reserved a then s.ddr.read a else 0) ∧ (∀ x ∈ t.agenda, s.cycle < x.1) ∧
      (∀ g < 2 ^ 36, 2 ^ 59 + g ∈ t.poison ↔ 2 ^ 59 + g ∈ s.poison ∧ Config.reserved (g * 32) = true) ∧
      t.rep.rpctl = s.rep.rpctl ∧ t.rep.base = s.rep.base ∧ t.rep.size = s.rep.size ∧
      t.rep.stopcyc = s.rep.stopcyc ∧ t.rep.attBase = s.rep.attBase ∧ t.rep.attSize = s.rep.attSize) ∧
    ((∀ m, s.waitsImage = true → s.fetching = false → ∃ t, exec (.rcvgo m) s = .next t ∧ t.fetching = true ∧
        t.waitsImage = true ∧ SameMemory s t) ∧
      (∀ m, s.waitsImage = false → Dropped (.rcvgo m) s) ∧
      (s.waitsImage = true → s.fetching = true →
        let len := s.boot.rcvlen.toNat
        (4096 ≤ len → len ≤ 2 ^ 25 → ∃ t, exec (.recoveryFetchEnd 1 bad []) s = .next t ∧ fresh t bad ∧
          t.boot.rcvstat = 1#32 ∧ t.boot.fwstat = 6#32 ∧
          t.boot.image = some ((s.hostMem.readList s.boot.rcvaddr.toNat len).map BitVec.toNat)) ∧
        (len < 4096 ∨ 2 ^ 25 < len → ∀ r, ∃ t, exec (.recoveryFetchEnd r bad []) s = .next t ∧
          t.boot.rcvstat = 0x80000003#32 ∧ t.waitsImage = true ∧ t.fetching = false)))

/-- R480, R481, R485: THRCTL takes the low five bits; its skip acts from the next group of 16 clocks, its hold at once; a
power measurement is kept and, within cap and temperature, throttles nothing, above one of them writes THRCTL through gate
27, and at 115 °C takes power away, as a thermal shutdown does, which ends a recording; a firmware update waits in the
flash. (The value that is written is free, log 9.) -/
def Sys2Proof.Machine.PowerRule : Prop :=
  ∀ s,
    (∀ v, exec (.thrctl v) s = .next { s with thrctl := BitVec.ofNat 32 (v % 32) }) ∧
    (s.tick.cycle = s.cycle + 1 ∧ s.tick.thrLive = if (s.cycle + 1) % 16 = 0 then s.thrctl else s.thrLive) ∧
    (s.throttled = true ↔ s.thrctl.toNat / 16 % 2 = 1 ∨ s.cycle % 16 < s.thrLive.toNat % 16) ∧
    (∀ watts temps, let ps := watts :: s.boot.powers.take 99
      (∀ t ∈ temps, t ≤ 800) → (ps.take 100).sum ≤ 100 * s.pwrcap →
      ∃ t, exec (.powerMeasurement watts temps) s = .next t ∧ t.boot.powers = ps ∧ t.toDomain = s.toDomain ∧
        t.agenda = s.agenda ∧ t.boot.power = s.boot.power ∧ SameMemory s t) ∧
    (∀ watts temps, s.boot.stage = 6 → (∀ t ∈ temps, t < 920) →
      (100 * s.pwrcap < ((watts :: s.boot.powers.take 99).take 100).sum ∨ ∃ t ∈ temps, 800 < t) →
      ∃ t v, exec (.powerMeasurement watts temps) s = .next t ∧ v < 32 ∧ t.toDomain = s.toDomain ∧
        t.agenda = s.agenda ++ [(s.cycle, 27, .throttle v)] ∧ t.receive (.throttle v) = .next { t with thrctl := BitVec.ofNat 32 v }) ∧
    (∀ watts temps, (∃ t ∈ temps, 920 ≤ t) → ∃ t, exec (.powerMeasurement watts temps) s = .next t ∧
      t.boot.power = false ∧ t.toDomain = s.toDomain ∧ (s.rep.mode = 1 → t.rep.mode = 0)) ∧
    (∃ t, exec .thermalPowerRemoval s = .next t ∧ t.boot.power = false ∧ t.toDomain = s.toDomain ∧
      (s.rep.mode = 1 → t.rep.mode = 0)) ∧
    ∀ data, ∃ t, exec (.firmwareUpdate data) s = .next t ∧ t.boot.stored = some data ∧ t.boot.image = s.boot.image ∧
      t.toDomain = s.toDomain ∧ SameMemory s t

/-- R394, R395, R399, R407, R431, R450, R480: a write of a register by a master with the right sets it, of 8 bytes both
its halves; by another, or where no register can be written, it is dropped and counted once. Registers of each page; a
read gives what was written. -/
def Sys2Proof.Machine.RegisterWritesRule : Prop :=
  ∀ s m v,
    let w := fun (page off : Nat) => exec (.registerWrite m page off { v := v }) s
    let ww := fun (page off : Nat) => exec (.registerWrite m page off { wide := true, v := v }) s
    (s.isOwner m = true →
      w 0 0x00C = .next { s with leaseMs := v % 2 ^ 32 } ∧
      ww 0 0x018 = .next { s with jrnBase := BitVec.ofNat 64 v } ∧
      w 1 0x088 = .next { s with errSize := v % 2 ^ 32, corrs := [] } ∧
      w 1 0x100 = .next { s with rep := { s.rep with rpctl := v % 4 } } ∧
      ww 1 0x108 = .next { s with rep := { s.rep with base := BitVec.ofNat 64 v } } ∧
      (∀ k < 16, w 1 (4 * k) = .next { s with admReq := tset s.admReq k (BitVec.ofNat 32 v) }) ∧
      (v = 1 → s.admBusy = false → 1 ≤ (tget s.admReq 0 0).toNat % 256 → (tget s.admReq 0 0).toNat % 256 ≤ 9 →
        w 1 0x040 = .next { s with admNow := s.admReq, admBusy := true, admAt := s.cycle })) ∧
    (s.isOwner m = false → ∀ off x, Dropped (.registerWrite m 1 off x) s) ∧
    (s.waitsImage = true → w 2 0x010 = .next { s with boot := { s.boot with rcvlen := BitVec.ofNat 32 v } }) ∧
    (m % 2 ^ 16 = 0xFFFF → w 3 0x00 = .next { s with pwrcap := min (max (v % 2 ^ 32) 600) 2400 } ∧
      Dropped (.registerWrite m 3 0x04 { v := v }) s) ∧
    (m % 2 ^ 16 ≠ 0xFFFF → w 3 0x04 = .next { s with thrctl := BitVec.ofNat 32 (v % 32) } ∧
      ∀ off ∈ [0x00, 0x10], Dropped (.registerWrite m 3 off { v := v }) s) ∧
    (∀ ctx q, ctx < 64 → q < 16 → s.mayControl ctx m = true → (s.queueAt ctx q).ctl % 2 = 0 →
      ∃ t, ww (64 + ctx) (0x40 * q) = .next t ∧ SameMemory s t ∧
        t.queueAt ctx q = { s.queueAt ctx q with base := BitVec.ofNat 64 v }) ∧
    (∀ ctx off, ctx < 64 → s.mayControl ctx m = false → off < 0x440 →
      Dropped (.registerWrite m (64 + ctx) off { v := v }) s) ∧
    (∀ page off x, 4 ≤ page → page < 64 → Dropped (.registerWrite m page off x) s) ∧
    ∀ m, s.boot.stage = 6 →
      s.readWord m 0 0x00C = some (BitVec.ofNat 32 s.leaseMs) ∧
      s.readWord m 1 0x044 = some (BitVec.ofNat 32 (s.admBusy.toNat * 2 ^ 31 + s.admRes % 2 ^ 16)) ∧
      s.readWord m 1 0x100 = some (BitVec.ofNat 32 s.rep.rpctl) ∧
      ∀ ctx < 64, (s.ctxAt ctx).conf = true → onStream m (s.ctxAt ctx).tdi = false →
        ∀ off, s.readWord m (64 + ctx) off = some 0
/-! ### Instruction words -/

/-- R42, R45 to R54: every well-formed instruction that has a word is read back from it, with every operand. -/
def Obligations.RoundTrip : Prop :=
  ∀ i w, i.wf = true → encode i = some w → decode w = some i

/-- The words of the table of worked encodings, of the paragraph after it and of the example of `count_up` in
spec/02_encoding.md decode to what the spec says they are, and the words it calls none are refused. -/
def Obligations.WorkedEncodings : Prop :=
  decode 0x1800C205 = some (.sadd 3 4 5) ∧
  decode 0x3042858C = some (.vadd .b32 10 11 12) ∧
  decode 0x3842858C = some (.vaddScalar .b32 10 11 12) ∧
  decode 0x200205FF = some (.saddi 2 2 511) ∧
  decode 0x0907FFFD = some (.bnz 7 0xFFFD) ∧
  decode 0xD18A10B0 = some (.mma .e4m3 20 4 1 .rtz true false) ∧
  decode 0xE389000C = some (.cbrAll true 2 9 12) ∧
  decode 0xB86003FF = some (.wait 0 0 31 31) ∧
  decode 0x3C42858C = some (.vshlScalar .b32 10 11 12) ∧
  decode 0x41F00000 = some (.vxori .b64 64 0 0) ∧
  decode 0x47800000 = none ∧ decode 0xF8000000 = none ∧ decode 0 = some .nop ∧
  decode 0x28020005 = some (.sli 2 5) ∧ decode 0x20030601 = some (.saddi 3 3 1)

/-- R114, R120: the words of the immediate shifts decode for an immediate below the width of the element, 32 for a
scalar, and are no instruction for every other value of the immediate's field. -/
def Obligations.ImmediateShiftWords : Prop :=
  ∀ d a, d < 128 → a < 128 →
    let word := fun (major f4 : Nat) => major * 2 ^ 27 + f4 * 2 ^ 23
    (∀ n < 512, let w := fun (f4 : Nat) => decode (word 4 f4 + d * 2 ^ 16 + a * 2 ^ 9 + n)
      w 4 = (if n < 32 then some (.sshli d a n) else none) ∧ w 5 = (if n < 32 then some (.sshri d a n) else none) ∧
      w 6 = if n < 32 then some (.ssrai d a n) else none) ∧
    ∀ n < 128, ∀ sz ∈ [(0, ESize.b8, 8), (1, .b16, 16), (2, .b32, 32), (3, .b64, 64)],
      let w := fun (f4 : Nat) => decode (word 8 f4 + sz.1 * 2 ^ 21 + d * 2 ^ 14 + a * 2 ^ 7 + n)
      w 4 = (if n < sz.2.2 then some (.vshli sz.2.1 d a n) else none) ∧
      w 5 = (if n < sz.2.2 then some (.vshri sz.2.1 d a n) else none) ∧
      w 6 = if n < sz.2.2 then some (.vsrai sz.2.1 d a n) else none

/-! ### Steps -/

/-- A package whose domain runs, with nothing arriving, no stop due, and issue having its turn and a wave to try, or no
event being due. -/
def Sys2Proof.Machine.Issuing (s : State) : Prop :=
  s.boot.power = true ∧ s.boot.stage = 6 ∧ s.frozen = false ∧ s.freezeDue = false ∧ s.admitted = [] ∧
  s.loggedDue = false ∧ s.nextArrival = none ∧ s.punctual = none ∧ ((s.turn = false ∧ s.candidates ≠ []) ∨ s.due = [])

/-- What a clock goes on with after wave `k`, `w` in state `s`, has acted with an outcome: when the wave waits at its
instruction, the waves after it are tried; otherwise the clock ends (R344, R345). -/
noncomputable def Sys2Proof.Machine.AfterTurn (s : State) (k : Nat) (w : Wave) (ks : List Nat) : Out → Out
  | .next t => if (t.waveAt k).waits && !w.issued (s.action k w) (t.waveAt k) then State.tryIssue ks t
    else .next (t.actedBy s k w (s.action k w)).tick
  | .fault f => .fault f
  | .refused r => .refused r

/-- R54, R56, R344, R345, R371: in a clock in which issue has its turn, the waves that may act are tried in order. A
wave takes the effect of the instruction its word decodes to, or of a word that is no instruction; one with a trap to
take takes it instead; one that cannot act is passed over. The first that does not wait ends the clock: the cycle count
is one higher, the rotation of issue goes on behind it, and nothing else of the waves, blocks and launches changes, nor of
any memory when no context samples. A clock with an event due and its turn is that event's; a deadline of a pre-emption and a
reading of the wait-for graph come before it and take no clock. (That one wave of the package
issues in a clock, that issue and events take turns, and that events come in rotation, are the model's choices, logs 2 and
3.) -/
def Obligations.StepRuns : Prop :=
  (∀ s i, s.boot.power = true → s.boot.stage = 6 → s.frozen = false → s.freezeDue = false → s.admitted = [] →
    s.loggedDue = false → s.nextArrival = none → s.punctual = some i → step s = exec i s) ∧
  (∀ s, Issuing s → step s = State.tryIssue s.candidates { s with turn := true, acted := none }) ∧
  (∀ s k ks w, tfind? s.waves k = some w → s.runnable w = true →
    let word := (s.coreAt w.core).fetch w.regs.pc
    let s1 : State := { s with cur := k }
    let turn := fun (i : Instr) => State.tryIssue (k :: ks) s = AfterTurn s k w ks (exec i s1)
    (s.boundary w = none → s.fetchPoisoned w = false →
      (∀ i, decode word.toNat = some i → turn i) ∧ (decode word.toNat = none → turn (.illegalInstruction word.toNat))) ∧
    (s.fetchPoisoned w = true → turn (.trapEntry k)) ∧
    ∀ t, s.fetchPoisoned w = false → s.boundary w = some t →
      turn (if t.rank ≠ 1 ∧ s.trapsItself k w = true then s.ownInstr w
        else if t.trap.code = 0x1A then .watchdog k else .trapEntry k)) ∧
  (∀ s k ks, (∀ w, tfind? s.waves k = some w → s.runnable w = false) → State.tryIssue (k :: ks) s = State.tryIssue ks s) ∧
  (∀ s, State.tryIssue [] s = .next s.tick) ∧
  (∀ s t k w i, let u := (t.actedBy s k w i).tick
    u.cycle = t.cycle + 1 ∧ u.thrLive = (if (t.cycle + 1) % 16 = 0 then t.thrctl else t.thrLive) ∧ u.waves = t.waves ∧
    u.blocks = t.blocks ∧ u.launches = t.launches ∧ u.rr = (s.portKey w + 1) % allPorts ∧
    (t.sampling = [] → u.ctxs = t.ctxs ∧ SameMemory t u)) ∧
  ∀ s i, s.boot.power = true → s.boot.stage = 6 → s.frozen = false → s.freezeDue = false → s.admitted = [] →
    s.loggedDue = false → s.nextArrival = none → s.punctual = none → s.turn = true → s.dueEvent = some i →
    (∀ t, exec i { s with turn := false } = .next t → step s = .next ({ t with acted := s.entered t } : State).tick) ∧
    (∀ f, exec i { s with turn := false } = .fault f → step s = .fault f) ∧
    ∀ r, exec i { s with turn := false } = .refused r → step s = .refused r

/-- Every step keeps HBM4, DDR-5 and the host's memory in the canonical form, and the copies of the host's memory that
logs and images hold: addresses rise and no listed byte is the zero that an unlisted one reads as. -/
def Obligations.StepKeepsMemory : Prop := ∀ s t, s.MemWf → step s = .next t → t.MemWf

/-- R340, R397, R399, R431, R478, R482: right after reset the memories are in canonical form and the registers hold what
the spec gives: cycle 0, no wave, block, launch or context, no owner with a lease of 1,000 ms, the remap table one to
one, the limits of peers' silence and of power, THRCTL, the journal and the error log off. -/
def Obligations.ResetState : Prop :=
  let s := State.reset
  s.MemWf ∧ s.cycle = 0 ∧ s.waves = [] ∧ s.blocks = [] ∧ s.launches = [] ∧ s.ctxs = [] ∧ s.owned = false ∧
  s.leaseMs = 1000 ∧ s.dropcnt = 0 ∧ s.hblost = 1000 ∧ s.pwrcap = 2400 ∧ s.thrctl = 0 ∧ s.errSize = 0 ∧
  s.jrnSize = 0 ∧ s.bquant = 128 ∧ s.flgap = 200 ∧ s.rep.mode = 0 ∧
  ∀ c < 48, tget s.remap c 0 = BitVec.ofNat 32 (0x8000 + c / 12 * 256 + c % 12)

/-! ### Statements made of several rules -/

/-- Each SALU3 instruction of two 32-bit sources and each SALUI or SCNST form completes with its function of the sources
and the immediate in D, the pc advanced, and every other register, flag, special register and byte of memory
unchanged. Division by 0 gives all ones and the remainder by 0 the dividend. Logical and arithmetic immediates are
sign-extended, those of shifts are counts below 32; `sli` writes the zero-extended immediate and `slih` the upper half
alone. -/
def Obligations.ScalarArithmetic : Prop :=
  ScalarArithmeticRule ∧ ScalarImmediatesRule

/-- Shifts take their count from the whole value of B: 32 or more (64 or more for a pair) gives 0, or copies of the sign
for `ssra`. Bit counts and bit fields are computed from their sources; pairs are added, subtracted and shifted modulo
2^64, the sources read before D is written. Each completes, advances, and leaves everything else unchanged. -/
def Obligations.ScalarShiftsFieldsAndPairs : Prop :=
  ScalarShiftsAndFieldsRule ∧ ScalarPairsRule

/-- Each VINT3 instruction, and its VINTS form with a scalar B, writes its function of the elements to D in the active
lanes, at every size; inactive lanes and every other register and byte of memory are unchanged. -/
def Obligations.VectorInteger : Prop :=
  VectorIntegerVectorsRule ∧ VectorIntegerScalarRule

/-- `vmad` adds the product of A and B to D, with a vector or a scalar B. VINTI sign-extends its immediate to the element,
and gives its one-source functions. Elements packed in a word are combined one by one, each with the element in the
same place. -/
def Obligations.VectorIntegerMultiplyAddAndImmediates : Prop :=
  VectorMultiplyAddRule ∧ VectorIntegerImmediatesRule ∧ PackedElementsRule

/-- Each two-source or one-source float instruction gives its function of the sources in each active lane, rounded under
the lane's mode where it rounds, and ORs its flags into the lane's `fpc`; everything else is unchanged. The scalar
forms do the same with a scalar B. -/
def Obligations.FloatElementwise : Prop :=
  FloatElementwiseRule ∧ FloatScalarFormsRule

/-- The fused multiply-adds use D as addend; the functions of VSFU give their results and flags. A float instruction,
shown of `fadd`, that raises NV in an active lane while the trap is enabled completes, and then takes FP_INVALID with
the lanes that raised NV and its own address. -/
def Obligations.FloatFusedSpecialAndTrap : Prop :=
  FloatFusedAndSpecialRule ∧ InvalidTrapRule

/-- A comparison gives the pair D the mask of the active lanes in which it holds, and ORs its flags into `fpc`. `vcvt`
gives each active lane the converted element: a pair, the element at its position within the old word of D, or the
element in its container; everything else stays. -/
def Obligations.ComparisonsAndConversions : Prop :=
  VectorCompareRule ∧ VectorConvertRule

/-- Each move completes with the value of its source in its destination and nothing else changed. `vread` gives lane k of
A, or 0 when k is W or more; `vwrite` writes lane k of D, or nothing when k is W or more. -/
def Obligations.MovesAndSingleLanes : Prop :=
  MovesRule ∧ SingleLanesRule

/-- Each lane-moving form gives each active lane the element of the lane it names, read before the instruction, or 0
beyond W. Votes and ballots look at the active lanes alone, and write their scalar destination whatever em holds. A
match gives each lane the size of its group, its place in it, its first lane, and whether it is the last. -/
def Obligations.LaneMovesVotesAndMatches : Prop :=
  LaneMovesRule ∧ VotesAndMatchesRule

/-- A branch goes to its target when its condition holds on its operand (for the mask branches on `em`), otherwise to the
next instruction, and changes no register. `call` leaves the address of the next instruction in its register. `jr` and
`ret` go to an address that is a multiple of 4 in the slot of the pc, and raise PROTECTION on any other; that TINFO2
then holds the address is the model's choice (log 25). -/
def Obligations.BranchesAndCalls : Prop :=
  BranchesRule ∧ CallsAndJumpsRule

/-- `if`, `else`, `endif`, `mpush`, `mpop`, `loop`, `endl`, `brk` and `cont` complete with the em, mask stack, lc and pc
of their pseudocode, and nothing else changed, when the stack has the entries and the room they need. Otherwise they
raise MASK_OVERFLOW or MASK_UNDERFLOW with the depth. -/
def Obligations.MaskStack : Prop :=
  MaskInstructionsRule ∧ LoopExitsRule ∧ MaskStackTrapsRule

/-- A precise trap enters the handler of a wave in user mode, changing the acting wave alone: TPC, TEM, TCODE and TINFO
are saved, em becomes the live lanes, privilege 1, the progress counter 0, pc the handler slot. On a speculated path
it is kept until the vote resolves; in privileged mode it is a double fault, which removes the block. `trap` and
`brkpt` complete and then trap, with TPC at the next instruction; a word that is no instruction traps with its own
address, and the word in TINFO2. -/
def Obligations.Traps : Prop :=
  TrapEntryRule ∧ TrapInstructionsRule

/-- Outside speculation, and shown of the instructions that the rules name: an operand that is misaligned or not the
wave's raises ILLEGAL_REGISTER with the instruction word and the first such register (the order D, A, B is the model's
choice, log 24); a privileged instruction in user mode raises PRIVILEGE before its operands are looked at; an
instruction that names a register of an outstanding load waits; reading a poisoned scalar raises POISON, and an
instruction that only writes it clears the poison; in a handler the trap is held and the instruction goes on (the
model's choice, log 53). On a speculated path the wave waits at an instruction that may not run there and at one past
the limits. -/
def Obligations.IssueChecks : Prop :=
  IllegalRegisterRule ∧ PrivilegeTrapRule ∧ ScoreboardRule ∧ PoisonReadRule ∧ SpeculationLimitsRule

/-- `tret` goes back to TPC with TEM among the live lanes and privilege 0; a wave whose last lanes had exited goes on
draining (the model's choice, log 29). `tret.park` with a request pending parks the wave, its CP count dropped, and is
`tret` without one; `tret.kill` removes the block with the code of the trap served. A wave that may take its pending
traps takes the first in rank at its boundary, and that trap is no longer pending. -/
def Obligations.TrapReturnAndPendingTraps : Prop :=
  TrapReturnRule ∧ PendingTrapsRule

/-- `exit` takes the active lanes out of the live ones; the last ones make the wave drain, once no vote of it is cast;
with no active live lane it only advances. A pending trap of a failed copy is taken instead. `nop` and a `ppoint`
without a request do nothing, `wbase` moves the register window; `ppoint` with a request outside a handler and a
speculated path queues PREEMPT (as an event at the next boundary: the model's choice, log 29). -/
def Obligations.ExitAndSimpleSystem : Prop :=
  ExitRule ∧ SimpleSystemRule

/-- Each system register reads as its rule says; `rdsys` writes it to D and changes nothing else; `wrsys` writes it in a
handler, with the bits that the register has. -/
def Obligations.SystemRegisters : Prop :=
  SystemRegisterValuesRule ∧ SystemRegistersRule

/-- `ldg` makes a load outstanding with the bytes at its lanes' places, extended to the element; no memory and no register
changes; with an acquire scope it ends the wave's region. Outside speculation `stg` writes the low bytes of D at its
lanes' places in ascending lane order and nothing else in any memory, and is counted on ST; a release store first
waits until its scope has the wave's earlier accesses and ends the region; a region whose tags another rank still
holds is retired there first (R207). Under speculation plain stores are kept in the hold buffer with the registers
before them; no memory changes. (That accesses are performed when they are accepted is the model's choice, log 5.) -/
def Obligations.GlobalLoadsAndStores : Prop :=
  GlobalLoadsRule ∧ GlobalStoresRule ∧ HeldStoresRule

/-- Each global atomic performs, in ascending lane order, its function of the old value and the operand at each active
lane's place, delivers the old values when it has a destination, ends the region at its scope, and changes no other
byte. A poisoned place stays as it is and every lane receives the value before its own operation. (That it is
performed when it is accepted is the model's choice, log 5.) -/
def Obligations.GlobalAtomics : Prop :=
  GlobalAtomicsRule ∧ AtomicFunctionsRule

/-- A misaligned lane raises MISALIGNED, one beyond the address space PROTECTION, and a failed translation the trap of its
failure, with the lanes that meet it, the first address and the access kind; shown of plain `ldg` and `stg`. Outside
handlers and speculation a plain load that meets another party's write tag, and a plain store that meets another
party's tag, raise MM_CONFLICT with both access kinds, the other party's identity and region; no memory changes. What
TINFO2 holds is the model's choice (log 27) and is not stated. A party never clashes with itself, a fourth reader of a
granule finds no room, and of the readers that a plain store meets the one of the lowest identity is named. -/
def Obligations.GlobalFaultsAndRaces : Prop :=
  GlobalAccessFaultsRule ∧ RaceTrapsRule ∧ TagRulesRule

/-- A reader stalls at EMPTY and at FILLING of another; a writer stalls at FULL and conflicts at FILLING of another, as
`lds.take` does at its own; OPEN admits all. The state after an admitted event by a wave is the table's. -/
def Obligations.LineStates : Prop :=
  LineAdmissionRule ∧ LineTransitionsRule

/-- `lds` and `lds.take` make a load outstanding with the scratchpad's bytes and take their lines to the next state; no
byte and no register changes. `lds.try` never waits for a line: it delivers the bytes of the lines it can read and a
status word for each lane, and changes no line's state; `lds.line` delivers the status alone. On a speculated path
they are tracked, with the state of their lines, and `sts` is held with the registers before it. Outside speculation
`sts` writes its lanes' bytes in ascending lane order, takes its lines to the next state and is counted on ST; no
other byte of any memory changes. The region ends unless every line is OPEN. -/
def Obligations.ScratchAccesses : Prop :=
  ScratchLoadsRule ∧ ScratchPeeksRule ∧ ScratchStoresRule ∧ SpeculatedScratchRule

/-- Scratchpad atomics act on the scratchpad's words as the global ones do on memory. `sfin`, `sclr` and `sopen` take
their lanes' lines to FULL, EMPTY and OPEN, touch no byte, are counted on ST and end the region. Shown of `lds` and
`sts`: a misaligned lane raises MISALIGNED, one at or above s143 PROTECTION, one at a line filling under another
FILL_CONFLICT; one at a line that does not take it yet waits at its instruction with its registers as they are. -/
def Obligations.ScratchAtomicsLinesAndFaults : Prop :=
  ScratchAtomicsRule ∧ LineOperationsRule ∧ ScratchFaultsRule

/-- A fence ends the region and touches no memory: `fence.acq` once no load of the wave waits for a peer, the others once
its earlier accesses are performed at their scope; before that they wait. `wait` goes on when each counter is at or
below its limit and waits otherwise; it changes no register and does not end the region; a pending trap of poison or
of a failed copy is taken instead. (That local loads have been performed when they are accepted, so that a fence waits
for none, is log 5; what a release waits for, and the end message to other ranks with its answer, are logs 31 and 33.)
-/
def Obligations.FencesAndWaits : Prop :=
  FencesRule ∧ WaitCountersRule

/-- Arriving sets the wave's bit at the barrier, the first arrival fixing the count; the last expected arrival flips the
phase and clears the bits. `bar.wt` waits while the wave's bit is set, and `bar` arrives and then waits with its wait
owed. `sig` adds pair B to the word at pair A, once, after its release; `sigwait` waits while the word is below pair
B, unsigned, and then ends the region without a write; that `sigwait` raises POISON at a poisoned word is the model's
choice (log 54). -/
def Obligations.BarriersAndSignals : Prop :=
  BarriersRule ∧ SignalsRule

/-- A copy instruction takes the lowest free entry of its block's core, delivers its handle and is counted on CP; an
invalid descriptor ends at once with COPY_ERROR pending, an empty copy completes at once; nothing is copied yet. The
engine serves the entry at its turn, one line at a time, as one access whose lines must all admit it (R487): the bytes
of the source, converted, expanded, encrypted or decrypted as the descriptor asks, are those of the destination, and
memory elsewhere is as before; a reduction's contributions go to their region. (What is read when, and the order of
the lines, are the model's choices, logs 5, 31 and 32.) -/
def Obligations.CopyEngine : Prop :=
  CopyInstructionsRule ∧ CopyServiceRule ∧ CopyConversionsRule ∧ CopyCryptoRule ∧ CopyReductionsRule

/-- Once every peer agrees, `rld` makes one load outstanding, `rst` writes the local lanes' words and is counted on ST,
with a message to each other rank that can be reached; before, the checks are asked for, once, and the wave waits.
`rld` gives its lanes the words at their places, those of other ranks as their homes answer. `ratom` performs the
lanes at its own rank in order, the others being asked of their homes, and ends the region; `rput` and `rget` with an
active lane are counted once and advance, and what an `rput` sends arrives at its lines; `rflush` only advances. A
rank outside the job or a nonzero peer word raises PROTECTION. (That what is accepted is performed then is log 5; that
peers are asked once, and what is then held, is log 33.) -/
def Obligations.RemoteAccesses : Prop :=
  RemoteAccessesRule ∧ RemoteAtomicsAndTransfersRule

/-- At the home, the end of a region retires the issuer's tags and is answered, a check that passes is answered and holds
its places, which a party that gives up lets go, a load is answered with the bytes at its places, a store writes them;
words of an `rput` for a line that admits them are written there, and the sender is answered. An ELEM contribution
whose turn it is is applied to its elements in full, the region's count goes on, and its issuer is told; one sent
again after a refusal ends its copy; one early is held, one behind fails. A SUM contribution that agrees with those
before it is kept, and the one that completes the vector writes the sum. (Places held by a check are log 57, the
answered end of a region log 33, elements beyond the vector log 54.) -/
def Obligations.RemoteRequestsAndReductions : Prop :=
  RemoteRequestsRule ∧ ReductionsRule

/-- They issue when their tile and slots are free, capture their bytes of the scratchpad, and are counted on TL; the scale
factors are the 16 or 64 bytes after the data. An `mma` that completes writes each element of its tile, a sum of
groups of products in the arithmetic of its class, and raises in the tile's status word the flags of those sums;
`bload` fills its slots, `mld` its tile; each leaves TL in order and leaves every other tile as it was. (The order of
completions and what a poisoned byte marks are the model's choices, logs 2, 26 and 54.) -/
def Obligations.MatrixOperations : Prop :=
  MatrixIssueRule ∧ MatrixCompletionRule

/-- `mzero` gives a tile, or a pair, its type, zeros and a clear status; `mstat` reads the status word, `mstat.clr` reads
and clears it, `mstat.set` sets bits [4:2] and [0] from its operand; `bfree` empties the slot, or both of an f64
operand. `mtov` gives each active lane the element at its row and column, zero beyond column 63, with the poison of
the element; `vtom` writes those elements and no others. -/
def Obligations.TileInstructions : Prop :=
  TileStatusRule ∧ TileElementsRule

/-- `mst` captures its tile converted to its format, with the flags raised in the tile's status, and its lines are written
one at a time, each once the block's line can take it: an EMPTY line becomes FILLING and, when all its bytes are
written, FULL, an OPEN line stays OPEN, and at a line that is FULL or filling under another the write waits (the order
of a plan's lines is log 26). A matrix instruction on a lost partition raises MATRIX_LOST, `mst` of the odd tile of an
FP64 pair ILLEGAL_REGISTER, an address that is misaligned or out of range its fault, a pairing that is not admitted
SHELF_FORMAT. A self-test starts the partition's count again, a failed bank is fenced and a second one loses the
partition; an engine that hangs is in reset for 4,096 clocks, after which the tiles and the outstanding operations of
the waves on it are gone. -/
def Obligations.TileStoresAndRecovery : Prop :=
  TileStoresRule ∧ MatrixRecoveryRule

/-- `cbr.any` and `cbr.all` with a result branch as any, or all, of the votes tell; without one they cast their vote once
and go on under speculation at the hinted side, the other side kept. `qbar` completes with a result and waits without
one. A collective on the byte 255 raises PROTECTION, on a poisoned quorum QUORUM_ABORT with its poisoner, at another
site than its ordinal's COLLECTIVE_MISMATCH, after a timeout COLLECTIVE_TIMEOUT; shown of `qbar`. (What a home learns
and when is the model's choice, log 34.) -/
def Obligations.Collectives : Prop :=
  CollectiveBranchesRule ∧ CollectiveTrapsRule

/-- `cvote` casts a proxy vote with the value of its operand; `qleave` gives the slot byte 255 and tells the home; `qstat`
reads the member's state (log 34). `tkwait` completes once its block's ticket is current, `tkpass` passes it on over
every pass recorded after it; outside an ordered launch both raise PROTECTION, behind a broken ticket TICKET_BROKEN.
-/
def Obligations.QuorumsAndTickets : Prop :=
  QuorumInstructionsRule ∧ TicketsRule

/-- At its home a vote joins its ordinal; with the last current member's vote the ordinal resolves and every voter is sent
the result; a loss poisons the quorum; a departure lowers the membership. A result reaches the member that voted,
whose next ordinal it opens; a member that speculated past a collective and finds the other direction resolved, or
another site, goes back to it with the registers of before; an ordinal whose timer has run out tells its voters. A
package that is not the home gathers its members' votes into one message (R313); that is stated with `qbar` and
`cvote`. (When a member learns of a result, and what times out, is log 34.) -/
def Obligations.Votes : Prop :=
  VoteArrivalsRule ∧ VoteResultsRule

/-- The first load of a wave, complete, is written in its lanes to the registers it is for; a peer's answer to an access
answers its pass, values and poison; a store that is performed leaves ST; a draining wave with nothing outstanding, of
a block with no parked wave, is Exited, without tags, once the homes of its tags at other ranks have answered; an
instruction that brings the progress counter to its limit leaves WATCHDOG pending, or deferred on a speculated path,
and it is taken at the boundary. A drive's completion ends the command, leaves the lane's status and block count for
the reply, and for a Read writes its buffer; a command that a revocation aborted ends with 2 and delivers nothing. -/
def Obligations.Completions : Prop :=
  WaveCompletionsRule ∧ StorageCompletionsRule

/-- At its deadline a wave that has not been pre-empted takes PREEMPT, its speculation rolled back; a parking wave with
nothing outstanding is parked; a Saved block whose place is free again is Resident, its waves in their handlers with
PREEMPT, once its image can be read (what it keeps beyond R381 is log 29). The next block of a launch is placed with
each wave at pc 0 of slot 0 and all its lanes active; a block all of whose waves are Exited leaves its cores and
counts as retired; a core whose quantum ends is switched out when another has work, else its quantum starts again. -/
def Obligations.PreemptionAndBlocks : Prop :=
  PreemptionRule ∧ BlockLifeRule

/-- A well-formed LAUNCH whose checks hold becomes a launch whose blocks are all Pending, and completes later; a bad field
of its descriptor, a grid of no or too many blocks, a handler slot that an overlay is preloaded into complete it at
once with their status; a malformed entry is CMD_INVALID with the offset of its first bad field, whatever its op (logs
8 and 37). A launch all of whose blocks have retired adds 1 to its signal word and completes with OK, or with ABORTED
and the code when one of its blocks was removed. -/
def Obligations.Launches : Prop :=
  MalformedEntryRule ∧ LaunchCommandRule ∧ LaunchEndRule

/-- CREATE makes a context of its descriptor, a confidential one of a TDI in RUN alone; DESTROY marks it and stays at hand
and, once nothing is left, removes what is tagged with it; QWRITE writes an entry that no launch is bound to; an error
of a TDI puts it into ERROR and destroys its context in the same way. KEYSET and KEYCLR fill and clear a key slot,
TLBINV drops the range's translations, LEASE gives a storage lease, REVOKE takes its range away at once, or 50 ms
later by aborts, 1.05 s later by a reset of the drive's controller. ATTEST writes the report of its context, with the
nonce, to HBM4; SPDM answers with the same report, with a certificate chain, and installs a key. (The operands' layout
is the model's choice, log 16; what signatures and chains hold is free, log 9.) -/
def Obligations.Administration : Prop :=
  ContextAdministrationRule ∧ KeysAndLeasesRule ∧ AttestationRule

/-- HALT, RESUME and STEP set whether a wave stops at its next instruction; READ_REGISTER answers with a lane of a vector
register or a system register, WRITE_REGISTER writes it (operands laid out as log 17 says). A request that is not
allowed, or names no wave, is answered with all ones, or dropped. A context samples in the clocks whose number is a
multiple of its period; a sample counts a record for each partition of its core in the context's ring, and its fields
show the wave and what it did. A debuggable context's Attic sections answer a read (what they hold is free, log 9). A
reading of the wait-for graph finds DEADLOCK for stalled nodes on cycles, UNSATISFIABLE for a barrier that too few
waves can reach, STARVED for a stalled Pending block that no stalled node holds up, LONG_WAIT for a stalled wave whose
edges are all unknown, and nothing else; each is reported once. (What makes findings one, and the detail of
UNSATISFIABLE, is log 41.) -/
def Obligations.DebugAndObservation : Prop :=
  DebugRequestsRule ∧ ObservationRule ∧ FindingsRule

/-- What an access waits for is answered by the service cores, which may write the entry at which its walk ended, the
host's translation, its PRI response, its absence for 10 ms, or the end of a migration, which takes the tags of a
moved page with it; an ATS invalidation drops the translations of its range and is acknowledged once nothing accepted
under them is left to perform (which entry is answered is log 43). A page's shoot-down goes through its four steps in
order; the fourth ends it and answers. An uncorrectable error poisons the data at its place (of DDR-5 its burst of 64
bytes, of a dirty line each of its granules), which keeps its value, and a record of it is counted when the error log
is enabled; a change of a memory's refresh rate is noted. -/
def Obligations.FaultAnswersAndErrors : Prop :=
  FaultAnswersRule ∧ ShootdownsRule ∧ ErrorsRule

/-- THRCTL takes the low five bits, its skip acting from the next group of 16 clocks, its hold at once; a power
measurement is kept and, within cap and temperature, throttles nothing, above one writes THRCTL (a free value, log 9),
and at 115 °C takes power away; a thermal shutdown takes power away and ends a recording; a firmware update waits in
the flash. A write of a register by a master with the right sets it; by another, or where no register can be written,
it is dropped and counted once; one of 8 bytes writes both halves; a read gives what was written. (The numbering of
the management interface's registers is the model's choice, log 17.) -/
def Obligations.PowerAndRegisters : Prop :=
  PowerRule ∧ RegisterWritesRule

end
end

