-- ==== Sys2Proof/Laws/Image.lean ====
section
/-! SUPPORT. Lengths: of a SHA-384 digest, and of an Attic image's header and section table. -/

namespace Sys2Proof.Machine

theorem beBytes_length (n x : Nat) : (beBytes n x).length = n := by simp [beBytes]

theorem leBytes_length (n x : Nat) : (leBytes n x).length = n := by
  induction n generalizing x with
  | zero => rfl
  | succ n ih => simp [leBytes, ih]

theorem byteList_length (xs : List Nat) : (byteList xs).length = xs.length := by simp [byteList]

theorem shaRound_length (v : List Nat) (k w : Nat) (h : v.length = 8) : (shaRound v k w).length = 8 := by
  unfold shaRound
  split
  · rfl
  · exact h

theorem shaBlock_length (h bs : List Nat) (hl : h.length = 8) : (shaBlock h bs).length = 8 := by
  have fold : ∀ (xs : List (Nat × Nat)) (v : List Nat), v.length = 8 →
      (xs.foldl (fun v x => shaRound v x.1 x.2) v).length = 8 := by
    intro xs
    induction xs with
    | nil => exact fun _ hv => hv
    | cons x xs ih => exact fun v hv => ih _ (shaRound_length v x.1 x.2 hv)
  simp only [shaBlock, List.length_zipWith, hl, fold _ h hl, Nat.min_self]

theorem shaBlocks_length (n : Nat) (h bs : List Nat) (hl : h.length = 8) : (shaBlocks n h bs).length = 8 := by
  induction n generalizing h bs with
  | zero => exact hl
  | succ n ih => exact ih _ _ (shaBlock_length h _ hl)

/-- A SHA-384 digest has 48 bytes. -/
theorem sha384_length (m : List Nat) : (sha384 m).length = 48 := by
  have h8 : ∀ n bs, (shaBlocks n sha384Init bs).length = 8 := fun n bs =>
    shaBlocks_length n _ bs (by decide +kernel)
  simp only [sha384, List.length_flatMap, beBytes_length, List.map_const', List.sum_replicate, List.length_take, h8]
  rfl

/-- An entry of the section table has 80 bytes (R462). -/
theorem partEntry_length (x : Nat × AtticPart) : (partEntry x).length = 80 := by
  simp [partEntry, leBytes_length, byteList_length, sha384_length]

theorem placeParts_length (n : Nat) (ps : List AtticPart) : (placeParts n ps).length = ps.length := by
  induction ps generalizing n with
  | nil => rfl
  | cons p ps ih => simp [placeParts, ih]

/-- The sections of an image: of the four dies, of what is shared, of each context, of the DRAM's digests. -/
theorem State.parts_length (s : State) (dram : Bool) : (s.parts dram).length = s.ctxs.length + dram.toNat + 5 := by
  simp only [State.parts, placeParts_length, State.sections]
  cases dram <;> simp <;> omega

theorem State.imageHead_length (s : State) (dram : Bool) : (s.imageHead dram).length = 96 := by
  simp [State.imageHead, leBytes_length, byteList_length, sha384_length, atticMagic]

/-- The header of an image fills its 4 KiB (R462). -/
theorem State.imageHeader_length (s : State) (dram : Bool) :
    (s.imageHeader dram).length = headSize (s.parts dram).length := by
  have ht : ((s.parts dram).flatMap partEntry).length = 80 * (s.parts dram).length := by
    simp only [List.length_flatMap, partEntry_length, List.map_const', List.sum_replicate, smul_eq_mul]
    omega
  have hs : 144 + 80 * (s.parts dram).length ≤ headSize (s.parts dram).length := by
    simp only [headSize, up4k]
    omega
  simp only [State.imageHeader, List.length_append, State.imageHead_length, byteList_length, sha384_length, ht, atticFill,
    List.length_map, List.length_range]
  omega

/-- A digest-only scan writes the header alone (R463). -/
theorem State.imageBody_digest (s : State) (dram : Bool) : s.imageBody false dram = [] := rfl

theorem State.imageNow_digest_length (s : State) : (s.imageNow false).length = headSize (s.parts s.scanDram).length := by
  simp [State.imageNow, State.imageBody_digest, State.imageHeader_length]

end Sys2Proof.Machine
end

