-- ==== Sys2Proof/Laws/Memory.lean ====
section
/-! SUPPORT. The laws of a memory: every operation keeps the canonical form, a byte written reads back, and every
other byte reads as before. -/

namespace Sys2Proof.Machine

theorem Memory.read_insert_same (m : Memory) (a : Nat) (b : Byte) (h : ∀ c ∈ m, c.1 ≠ a) :
    (Memory.insert m a b).read a = b := by
  induction m with
  | nil => simp [Memory.insert, Memory.read]
  | cons e m ih =>
    obtain ⟨k, v⟩ := e
    have hk : k ≠ a := h (k, v) (by simp)
    simp only [Memory.insert]
    split
    · simp [Memory.read]
    · simp [Memory.read, hk, ih fun c hc => h c (by simp [hc])]

theorem Memory.read_insert_ne (m : Memory) (a c : Nat) (b : Byte) (h : c ≠ a) :
    (Memory.insert m a b).read c = m.read c := by
  induction m with
  | nil => simp [Memory.insert, Memory.read, Ne.symm h]
  | cons e m ih =>
    obtain ⟨k, v⟩ := e
    simp only [Memory.insert]
    split
    · simp [Memory.read, Ne.symm h]
    · simp [Memory.read, ih]

theorem Memory.read_without_same (m : Memory) (a : Nat) :
    Memory.read (m.filter fun c => c.1 ≠ a) a = 0 := by
  induction m with
  | nil => simp [Memory.read]
  | cons e m ih =>
    obtain ⟨k, v⟩ := e
    by_cases hk : k = a
    · simpa [List.filter, hk] using ih
    · simp only [ne_eq, hk, not_false_eq_true, decide_true, List.filter_cons_of_pos, Memory.read, if_neg]
      simpa using ih

theorem Memory.read_without_ne (m : Memory) (a c : Nat) (h : c ≠ a) :
    Memory.read (m.filter fun x => x.1 ≠ a) c = m.read c := by
  induction m with
  | nil => simp [Memory.read]
  | cons e m ih =>
    obtain ⟨k, v⟩ := e
    by_cases hk : k = a
    · have : k ≠ c := fun e => h (e ▸ hk)
      simpa [List.filter, hk, Memory.read, Ne.symm h] using ih
    · simp only [ne_eq, hk, not_false_eq_true, decide_true, List.filter_cons_of_pos, Memory.read]
      split
      · rfl
      · simpa using ih

/-- A byte written reads back. -/
@[simp] theorem Memory.read_write_same (m : Memory) (a : Nat) (b : Byte) : (m.write a b).read a = b := by
  unfold Memory.write
  split
  · rename_i h; rw [Memory.read_without_same]; exact h.symm
  · exact Memory.read_insert_same _ _ _ fun c hc => by simpa using (List.mem_filter.mp hc).2

/-- Every other byte reads as before. -/
theorem Memory.read_write_ne (m : Memory) (a c : Nat) (b : Byte) (h : c ≠ a) : (m.write a b).read c = m.read c := by
  unfold Memory.write
  split
  · exact Memory.read_without_ne m a c h
  · rw [Memory.read_insert_ne _ _ _ _ h]; exact Memory.read_without_ne m a c h

/-- Bytes outside those written read as before. -/
theorem Memory.read_writeList_outside (bs : List Byte) (m : Memory) (a c : Nat) (h : c < a ∨ a + bs.length ≤ c) :
    (m.writeList a bs).read c = m.read c := by
  induction bs generalizing m a with
  | nil => rfl
  | cons b bs ih =>
    simp only [List.length_cons] at h
    rw [Memory.writeList, ih _ _ (by omega), Memory.read_write_ne _ _ _ _ (by omega)]

/-- The bytes written read back. -/
theorem Memory.read_writeList_inside (bs : List Byte) (m : Memory) (a i : Nat) (h : i < bs.length) :
    (m.writeList a bs).read (a + i) = bs[i] := by
  induction bs generalizing m a i with
  | nil => simp at h
  | cons b bs ih =>
    rw [Memory.writeList]
    cases i with
    | zero => rw [Memory.read_writeList_outside _ _ _ _ (by omega)]; simp
    | succ i =>
      have := ih (m.write a b) (a + 1) i (by simpa using h)
      rw [show a + (i + 1) = a + 1 + i by omega, this]; rfl

/-! ### The canonical form -/

theorem Memory.wf_filter (m : Memory) (p : Host.Cell → Bool) (h : Memory.wf m) : Memory.wf (m.filter p) :=
  ⟨h.1.filter _, fun c hc => h.2 c (List.mem_of_mem_filter hc)⟩

theorem Memory.mem_insert {m : Memory} {a : Nat} {b : Byte} {c : Host.Cell} (h : c ∈ Memory.insert m a b) :
    c = (a, b) ∨ c ∈ m := by
  induction m with
  | nil => simpa [Memory.insert] using h
  | cons e m ih =>
    obtain ⟨k, v⟩ := e
    simp only [Memory.insert] at h
    split at h
    · simpa using h
    · rcases List.mem_cons.mp h with h | h
      · exact .inr (by simp [h])
      · rcases ih h with h | h
        · exact .inl h
        · exact .inr (by simp [h])

theorem Memory.wf_insert (m : Memory) (a : Nat) (b : Byte) (h : Memory.wf m) (ha : ∀ c ∈ m, c.1 ≠ a) (hb : b ≠ 0) :
    Memory.wf (Memory.insert m a b) := by
  induction m with
  | nil => simpa [Memory.wf, Memory.insert] using hb
  | cons e m ih =>
    obtain ⟨k, v⟩ := e
    have hk : k ≠ a := ha (k, v) (by simp)
    obtain ⟨hp, hz⟩ := h
    rw [List.pairwise_cons] at hp
    have ih' := ih ⟨hp.2, fun c hc => hz c (by simp [hc])⟩ fun c hc => ha c (by simp [hc])
    simp only [Memory.insert]
    split
    · rename_i hlt
      refine ⟨List.pairwise_cons.mpr ⟨fun c hc => ?_, List.pairwise_cons.mpr hp⟩, fun c hc => ?_⟩
      · rcases List.mem_cons.mp hc with rfl | hc
        · exact hlt
        · exact Nat.lt_trans hlt (hp.1 c hc)
      · rcases List.mem_cons.mp hc with rfl | hc
        · exact hb
        · exact hz c hc
    · rename_i hlt
      refine ⟨List.pairwise_cons.mpr ⟨fun c hc => ?_, ih'.1⟩, fun c hc => ?_⟩
      · rcases Memory.mem_insert hc with rfl | hc
        · simp only; omega
        · exact hp.1 c hc
      · rcases List.mem_cons.mp hc with rfl | hc
        · exact hz _ (by simp)
        · exact ih'.2 c hc

/-- A write of a byte keeps the canonical form. -/
theorem Memory.wf_write (m : Memory) (a : Nat) (b : Byte) (h : Memory.wf m) : Memory.wf (m.write a b) := by
  unfold Memory.write
  split
  · exact Memory.wf_filter m _ h
  · rename_i hb
    exact Memory.wf_insert _ a b (Memory.wf_filter m _ h) (fun c hc => by simpa using (List.mem_filter.mp hc).2) hb

/-- A write of several bytes keeps the canonical form. -/
theorem Memory.wf_writeList (bs : List Byte) (m : Memory) (a : Nat) (h : Memory.wf m) :
    Memory.wf (m.writeList a bs) := by
  induction bs generalizing m a with
  | nil => exact h
  | cons b bs ih => exact ih _ _ (Memory.wf_write m a b h)

/-- Writes of single bytes, one after another, keep the canonical form. -/
theorem Memory.wf_foldl_write (cs : List (Nat × Byte)) (m : Memory) (h : Memory.wf m) :
    Memory.wf (cs.foldl (fun m c => m.write c.1 c.2) m) := by
  induction cs generalizing m with
  | nil => exact h
  | cons c cs ih => exact ih _ (Memory.wf_write m c.1 c.2 h)

end Sys2Proof.Machine
end

