-- ==== Sys2Proof/Laws/Tables.lean ====
section
/-! SUPPORT. The laws of tables: what an entry reads as after an entry is set or erased, and of lane values. -/

namespace Sys2Proof.Machine

@[simp] theorem tfind?_tset_same {α : Type} (t : Tbl α) (n : Nat) (v : α) : tfind? (tset t n v) n = some v := by
  induction t with
  | nil => simp [tset, tfind?]
  | cons e t ih =>
    obtain ⟨k, u⟩ := e
    simp only [tset]
    split
    · simp [tfind?]
    · split
      · simp [tfind?]
      · simp [tfind?, *]

theorem tfind?_tset_ne {α : Type} (t : Tbl α) {n m : Nat} (v : α) (h : m ≠ n) :
    tfind? (tset t n v) m = tfind? t m := by
  induction t with
  | nil => simp [tset, tfind?, Ne.symm h]
  | cons e t ih =>
    obtain ⟨k, u⟩ := e
    simp only [tset]
    split
    · rename_i hk
      simp [tfind?, hk, Ne.symm h]
    · split
      · simp [tfind?, Ne.symm h]
      · simp [tfind?, ih]

@[simp] theorem tget_tset_same {α : Type} (t : Tbl α) (n : Nat) (v d : α) : tget (tset t n v) n d = v := by
  simp [tget]

theorem tget_tset_ne {α : Type} (t : Tbl α) {n m : Nat} (v d : α) (h : m ≠ n) :
    tget (tset t n v) m d = tget t m d := by
  simp [tget, tfind?_tset_ne t v h]

/-- Setting an entry twice leaves the second value. -/
@[simp] theorem tset_tset {α : Type} (t : Tbl α) (n : Nat) (u v : α) : tset (tset t n u) n v = tset t n v := by
  induction t with
  | nil => simp [tset]
  | cons e t ih =>
    obtain ⟨k, w⟩ := e
    by_cases hk : k = n
    · simp [tset, hk]
    · by_cases hn : n < k
      · simp [tset, hk, hn]
      · simp [tset, hk, hn, ih]

theorem tfind?_filter {α : Type} (t : Tbl α) (p : Nat → Bool) (n : Nat) :
    tfind? (t.filter fun e => p e.1) n = if p n then tfind? t n else none := by
  induction t with
  | nil => simp [tfind?]
  | cons e t ih =>
    obtain ⟨k, u⟩ := e
    by_cases hk : k = n
    · by_cases hp : p n
      · simp [List.filter, hk, hp, tfind?]
      · simp [List.filter, hk, hp, ih]
    · by_cases hp : p k
      · simp [List.filter, hp, tfind?, hk, ih]
      · simp [List.filter, hp, tfind?, hk, ih]

@[simp] theorem tfind?_terase_same {α : Type} (t : Tbl α) (n : Nat) : tfind? (terase t n) n = none := by
  have h := tfind?_filter t (fun k => decide (k ≠ n)) n
  simpa [terase] using h

theorem tfind?_terase_ne {α : Type} (t : Tbl α) {n m : Nat} (h : m ≠ n) :
    tfind? (terase t n) m = tfind? t m := by
  have h' := tfind?_filter t (fun k => decide (k ≠ n)) m
  simpa [terase, h] using h'

/-! ### Lanes -/

@[simp] theorem lane_mkLanes (f : Nat → Word) {l : Nat} (h : l < 64) : lane (mkLanes f) l = f l := by
  simp [lane, mkLanes, List.getD, h]

end Sys2Proof.Machine
end

