-- ==== Sys2Proof/Laws/State.lean ====
section
/-! SUPPORT. What each update of the state leaves of each field, true by definition, so that no proof unfolds an
update; and what reads back of what was updated. -/

namespace Sys2Proof.Machine

/-! ### State.setWave -/

@[simp] theorem State.setWave_cycle (s : State) (w : Wave) : (s.setWave w).cycle = s.cycle := rfl
@[simp] theorem State.setWave_cur (s : State) (w : Wave) : (s.setWave w).cur = s.cur := rfl
@[simp] theorem State.setWave_acted (s : State) (w : Wave) : (s.setWave w).acted = s.acted := rfl
@[simp] theorem State.setWave_rr (s : State) (w : Wave) : (s.setWave w).rr = s.rr := rfl
@[simp] theorem State.setWave_turn (s : State) (w : Wave) : (s.setWave w).turn = s.turn := rfl
@[simp] theorem State.setWave_fresh (s : State) (w : Wave) : (s.setWave w).fresh = s.fresh := rfl
@[simp] theorem State.setWave_nextLaunch (s : State) (w : Wave) : (s.setWave w).nextLaunch = s.nextLaunch := rfl
@[simp] theorem State.setWave_blocks (s : State) (w : Wave) : (s.setWave w).blocks = s.blocks := rfl
@[simp] theorem State.setWave_launches (s : State) (w : Wave) : (s.setWave w).launches = s.launches := rfl
@[simp] theorem State.setWave_cores (s : State) (w : Wave) : (s.setWave w).cores = s.cores := rfl
@[simp] theorem State.setWave_engines (s : State) (w : Wave) : (s.setWave w).engines = s.engines := rfl
@[simp] theorem State.setWave_ctxs (s : State) (w : Wave) : (s.setWave w).ctxs = s.ctxs := rfl
@[simp] theorem State.setWave_dying (s : State) (w : Wave) : (s.setWave w).dying = s.dying := rfl
@[simp] theorem State.setWave_tags (s : State) (w : Wave) : (s.setWave w).tags = s.tags := rfl
@[simp] theorem State.setWave_tlb (s : State) (w : Wave) : (s.setWave w).tlb = s.tlb := rfl
@[simp] theorem State.setWave_invals (s : State) (w : Wave) : (s.setWave w).invals = s.invals := rfl
@[simp] theorem State.setWave_posts (s : State) (w : Wave) : (s.setWave w).posts = s.posts := rfl
@[simp] theorem State.setWave_tdis (s : State) (w : Wave) : (s.setWave w).tdis = s.tdis := rfl
@[simp] theorem State.setWave_priAlloc (s : State) (w : Wave) : (s.setWave w).priAlloc = s.priAlloc := rfl
@[simp] theorem State.setWave_frb (s : State) (w : Wave) : (s.setWave w).frb = s.frb := rfl
@[simp] theorem State.setWave_shoot (s : State) (w : Wave) : (s.setWave w).shoot = s.shoot := rfl
@[simp] theorem State.setWave_remap (s : State) (w : Wave) : (s.setWave w).remap = s.remap := rfl
@[simp] theorem State.setWave_bquant (s : State) (w : Wave) : (s.setWave w).bquant = s.bquant := rfl
@[simp] theorem State.setWave_flgap (s : State) (w : Wave) : (s.setWave w).flgap = s.flgap := rfl
@[simp] theorem State.setWave_jrnBase (s : State) (w : Wave) : (s.setWave w).jrnBase = s.jrnBase := rfl
@[simp] theorem State.setWave_jrnSize (s : State) (w : Wave) : (s.setWave w).jrnSize = s.jrnSize := rfl
@[simp] theorem State.setWave_jrnSeq (s : State) (w : Wave) : (s.setWave w).jrnSeq = s.jrnSeq := rfl
@[simp] theorem State.setWave_owned (s : State) (w : Wave) : (s.setWave w).owned = s.owned := rfl
@[simp] theorem State.setWave_openWin (s : State) (w : Wave) : (s.setWave w).openWin = s.openWin := rfl
@[simp] theorem State.setWave_giver (s : State) (w : Wave) : (s.setWave w).giver = s.giver := rfl
@[simp] theorem State.setWave_owner (s : State) (w : Wave) : (s.setWave w).owner = s.owner := rfl
@[simp] theorem State.setWave_claims (s : State) (w : Wave) : (s.setWave w).claims = s.claims := rfl
@[simp] theorem State.setWave_winEnd (s : State) (w : Wave) : (s.setWave w).winEnd = s.winEnd := rfl
@[simp] theorem State.setWave_leaseMs (s : State) (w : Wave) : (s.setWave w).leaseMs = s.leaseMs := rfl
@[simp] theorem State.setWave_beat (s : State) (w : Wave) : (s.setWave w).beat = s.beat := rfl
@[simp] theorem State.setWave_target (s : State) (w : Wave) : (s.setWave w).target = s.target := rfl
@[simp] theorem State.setWave_giveEnd (s : State) (w : Wave) : (s.setWave w).giveEnd = s.giveEnd := rfl
@[simp] theorem State.setWave_dropcnt (s : State) (w : Wave) : (s.setWave w).dropcnt = s.dropcnt := rfl
@[simp] theorem State.setWave_admReq (s : State) (w : Wave) : (s.setWave w).admReq = s.admReq := rfl
@[simp] theorem State.setWave_admNow (s : State) (w : Wave) : (s.setWave w).admNow = s.admNow := rfl
@[simp] theorem State.setWave_admBusy (s : State) (w : Wave) : (s.setWave w).admBusy = s.admBusy := rfl
@[simp] theorem State.setWave_admAt (s : State) (w : Wave) : (s.setWave w).admAt = s.admAt := rfl
@[simp] theorem State.setWave_admRes (s : State) (w : Wave) : (s.setWave w).admRes = s.admRes := rfl
@[simp] theorem State.setWave_errBase (s : State) (w : Wave) : (s.setWave w).errBase = s.errBase := rfl
@[simp] theorem State.setWave_errSize (s : State) (w : Wave) : (s.setWave w).errSize = s.errSize := rfl
@[simp] theorem State.setWave_errCnt (s : State) (w : Wave) : (s.setWave w).errCnt = s.errCnt := rfl
@[simp] theorem State.setWave_corrs (s : State) (w : Wave) : (s.setWave w).corrs = s.corrs := rfl
@[simp] theorem State.setWave_hblost (s : State) (w : Wave) : (s.setWave w).hblost = s.hblost := rfl
@[simp] theorem State.setWave_ports (s : State) (w : Wave) : (s.setWave w).ports = s.ports := rfl
@[simp] theorem State.setWave_linksDown (s : State) (w : Wave) : (s.setWave w).linksDown = s.linksDown := rfl
@[simp] theorem State.setWave_resends (s : State) (w : Wave) : (s.setWave w).resends = s.resends := rfl
@[simp] theorem State.setWave_lostRanks (s : State) (w : Wave) : (s.setWave w).lostRanks = s.lostRanks := rfl
@[simp] theorem State.setWave_heard (s : State) (w : Wave) : (s.setWave w).heard = s.heard := rfl
@[simp] theorem State.setWave_thrctl (s : State) (w : Wave) : (s.setWave w).thrctl = s.thrctl := rfl
@[simp] theorem State.setWave_thrLive (s : State) (w : Wave) : (s.setWave w).thrLive = s.thrLive := rfl
@[simp] theorem State.setWave_pwrcap (s : State) (w : Wave) : (s.setWave w).pwrcap = s.pwrcap := rfl
@[simp] theorem State.setWave_arbs (s : State) (w : Wave) : (s.setWave w).arbs = s.arbs := rfl
@[simp] theorem State.setWave_l2reqs (s : State) (w : Wave) : (s.setWave w).l2reqs = s.l2reqs := rfl
@[simp] theorem State.setWave_fills (s : State) (w : Wave) : (s.setWave w).fills = s.fills := rfl
@[simp] theorem State.setWave_sets (s : State) (w : Wave) : (s.setWave w).sets = s.sets := rfl
@[simp] theorem State.setWave_poison (s : State) (w : Wave) : (s.setWave w).poison = s.poison := rfl
@[simp] theorem State.setWave_alignofs (s : State) (w : Wave) : (s.setWave w).alignofs = s.alignofs := rfl
@[simp] theorem State.setWave_alignAt (s : State) (w : Wave) : (s.setWave w).alignAt = s.alignAt := rfl
@[simp] theorem State.setWave_reading (s : State) (w : Wave) : (s.setWave w).reading = s.reading := rfl
@[simp] theorem State.setWave_beatAt (s : State) (w : Wave) : (s.setWave w).beatAt = s.beatAt := rfl
@[simp] theorem State.setWave_storage (s : State) (w : Wave) : (s.setWave w).storage = s.storage := rfl
@[simp] theorem State.setWave_revokes (s : State) (w : Wave) : (s.setWave w).revokes = s.revokes := rfl
@[simp] theorem State.setWave_transfers (s : State) (w : Wave) : (s.setWave w).transfers = s.transfers := rfl
@[simp] theorem State.setWave_waitReqs (s : State) (w : Wave) : (s.setWave w).waitReqs = s.waitReqs := rfl
@[simp] theorem State.setWave_reserved (s : State) (w : Wave) : (s.setWave w).reserved = s.reserved := rfl
@[simp] theorem State.setWave_waitContrs (s : State) (w : Wave) : (s.setWave w).waitContrs = s.waitContrs := rfl
@[simp] theorem State.setWave_votes (s : State) (w : Wave) : (s.setWave w).votes = s.votes := rfl
@[simp] theorem State.setWave_results (s : State) (w : Wave) : (s.setWave w).results = s.results := rfl
@[simp] theorem State.setWave_answers (s : State) (w : Wave) : (s.setWave w).answers = s.answers := rfl
@[simp] theorem State.setWave_refresh (s : State) (w : Wave) : (s.setWave w).refresh = s.refresh := rfl
@[simp] theorem State.setWave_hbm (s : State) (w : Wave) : (s.setWave w).hbm = s.hbm := rfl
@[simp] theorem State.setWave_ddr (s : State) (w : Wave) : (s.setWave w).ddr = s.ddr := rfl
@[simp] theorem State.setWave_hostMem (s : State) (w : Wave) : (s.setWave w).hostMem = s.hostMem := rfl
@[simp] theorem State.setWave_hostLive (s : State) (w : Wave) : (s.setWave w).hostLive = s.hostLive := rfl
@[simp] theorem State.setWave_rep (s : State) (w : Wave) : (s.setWave w).rep = s.rep := rfl
@[simp] theorem State.setWave_images (s : State) (w : Wave) : (s.setWave w).images = s.images := rfl
@[simp] theorem State.setWave_boot (s : State) (w : Wave) : (s.setWave w).boot = s.boot := rfl
@[simp] theorem State.setWave_frozen (s : State) (w : Wave) : (s.setWave w).frozen = s.frozen := rfl
@[simp] theorem State.setWave_agenda (s : State) (w : Wave) : (s.setWave w).agenda = s.agenda := rfl
@[simp] theorem State.setWave_admitted (s : State) (w : Wave) : (s.setWave w).admitted = s.admitted := rfl
@[simp] theorem State.setWave_outbox (s : State) (w : Wave) : (s.setWave w).outbox = s.outbox := rfl
@[simp] theorem State.setWave_reads (s : State) (w : Wave) : (s.setWave w).reads = s.reads := rfl

/-! ### State.updWave -/

@[simp] theorem State.updWave_cycle (s : State) (k : Nat) (f : Wave → Wave) : (s.updWave k f).cycle = s.cycle := rfl
@[simp] theorem State.updWave_cur (s : State) (k : Nat) (f : Wave → Wave) : (s.updWave k f).cur = s.cur := rfl
@[simp] theorem State.updWave_acted (s : State) (k : Nat) (f : Wave → Wave) : (s.updWave k f).acted = s.acted := rfl
@[simp] theorem State.updWave_rr (s : State) (k : Nat) (f : Wave → Wave) : (s.updWave k f).rr = s.rr := rfl
@[simp] theorem State.updWave_turn (s : State) (k : Nat) (f : Wave → Wave) : (s.updWave k f).turn = s.turn := rfl
@[simp] theorem State.updWave_fresh (s : State) (k : Nat) (f : Wave → Wave) : (s.updWave k f).fresh = s.fresh := rfl
@[simp] theorem State.updWave_nextLaunch (s : State) (k : Nat) (f : Wave → Wave) : (s.updWave k f).nextLaunch = s.nextLaunch := rfl
@[simp] theorem State.updWave_blocks (s : State) (k : Nat) (f : Wave → Wave) : (s.updWave k f).blocks = s.blocks := rfl
@[simp] theorem State.updWave_launches (s : State) (k : Nat) (f : Wave → Wave) : (s.updWave k f).launches = s.launches := rfl
@[simp] theorem State.updWave_cores (s : State) (k : Nat) (f : Wave → Wave) : (s.updWave k f).cores = s.cores := rfl
@[simp] theorem State.updWave_engines (s : State) (k : Nat) (f : Wave → Wave) : (s.updWave k f).engines = s.engines := rfl
@[simp] theorem State.updWave_ctxs (s : State) (k : Nat) (f : Wave → Wave) : (s.updWave k f).ctxs = s.ctxs := rfl
@[simp] theorem State.updWave_dying (s : State) (k : Nat) (f : Wave → Wave) : (s.updWave k f).dying = s.dying := rfl
@[simp] theorem State.updWave_tags (s : State) (k : Nat) (f : Wave → Wave) : (s.updWave k f).tags = s.tags := rfl
@[simp] theorem State.updWave_tlb (s : State) (k : Nat) (f : Wave → Wave) : (s.updWave k f).tlb = s.tlb := rfl
@[simp] theorem State.updWave_invals (s : State) (k : Nat) (f : Wave → Wave) : (s.updWave k f).invals = s.invals := rfl
@[simp] theorem State.updWave_posts (s : State) (k : Nat) (f : Wave → Wave) : (s.updWave k f).posts = s.posts := rfl
@[simp] theorem State.updWave_tdis (s : State) (k : Nat) (f : Wave → Wave) : (s.updWave k f).tdis = s.tdis := rfl
@[simp] theorem State.updWave_priAlloc (s : State) (k : Nat) (f : Wave → Wave) : (s.updWave k f).priAlloc = s.priAlloc := rfl
@[simp] theorem State.updWave_frb (s : State) (k : Nat) (f : Wave → Wave) : (s.updWave k f).frb = s.frb := rfl
@[simp] theorem State.updWave_shoot (s : State) (k : Nat) (f : Wave → Wave) : (s.updWave k f).shoot = s.shoot := rfl
@[simp] theorem State.updWave_remap (s : State) (k : Nat) (f : Wave → Wave) : (s.updWave k f).remap = s.remap := rfl
@[simp] theorem State.updWave_bquant (s : State) (k : Nat) (f : Wave → Wave) : (s.updWave k f).bquant = s.bquant := rfl
@[simp] theorem State.updWave_flgap (s : State) (k : Nat) (f : Wave → Wave) : (s.updWave k f).flgap = s.flgap := rfl
@[simp] theorem State.updWave_jrnBase (s : State) (k : Nat) (f : Wave → Wave) : (s.updWave k f).jrnBase = s.jrnBase := rfl
@[simp] theorem State.updWave_jrnSize (s : State) (k : Nat) (f : Wave → Wave) : (s.updWave k f).jrnSize = s.jrnSize := rfl
@[simp] theorem State.updWave_jrnSeq (s : State) (k : Nat) (f : Wave → Wave) : (s.updWave k f).jrnSeq = s.jrnSeq := rfl
@[simp] theorem State.updWave_owned (s : State) (k : Nat) (f : Wave → Wave) : (s.updWave k f).owned = s.owned := rfl
@[simp] theorem State.updWave_openWin (s : State) (k : Nat) (f : Wave → Wave) : (s.updWave k f).openWin = s.openWin := rfl
@[simp] theorem State.updWave_giver (s : State) (k : Nat) (f : Wave → Wave) : (s.updWave k f).giver = s.giver := rfl
@[simp] theorem State.updWave_owner (s : State) (k : Nat) (f : Wave → Wave) : (s.updWave k f).owner = s.owner := rfl
@[simp] theorem State.updWave_claims (s : State) (k : Nat) (f : Wave → Wave) : (s.updWave k f).claims = s.claims := rfl
@[simp] theorem State.updWave_winEnd (s : State) (k : Nat) (f : Wave → Wave) : (s.updWave k f).winEnd = s.winEnd := rfl
@[simp] theorem State.updWave_leaseMs (s : State) (k : Nat) (f : Wave → Wave) : (s.updWave k f).leaseMs = s.leaseMs := rfl
@[simp] theorem State.updWave_beat (s : State) (k : Nat) (f : Wave → Wave) : (s.updWave k f).beat = s.beat := rfl
@[simp] theorem State.updWave_target (s : State) (k : Nat) (f : Wave → Wave) : (s.updWave k f).target = s.target := rfl
@[simp] theorem State.updWave_giveEnd (s : State) (k : Nat) (f : Wave → Wave) : (s.updWave k f).giveEnd = s.giveEnd := rfl
@[simp] theorem State.updWave_dropcnt (s : State) (k : Nat) (f : Wave → Wave) : (s.updWave k f).dropcnt = s.dropcnt := rfl
@[simp] theorem State.updWave_admReq (s : State) (k : Nat) (f : Wave → Wave) : (s.updWave k f).admReq = s.admReq := rfl
@[simp] theorem State.updWave_admNow (s : State) (k : Nat) (f : Wave → Wave) : (s.updWave k f).admNow = s.admNow := rfl
@[simp] theorem State.updWave_admBusy (s : State) (k : Nat) (f : Wave → Wave) : (s.updWave k f).admBusy = s.admBusy := rfl
@[simp] theorem State.updWave_admAt (s : State) (k : Nat) (f : Wave → Wave) : (s.updWave k f).admAt = s.admAt := rfl
@[simp] theorem State.updWave_admRes (s : State) (k : Nat) (f : Wave → Wave) : (s.updWave k f).admRes = s.admRes := rfl
@[simp] theorem State.updWave_errBase (s : State) (k : Nat) (f : Wave → Wave) : (s.updWave k f).errBase = s.errBase := rfl
@[simp] theorem State.updWave_errSize (s : State) (k : Nat) (f : Wave → Wave) : (s.updWave k f).errSize = s.errSize := rfl
@[simp] theorem State.updWave_errCnt (s : State) (k : Nat) (f : Wave → Wave) : (s.updWave k f).errCnt = s.errCnt := rfl
@[simp] theorem State.updWave_corrs (s : State) (k : Nat) (f : Wave → Wave) : (s.updWave k f).corrs = s.corrs := rfl
@[simp] theorem State.updWave_hblost (s : State) (k : Nat) (f : Wave → Wave) : (s.updWave k f).hblost = s.hblost := rfl
@[simp] theorem State.updWave_ports (s : State) (k : Nat) (f : Wave → Wave) : (s.updWave k f).ports = s.ports := rfl
@[simp] theorem State.updWave_linksDown (s : State) (k : Nat) (f : Wave → Wave) : (s.updWave k f).linksDown = s.linksDown := rfl
@[simp] theorem State.updWave_resends (s : State) (k : Nat) (f : Wave → Wave) : (s.updWave k f).resends = s.resends := rfl
@[simp] theorem State.updWave_lostRanks (s : State) (k : Nat) (f : Wave → Wave) : (s.updWave k f).lostRanks = s.lostRanks := rfl
@[simp] theorem State.updWave_heard (s : State) (k : Nat) (f : Wave → Wave) : (s.updWave k f).heard = s.heard := rfl
@[simp] theorem State.updWave_thrctl (s : State) (k : Nat) (f : Wave → Wave) : (s.updWave k f).thrctl = s.thrctl := rfl
@[simp] theorem State.updWave_thrLive (s : State) (k : Nat) (f : Wave → Wave) : (s.updWave k f).thrLive = s.thrLive := rfl
@[simp] theorem State.updWave_pwrcap (s : State) (k : Nat) (f : Wave → Wave) : (s.updWave k f).pwrcap = s.pwrcap := rfl
@[simp] theorem State.updWave_arbs (s : State) (k : Nat) (f : Wave → Wave) : (s.updWave k f).arbs = s.arbs := rfl
@[simp] theorem State.updWave_l2reqs (s : State) (k : Nat) (f : Wave → Wave) : (s.updWave k f).l2reqs = s.l2reqs := rfl
@[simp] theorem State.updWave_fills (s : State) (k : Nat) (f : Wave → Wave) : (s.updWave k f).fills = s.fills := rfl
@[simp] theorem State.updWave_sets (s : State) (k : Nat) (f : Wave → Wave) : (s.updWave k f).sets = s.sets := rfl
@[simp] theorem State.updWave_poison (s : State) (k : Nat) (f : Wave → Wave) : (s.updWave k f).poison = s.poison := rfl
@[simp] theorem State.updWave_alignofs (s : State) (k : Nat) (f : Wave → Wave) : (s.updWave k f).alignofs = s.alignofs := rfl
@[simp] theorem State.updWave_alignAt (s : State) (k : Nat) (f : Wave → Wave) : (s.updWave k f).alignAt = s.alignAt := rfl
@[simp] theorem State.updWave_reading (s : State) (k : Nat) (f : Wave → Wave) : (s.updWave k f).reading = s.reading := rfl
@[simp] theorem State.updWave_beatAt (s : State) (k : Nat) (f : Wave → Wave) : (s.updWave k f).beatAt = s.beatAt := rfl
@[simp] theorem State.updWave_storage (s : State) (k : Nat) (f : Wave → Wave) : (s.updWave k f).storage = s.storage := rfl
@[simp] theorem State.updWave_revokes (s : State) (k : Nat) (f : Wave → Wave) : (s.updWave k f).revokes = s.revokes := rfl
@[simp] theorem State.updWave_transfers (s : State) (k : Nat) (f : Wave → Wave) : (s.updWave k f).transfers = s.transfers := rfl
@[simp] theorem State.updWave_waitReqs (s : State) (k : Nat) (f : Wave → Wave) : (s.updWave k f).waitReqs = s.waitReqs := rfl
@[simp] theorem State.updWave_reserved (s : State) (k : Nat) (f : Wave → Wave) : (s.updWave k f).reserved = s.reserved := rfl
@[simp] theorem State.updWave_waitContrs (s : State) (k : Nat) (f : Wave → Wave) : (s.updWave k f).waitContrs = s.waitContrs := rfl
@[simp] theorem State.updWave_votes (s : State) (k : Nat) (f : Wave → Wave) : (s.updWave k f).votes = s.votes := rfl
@[simp] theorem State.updWave_results (s : State) (k : Nat) (f : Wave → Wave) : (s.updWave k f).results = s.results := rfl
@[simp] theorem State.updWave_answers (s : State) (k : Nat) (f : Wave → Wave) : (s.updWave k f).answers = s.answers := rfl
@[simp] theorem State.updWave_refresh (s : State) (k : Nat) (f : Wave → Wave) : (s.updWave k f).refresh = s.refresh := rfl
@[simp] theorem State.updWave_hbm (s : State) (k : Nat) (f : Wave → Wave) : (s.updWave k f).hbm = s.hbm := rfl
@[simp] theorem State.updWave_ddr (s : State) (k : Nat) (f : Wave → Wave) : (s.updWave k f).ddr = s.ddr := rfl
@[simp] theorem State.updWave_hostMem (s : State) (k : Nat) (f : Wave → Wave) : (s.updWave k f).hostMem = s.hostMem := rfl
@[simp] theorem State.updWave_hostLive (s : State) (k : Nat) (f : Wave → Wave) : (s.updWave k f).hostLive = s.hostLive := rfl
@[simp] theorem State.updWave_rep (s : State) (k : Nat) (f : Wave → Wave) : (s.updWave k f).rep = s.rep := rfl
@[simp] theorem State.updWave_images (s : State) (k : Nat) (f : Wave → Wave) : (s.updWave k f).images = s.images := rfl
@[simp] theorem State.updWave_boot (s : State) (k : Nat) (f : Wave → Wave) : (s.updWave k f).boot = s.boot := rfl
@[simp] theorem State.updWave_frozen (s : State) (k : Nat) (f : Wave → Wave) : (s.updWave k f).frozen = s.frozen := rfl
@[simp] theorem State.updWave_agenda (s : State) (k : Nat) (f : Wave → Wave) : (s.updWave k f).agenda = s.agenda := rfl
@[simp] theorem State.updWave_admitted (s : State) (k : Nat) (f : Wave → Wave) : (s.updWave k f).admitted = s.admitted := rfl
@[simp] theorem State.updWave_outbox (s : State) (k : Nat) (f : Wave → Wave) : (s.updWave k f).outbox = s.outbox := rfl
@[simp] theorem State.updWave_reads (s : State) (k : Nat) (f : Wave → Wave) : (s.updWave k f).reads = s.reads := rfl

/-! ### State.updBlock -/

@[simp] theorem State.updBlock_cycle (s : State) (k : Nat) (f : Block → Block) : (s.updBlock k f).cycle = s.cycle := rfl
@[simp] theorem State.updBlock_cur (s : State) (k : Nat) (f : Block → Block) : (s.updBlock k f).cur = s.cur := rfl
@[simp] theorem State.updBlock_acted (s : State) (k : Nat) (f : Block → Block) : (s.updBlock k f).acted = s.acted := rfl
@[simp] theorem State.updBlock_rr (s : State) (k : Nat) (f : Block → Block) : (s.updBlock k f).rr = s.rr := rfl
@[simp] theorem State.updBlock_turn (s : State) (k : Nat) (f : Block → Block) : (s.updBlock k f).turn = s.turn := rfl
@[simp] theorem State.updBlock_fresh (s : State) (k : Nat) (f : Block → Block) : (s.updBlock k f).fresh = s.fresh := rfl
@[simp] theorem State.updBlock_nextLaunch (s : State) (k : Nat) (f : Block → Block) : (s.updBlock k f).nextLaunch = s.nextLaunch := rfl
@[simp] theorem State.updBlock_waves (s : State) (k : Nat) (f : Block → Block) : (s.updBlock k f).waves = s.waves := rfl
@[simp] theorem State.updBlock_launches (s : State) (k : Nat) (f : Block → Block) : (s.updBlock k f).launches = s.launches := rfl
@[simp] theorem State.updBlock_cores (s : State) (k : Nat) (f : Block → Block) : (s.updBlock k f).cores = s.cores := rfl
@[simp] theorem State.updBlock_engines (s : State) (k : Nat) (f : Block → Block) : (s.updBlock k f).engines = s.engines := rfl
@[simp] theorem State.updBlock_ctxs (s : State) (k : Nat) (f : Block → Block) : (s.updBlock k f).ctxs = s.ctxs := rfl
@[simp] theorem State.updBlock_dying (s : State) (k : Nat) (f : Block → Block) : (s.updBlock k f).dying = s.dying := rfl
@[simp] theorem State.updBlock_tags (s : State) (k : Nat) (f : Block → Block) : (s.updBlock k f).tags = s.tags := rfl
@[simp] theorem State.updBlock_tlb (s : State) (k : Nat) (f : Block → Block) : (s.updBlock k f).tlb = s.tlb := rfl
@[simp] theorem State.updBlock_invals (s : State) (k : Nat) (f : Block → Block) : (s.updBlock k f).invals = s.invals := rfl
@[simp] theorem State.updBlock_posts (s : State) (k : Nat) (f : Block → Block) : (s.updBlock k f).posts = s.posts := rfl
@[simp] theorem State.updBlock_tdis (s : State) (k : Nat) (f : Block → Block) : (s.updBlock k f).tdis = s.tdis := rfl
@[simp] theorem State.updBlock_priAlloc (s : State) (k : Nat) (f : Block → Block) : (s.updBlock k f).priAlloc = s.priAlloc := rfl
@[simp] theorem State.updBlock_frb (s : State) (k : Nat) (f : Block → Block) : (s.updBlock k f).frb = s.frb := rfl
@[simp] theorem State.updBlock_shoot (s : State) (k : Nat) (f : Block → Block) : (s.updBlock k f).shoot = s.shoot := rfl
@[simp] theorem State.updBlock_remap (s : State) (k : Nat) (f : Block → Block) : (s.updBlock k f).remap = s.remap := rfl
@[simp] theorem State.updBlock_bquant (s : State) (k : Nat) (f : Block → Block) : (s.updBlock k f).bquant = s.bquant := rfl
@[simp] theorem State.updBlock_flgap (s : State) (k : Nat) (f : Block → Block) : (s.updBlock k f).flgap = s.flgap := rfl
@[simp] theorem State.updBlock_jrnBase (s : State) (k : Nat) (f : Block → Block) : (s.updBlock k f).jrnBase = s.jrnBase := rfl
@[simp] theorem State.updBlock_jrnSize (s : State) (k : Nat) (f : Block → Block) : (s.updBlock k f).jrnSize = s.jrnSize := rfl
@[simp] theorem State.updBlock_jrnSeq (s : State) (k : Nat) (f : Block → Block) : (s.updBlock k f).jrnSeq = s.jrnSeq := rfl
@[simp] theorem State.updBlock_owned (s : State) (k : Nat) (f : Block → Block) : (s.updBlock k f).owned = s.owned := rfl
@[simp] theorem State.updBlock_openWin (s : State) (k : Nat) (f : Block → Block) : (s.updBlock k f).openWin = s.openWin := rfl
@[simp] theorem State.updBlock_giver (s : State) (k : Nat) (f : Block → Block) : (s.updBlock k f).giver = s.giver := rfl
@[simp] theorem State.updBlock_owner (s : State) (k : Nat) (f : Block → Block) : (s.updBlock k f).owner = s.owner := rfl
@[simp] theorem State.updBlock_claims (s : State) (k : Nat) (f : Block → Block) : (s.updBlock k f).claims = s.claims := rfl
@[simp] theorem State.updBlock_winEnd (s : State) (k : Nat) (f : Block → Block) : (s.updBlock k f).winEnd = s.winEnd := rfl
@[simp] theorem State.updBlock_leaseMs (s : State) (k : Nat) (f : Block → Block) : (s.updBlock k f).leaseMs = s.leaseMs := rfl
@[simp] theorem State.updBlock_beat (s : State) (k : Nat) (f : Block → Block) : (s.updBlock k f).beat = s.beat := rfl
@[simp] theorem State.updBlock_target (s : State) (k : Nat) (f : Block → Block) : (s.updBlock k f).target = s.target := rfl
@[simp] theorem State.updBlock_giveEnd (s : State) (k : Nat) (f : Block → Block) : (s.updBlock k f).giveEnd = s.giveEnd := rfl
@[simp] theorem State.updBlock_dropcnt (s : State) (k : Nat) (f : Block → Block) : (s.updBlock k f).dropcnt = s.dropcnt := rfl
@[simp] theorem State.updBlock_admReq (s : State) (k : Nat) (f : Block → Block) : (s.updBlock k f).admReq = s.admReq := rfl
@[simp] theorem State.updBlock_admNow (s : State) (k : Nat) (f : Block → Block) : (s.updBlock k f).admNow = s.admNow := rfl
@[simp] theorem State.updBlock_admBusy (s : State) (k : Nat) (f : Block → Block) : (s.updBlock k f).admBusy = s.admBusy := rfl
@[simp] theorem State.updBlock_admAt (s : State) (k : Nat) (f : Block → Block) : (s.updBlock k f).admAt = s.admAt := rfl
@[simp] theorem State.updBlock_admRes (s : State) (k : Nat) (f : Block → Block) : (s.updBlock k f).admRes = s.admRes := rfl
@[simp] theorem State.updBlock_errBase (s : State) (k : Nat) (f : Block → Block) : (s.updBlock k f).errBase = s.errBase := rfl
@[simp] theorem State.updBlock_errSize (s : State) (k : Nat) (f : Block → Block) : (s.updBlock k f).errSize = s.errSize := rfl
@[simp] theorem State.updBlock_errCnt (s : State) (k : Nat) (f : Block → Block) : (s.updBlock k f).errCnt = s.errCnt := rfl
@[simp] theorem State.updBlock_corrs (s : State) (k : Nat) (f : Block → Block) : (s.updBlock k f).corrs = s.corrs := rfl
@[simp] theorem State.updBlock_hblost (s : State) (k : Nat) (f : Block → Block) : (s.updBlock k f).hblost = s.hblost := rfl
@[simp] theorem State.updBlock_ports (s : State) (k : Nat) (f : Block → Block) : (s.updBlock k f).ports = s.ports := rfl
@[simp] theorem State.updBlock_linksDown (s : State) (k : Nat) (f : Block → Block) : (s.updBlock k f).linksDown = s.linksDown := rfl
@[simp] theorem State.updBlock_resends (s : State) (k : Nat) (f : Block → Block) : (s.updBlock k f).resends = s.resends := rfl
@[simp] theorem State.updBlock_lostRanks (s : State) (k : Nat) (f : Block → Block) : (s.updBlock k f).lostRanks = s.lostRanks := rfl
@[simp] theorem State.updBlock_heard (s : State) (k : Nat) (f : Block → Block) : (s.updBlock k f).heard = s.heard := rfl
@[simp] theorem State.updBlock_thrctl (s : State) (k : Nat) (f : Block → Block) : (s.updBlock k f).thrctl = s.thrctl := rfl
@[simp] theorem State.updBlock_thrLive (s : State) (k : Nat) (f : Block → Block) : (s.updBlock k f).thrLive = s.thrLive := rfl
@[simp] theorem State.updBlock_pwrcap (s : State) (k : Nat) (f : Block → Block) : (s.updBlock k f).pwrcap = s.pwrcap := rfl
@[simp] theorem State.updBlock_arbs (s : State) (k : Nat) (f : Block → Block) : (s.updBlock k f).arbs = s.arbs := rfl
@[simp] theorem State.updBlock_l2reqs (s : State) (k : Nat) (f : Block → Block) : (s.updBlock k f).l2reqs = s.l2reqs := rfl
@[simp] theorem State.updBlock_fills (s : State) (k : Nat) (f : Block → Block) : (s.updBlock k f).fills = s.fills := rfl
@[simp] theorem State.updBlock_sets (s : State) (k : Nat) (f : Block → Block) : (s.updBlock k f).sets = s.sets := rfl
@[simp] theorem State.updBlock_poison (s : State) (k : Nat) (f : Block → Block) : (s.updBlock k f).poison = s.poison := rfl
@[simp] theorem State.updBlock_alignofs (s : State) (k : Nat) (f : Block → Block) : (s.updBlock k f).alignofs = s.alignofs := rfl
@[simp] theorem State.updBlock_alignAt (s : State) (k : Nat) (f : Block → Block) : (s.updBlock k f).alignAt = s.alignAt := rfl
@[simp] theorem State.updBlock_reading (s : State) (k : Nat) (f : Block → Block) : (s.updBlock k f).reading = s.reading := rfl
@[simp] theorem State.updBlock_beatAt (s : State) (k : Nat) (f : Block → Block) : (s.updBlock k f).beatAt = s.beatAt := rfl
@[simp] theorem State.updBlock_storage (s : State) (k : Nat) (f : Block → Block) : (s.updBlock k f).storage = s.storage := rfl
@[simp] theorem State.updBlock_revokes (s : State) (k : Nat) (f : Block → Block) : (s.updBlock k f).revokes = s.revokes := rfl
@[simp] theorem State.updBlock_transfers (s : State) (k : Nat) (f : Block → Block) : (s.updBlock k f).transfers = s.transfers := rfl
@[simp] theorem State.updBlock_waitReqs (s : State) (k : Nat) (f : Block → Block) : (s.updBlock k f).waitReqs = s.waitReqs := rfl
@[simp] theorem State.updBlock_reserved (s : State) (k : Nat) (f : Block → Block) : (s.updBlock k f).reserved = s.reserved := rfl
@[simp] theorem State.updBlock_waitContrs (s : State) (k : Nat) (f : Block → Block) : (s.updBlock k f).waitContrs = s.waitContrs := rfl
@[simp] theorem State.updBlock_votes (s : State) (k : Nat) (f : Block → Block) : (s.updBlock k f).votes = s.votes := rfl
@[simp] theorem State.updBlock_results (s : State) (k : Nat) (f : Block → Block) : (s.updBlock k f).results = s.results := rfl
@[simp] theorem State.updBlock_answers (s : State) (k : Nat) (f : Block → Block) : (s.updBlock k f).answers = s.answers := rfl
@[simp] theorem State.updBlock_refresh (s : State) (k : Nat) (f : Block → Block) : (s.updBlock k f).refresh = s.refresh := rfl
@[simp] theorem State.updBlock_hbm (s : State) (k : Nat) (f : Block → Block) : (s.updBlock k f).hbm = s.hbm := rfl
@[simp] theorem State.updBlock_ddr (s : State) (k : Nat) (f : Block → Block) : (s.updBlock k f).ddr = s.ddr := rfl
@[simp] theorem State.updBlock_hostMem (s : State) (k : Nat) (f : Block → Block) : (s.updBlock k f).hostMem = s.hostMem := rfl
@[simp] theorem State.updBlock_hostLive (s : State) (k : Nat) (f : Block → Block) : (s.updBlock k f).hostLive = s.hostLive := rfl
@[simp] theorem State.updBlock_rep (s : State) (k : Nat) (f : Block → Block) : (s.updBlock k f).rep = s.rep := rfl
@[simp] theorem State.updBlock_images (s : State) (k : Nat) (f : Block → Block) : (s.updBlock k f).images = s.images := rfl
@[simp] theorem State.updBlock_boot (s : State) (k : Nat) (f : Block → Block) : (s.updBlock k f).boot = s.boot := rfl
@[simp] theorem State.updBlock_frozen (s : State) (k : Nat) (f : Block → Block) : (s.updBlock k f).frozen = s.frozen := rfl
@[simp] theorem State.updBlock_agenda (s : State) (k : Nat) (f : Block → Block) : (s.updBlock k f).agenda = s.agenda := rfl
@[simp] theorem State.updBlock_admitted (s : State) (k : Nat) (f : Block → Block) : (s.updBlock k f).admitted = s.admitted := rfl
@[simp] theorem State.updBlock_outbox (s : State) (k : Nat) (f : Block → Block) : (s.updBlock k f).outbox = s.outbox := rfl
@[simp] theorem State.updBlock_reads (s : State) (k : Nat) (f : Block → Block) : (s.updBlock k f).reads = s.reads := rfl

/-! ### State.updLaunch -/

@[simp] theorem State.updLaunch_cycle (s : State) (k : Nat) (f : Launch → Launch) : (s.updLaunch k f).cycle = s.cycle := rfl
@[simp] theorem State.updLaunch_cur (s : State) (k : Nat) (f : Launch → Launch) : (s.updLaunch k f).cur = s.cur := rfl
@[simp] theorem State.updLaunch_acted (s : State) (k : Nat) (f : Launch → Launch) : (s.updLaunch k f).acted = s.acted := rfl
@[simp] theorem State.updLaunch_rr (s : State) (k : Nat) (f : Launch → Launch) : (s.updLaunch k f).rr = s.rr := rfl
@[simp] theorem State.updLaunch_turn (s : State) (k : Nat) (f : Launch → Launch) : (s.updLaunch k f).turn = s.turn := rfl
@[simp] theorem State.updLaunch_fresh (s : State) (k : Nat) (f : Launch → Launch) : (s.updLaunch k f).fresh = s.fresh := rfl
@[simp] theorem State.updLaunch_nextLaunch (s : State) (k : Nat) (f : Launch → Launch) : (s.updLaunch k f).nextLaunch = s.nextLaunch := rfl
@[simp] theorem State.updLaunch_waves (s : State) (k : Nat) (f : Launch → Launch) : (s.updLaunch k f).waves = s.waves := rfl
@[simp] theorem State.updLaunch_blocks (s : State) (k : Nat) (f : Launch → Launch) : (s.updLaunch k f).blocks = s.blocks := rfl
@[simp] theorem State.updLaunch_cores (s : State) (k : Nat) (f : Launch → Launch) : (s.updLaunch k f).cores = s.cores := rfl
@[simp] theorem State.updLaunch_engines (s : State) (k : Nat) (f : Launch → Launch) : (s.updLaunch k f).engines = s.engines := rfl
@[simp] theorem State.updLaunch_ctxs (s : State) (k : Nat) (f : Launch → Launch) : (s.updLaunch k f).ctxs = s.ctxs := rfl
@[simp] theorem State.updLaunch_dying (s : State) (k : Nat) (f : Launch → Launch) : (s.updLaunch k f).dying = s.dying := rfl
@[simp] theorem State.updLaunch_tags (s : State) (k : Nat) (f : Launch → Launch) : (s.updLaunch k f).tags = s.tags := rfl
@[simp] theorem State.updLaunch_tlb (s : State) (k : Nat) (f : Launch → Launch) : (s.updLaunch k f).tlb = s.tlb := rfl
@[simp] theorem State.updLaunch_invals (s : State) (k : Nat) (f : Launch → Launch) : (s.updLaunch k f).invals = s.invals := rfl
@[simp] theorem State.updLaunch_posts (s : State) (k : Nat) (f : Launch → Launch) : (s.updLaunch k f).posts = s.posts := rfl
@[simp] theorem State.updLaunch_tdis (s : State) (k : Nat) (f : Launch → Launch) : (s.updLaunch k f).tdis = s.tdis := rfl
@[simp] theorem State.updLaunch_priAlloc (s : State) (k : Nat) (f : Launch → Launch) : (s.updLaunch k f).priAlloc = s.priAlloc := rfl
@[simp] theorem State.updLaunch_frb (s : State) (k : Nat) (f : Launch → Launch) : (s.updLaunch k f).frb = s.frb := rfl
@[simp] theorem State.updLaunch_shoot (s : State) (k : Nat) (f : Launch → Launch) : (s.updLaunch k f).shoot = s.shoot := rfl
@[simp] theorem State.updLaunch_remap (s : State) (k : Nat) (f : Launch → Launch) : (s.updLaunch k f).remap = s.remap := rfl
@[simp] theorem State.updLaunch_bquant (s : State) (k : Nat) (f : Launch → Launch) : (s.updLaunch k f).bquant = s.bquant := rfl
@[simp] theorem State.updLaunch_flgap (s : State) (k : Nat) (f : Launch → Launch) : (s.updLaunch k f).flgap = s.flgap := rfl
@[simp] theorem State.updLaunch_jrnBase (s : State) (k : Nat) (f : Launch → Launch) : (s.updLaunch k f).jrnBase = s.jrnBase := rfl
@[simp] theorem State.updLaunch_jrnSize (s : State) (k : Nat) (f : Launch → Launch) : (s.updLaunch k f).jrnSize = s.jrnSize := rfl
@[simp] theorem State.updLaunch_jrnSeq (s : State) (k : Nat) (f : Launch → Launch) : (s.updLaunch k f).jrnSeq = s.jrnSeq := rfl
@[simp] theorem State.updLaunch_owned (s : State) (k : Nat) (f : Launch → Launch) : (s.updLaunch k f).owned = s.owned := rfl
@[simp] theorem State.updLaunch_openWin (s : State) (k : Nat) (f : Launch → Launch) : (s.updLaunch k f).openWin = s.openWin := rfl
@[simp] theorem State.updLaunch_giver (s : State) (k : Nat) (f : Launch → Launch) : (s.updLaunch k f).giver = s.giver := rfl
@[simp] theorem State.updLaunch_owner (s : State) (k : Nat) (f : Launch → Launch) : (s.updLaunch k f).owner = s.owner := rfl
@[simp] theorem State.updLaunch_claims (s : State) (k : Nat) (f : Launch → Launch) : (s.updLaunch k f).claims = s.claims := rfl
@[simp] theorem State.updLaunch_winEnd (s : State) (k : Nat) (f : Launch → Launch) : (s.updLaunch k f).winEnd = s.winEnd := rfl
@[simp] theorem State.updLaunch_leaseMs (s : State) (k : Nat) (f : Launch → Launch) : (s.updLaunch k f).leaseMs = s.leaseMs := rfl
@[simp] theorem State.updLaunch_beat (s : State) (k : Nat) (f : Launch → Launch) : (s.updLaunch k f).beat = s.beat := rfl
@[simp] theorem State.updLaunch_target (s : State) (k : Nat) (f : Launch → Launch) : (s.updLaunch k f).target = s.target := rfl
@[simp] theorem State.updLaunch_giveEnd (s : State) (k : Nat) (f : Launch → Launch) : (s.updLaunch k f).giveEnd = s.giveEnd := rfl
@[simp] theorem State.updLaunch_dropcnt (s : State) (k : Nat) (f : Launch → Launch) : (s.updLaunch k f).dropcnt = s.dropcnt := rfl
@[simp] theorem State.updLaunch_admReq (s : State) (k : Nat) (f : Launch → Launch) : (s.updLaunch k f).admReq = s.admReq := rfl
@[simp] theorem State.updLaunch_admNow (s : State) (k : Nat) (f : Launch → Launch) : (s.updLaunch k f).admNow = s.admNow := rfl
@[simp] theorem State.updLaunch_admBusy (s : State) (k : Nat) (f : Launch → Launch) : (s.updLaunch k f).admBusy = s.admBusy := rfl
@[simp] theorem State.updLaunch_admAt (s : State) (k : Nat) (f : Launch → Launch) : (s.updLaunch k f).admAt = s.admAt := rfl
@[simp] theorem State.updLaunch_admRes (s : State) (k : Nat) (f : Launch → Launch) : (s.updLaunch k f).admRes = s.admRes := rfl
@[simp] theorem State.updLaunch_errBase (s : State) (k : Nat) (f : Launch → Launch) : (s.updLaunch k f).errBase = s.errBase := rfl
@[simp] theorem State.updLaunch_errSize (s : State) (k : Nat) (f : Launch → Launch) : (s.updLaunch k f).errSize = s.errSize := rfl
@[simp] theorem State.updLaunch_errCnt (s : State) (k : Nat) (f : Launch → Launch) : (s.updLaunch k f).errCnt = s.errCnt := rfl
@[simp] theorem State.updLaunch_corrs (s : State) (k : Nat) (f : Launch → Launch) : (s.updLaunch k f).corrs = s.corrs := rfl
@[simp] theorem State.updLaunch_hblost (s : State) (k : Nat) (f : Launch → Launch) : (s.updLaunch k f).hblost = s.hblost := rfl
@[simp] theorem State.updLaunch_ports (s : State) (k : Nat) (f : Launch → Launch) : (s.updLaunch k f).ports = s.ports := rfl
@[simp] theorem State.updLaunch_linksDown (s : State) (k : Nat) (f : Launch → Launch) : (s.updLaunch k f).linksDown = s.linksDown := rfl
@[simp] theorem State.updLaunch_resends (s : State) (k : Nat) (f : Launch → Launch) : (s.updLaunch k f).resends = s.resends := rfl
@[simp] theorem State.updLaunch_lostRanks (s : State) (k : Nat) (f : Launch → Launch) : (s.updLaunch k f).lostRanks = s.lostRanks := rfl
@[simp] theorem State.updLaunch_heard (s : State) (k : Nat) (f : Launch → Launch) : (s.updLaunch k f).heard = s.heard := rfl
@[simp] theorem State.updLaunch_thrctl (s : State) (k : Nat) (f : Launch → Launch) : (s.updLaunch k f).thrctl = s.thrctl := rfl
@[simp] theorem State.updLaunch_thrLive (s : State) (k : Nat) (f : Launch → Launch) : (s.updLaunch k f).thrLive = s.thrLive := rfl
@[simp] theorem State.updLaunch_pwrcap (s : State) (k : Nat) (f : Launch → Launch) : (s.updLaunch k f).pwrcap = s.pwrcap := rfl
@[simp] theorem State.updLaunch_arbs (s : State) (k : Nat) (f : Launch → Launch) : (s.updLaunch k f).arbs = s.arbs := rfl
@[simp] theorem State.updLaunch_l2reqs (s : State) (k : Nat) (f : Launch → Launch) : (s.updLaunch k f).l2reqs = s.l2reqs := rfl
@[simp] theorem State.updLaunch_fills (s : State) (k : Nat) (f : Launch → Launch) : (s.updLaunch k f).fills = s.fills := rfl
@[simp] theorem State.updLaunch_sets (s : State) (k : Nat) (f : Launch → Launch) : (s.updLaunch k f).sets = s.sets := rfl
@[simp] theorem State.updLaunch_poison (s : State) (k : Nat) (f : Launch → Launch) : (s.updLaunch k f).poison = s.poison := rfl
@[simp] theorem State.updLaunch_alignofs (s : State) (k : Nat) (f : Launch → Launch) : (s.updLaunch k f).alignofs = s.alignofs := rfl
@[simp] theorem State.updLaunch_alignAt (s : State) (k : Nat) (f : Launch → Launch) : (s.updLaunch k f).alignAt = s.alignAt := rfl
@[simp] theorem State.updLaunch_reading (s : State) (k : Nat) (f : Launch → Launch) : (s.updLaunch k f).reading = s.reading := rfl
@[simp] theorem State.updLaunch_beatAt (s : State) (k : Nat) (f : Launch → Launch) : (s.updLaunch k f).beatAt = s.beatAt := rfl
@[simp] theorem State.updLaunch_storage (s : State) (k : Nat) (f : Launch → Launch) : (s.updLaunch k f).storage = s.storage := rfl
@[simp] theorem State.updLaunch_revokes (s : State) (k : Nat) (f : Launch → Launch) : (s.updLaunch k f).revokes = s.revokes := rfl
@[simp] theorem State.updLaunch_transfers (s : State) (k : Nat) (f : Launch → Launch) : (s.updLaunch k f).transfers = s.transfers := rfl
@[simp] theorem State.updLaunch_waitReqs (s : State) (k : Nat) (f : Launch → Launch) : (s.updLaunch k f).waitReqs = s.waitReqs := rfl
@[simp] theorem State.updLaunch_reserved (s : State) (k : Nat) (f : Launch → Launch) : (s.updLaunch k f).reserved = s.reserved := rfl
@[simp] theorem State.updLaunch_waitContrs (s : State) (k : Nat) (f : Launch → Launch) : (s.updLaunch k f).waitContrs = s.waitContrs := rfl
@[simp] theorem State.updLaunch_votes (s : State) (k : Nat) (f : Launch → Launch) : (s.updLaunch k f).votes = s.votes := rfl
@[simp] theorem State.updLaunch_results (s : State) (k : Nat) (f : Launch → Launch) : (s.updLaunch k f).results = s.results := rfl
@[simp] theorem State.updLaunch_answers (s : State) (k : Nat) (f : Launch → Launch) : (s.updLaunch k f).answers = s.answers := rfl
@[simp] theorem State.updLaunch_refresh (s : State) (k : Nat) (f : Launch → Launch) : (s.updLaunch k f).refresh = s.refresh := rfl
@[simp] theorem State.updLaunch_hbm (s : State) (k : Nat) (f : Launch → Launch) : (s.updLaunch k f).hbm = s.hbm := rfl
@[simp] theorem State.updLaunch_ddr (s : State) (k : Nat) (f : Launch → Launch) : (s.updLaunch k f).ddr = s.ddr := rfl
@[simp] theorem State.updLaunch_hostMem (s : State) (k : Nat) (f : Launch → Launch) : (s.updLaunch k f).hostMem = s.hostMem := rfl
@[simp] theorem State.updLaunch_hostLive (s : State) (k : Nat) (f : Launch → Launch) : (s.updLaunch k f).hostLive = s.hostLive := rfl
@[simp] theorem State.updLaunch_rep (s : State) (k : Nat) (f : Launch → Launch) : (s.updLaunch k f).rep = s.rep := rfl
@[simp] theorem State.updLaunch_images (s : State) (k : Nat) (f : Launch → Launch) : (s.updLaunch k f).images = s.images := rfl
@[simp] theorem State.updLaunch_boot (s : State) (k : Nat) (f : Launch → Launch) : (s.updLaunch k f).boot = s.boot := rfl
@[simp] theorem State.updLaunch_frozen (s : State) (k : Nat) (f : Launch → Launch) : (s.updLaunch k f).frozen = s.frozen := rfl
@[simp] theorem State.updLaunch_agenda (s : State) (k : Nat) (f : Launch → Launch) : (s.updLaunch k f).agenda = s.agenda := rfl
@[simp] theorem State.updLaunch_admitted (s : State) (k : Nat) (f : Launch → Launch) : (s.updLaunch k f).admitted = s.admitted := rfl
@[simp] theorem State.updLaunch_outbox (s : State) (k : Nat) (f : Launch → Launch) : (s.updLaunch k f).outbox = s.outbox := rfl
@[simp] theorem State.updLaunch_reads (s : State) (k : Nat) (f : Launch → Launch) : (s.updLaunch k f).reads = s.reads := rfl

/-! ### State.updCore -/

@[simp] theorem State.updCore_cycle (s : State) (k : Nat) (f : Core → Core) : (s.updCore k f).cycle = s.cycle := rfl
@[simp] theorem State.updCore_cur (s : State) (k : Nat) (f : Core → Core) : (s.updCore k f).cur = s.cur := rfl
@[simp] theorem State.updCore_acted (s : State) (k : Nat) (f : Core → Core) : (s.updCore k f).acted = s.acted := rfl
@[simp] theorem State.updCore_rr (s : State) (k : Nat) (f : Core → Core) : (s.updCore k f).rr = s.rr := rfl
@[simp] theorem State.updCore_turn (s : State) (k : Nat) (f : Core → Core) : (s.updCore k f).turn = s.turn := rfl
@[simp] theorem State.updCore_fresh (s : State) (k : Nat) (f : Core → Core) : (s.updCore k f).fresh = s.fresh := rfl
@[simp] theorem State.updCore_nextLaunch (s : State) (k : Nat) (f : Core → Core) : (s.updCore k f).nextLaunch = s.nextLaunch := rfl
@[simp] theorem State.updCore_waves (s : State) (k : Nat) (f : Core → Core) : (s.updCore k f).waves = s.waves := rfl
@[simp] theorem State.updCore_blocks (s : State) (k : Nat) (f : Core → Core) : (s.updCore k f).blocks = s.blocks := rfl
@[simp] theorem State.updCore_launches (s : State) (k : Nat) (f : Core → Core) : (s.updCore k f).launches = s.launches := rfl
@[simp] theorem State.updCore_engines (s : State) (k : Nat) (f : Core → Core) : (s.updCore k f).engines = s.engines := rfl
@[simp] theorem State.updCore_ctxs (s : State) (k : Nat) (f : Core → Core) : (s.updCore k f).ctxs = s.ctxs := rfl
@[simp] theorem State.updCore_dying (s : State) (k : Nat) (f : Core → Core) : (s.updCore k f).dying = s.dying := rfl
@[simp] theorem State.updCore_tags (s : State) (k : Nat) (f : Core → Core) : (s.updCore k f).tags = s.tags := rfl
@[simp] theorem State.updCore_tlb (s : State) (k : Nat) (f : Core → Core) : (s.updCore k f).tlb = s.tlb := rfl
@[simp] theorem State.updCore_invals (s : State) (k : Nat) (f : Core → Core) : (s.updCore k f).invals = s.invals := rfl
@[simp] theorem State.updCore_posts (s : State) (k : Nat) (f : Core → Core) : (s.updCore k f).posts = s.posts := rfl
@[simp] theorem State.updCore_tdis (s : State) (k : Nat) (f : Core → Core) : (s.updCore k f).tdis = s.tdis := rfl
@[simp] theorem State.updCore_priAlloc (s : State) (k : Nat) (f : Core → Core) : (s.updCore k f).priAlloc = s.priAlloc := rfl
@[simp] theorem State.updCore_frb (s : State) (k : Nat) (f : Core → Core) : (s.updCore k f).frb = s.frb := rfl
@[simp] theorem State.updCore_shoot (s : State) (k : Nat) (f : Core → Core) : (s.updCore k f).shoot = s.shoot := rfl
@[simp] theorem State.updCore_remap (s : State) (k : Nat) (f : Core → Core) : (s.updCore k f).remap = s.remap := rfl
@[simp] theorem State.updCore_bquant (s : State) (k : Nat) (f : Core → Core) : (s.updCore k f).bquant = s.bquant := rfl
@[simp] theorem State.updCore_flgap (s : State) (k : Nat) (f : Core → Core) : (s.updCore k f).flgap = s.flgap := rfl
@[simp] theorem State.updCore_jrnBase (s : State) (k : Nat) (f : Core → Core) : (s.updCore k f).jrnBase = s.jrnBase := rfl
@[simp] theorem State.updCore_jrnSize (s : State) (k : Nat) (f : Core → Core) : (s.updCore k f).jrnSize = s.jrnSize := rfl
@[simp] theorem State.updCore_jrnSeq (s : State) (k : Nat) (f : Core → Core) : (s.updCore k f).jrnSeq = s.jrnSeq := rfl
@[simp] theorem State.updCore_owned (s : State) (k : Nat) (f : Core → Core) : (s.updCore k f).owned = s.owned := rfl
@[simp] theorem State.updCore_openWin (s : State) (k : Nat) (f : Core → Core) : (s.updCore k f).openWin = s.openWin := rfl
@[simp] theorem State.updCore_giver (s : State) (k : Nat) (f : Core → Core) : (s.updCore k f).giver = s.giver := rfl
@[simp] theorem State.updCore_owner (s : State) (k : Nat) (f : Core → Core) : (s.updCore k f).owner = s.owner := rfl
@[simp] theorem State.updCore_claims (s : State) (k : Nat) (f : Core → Core) : (s.updCore k f).claims = s.claims := rfl
@[simp] theorem State.updCore_winEnd (s : State) (k : Nat) (f : Core → Core) : (s.updCore k f).winEnd = s.winEnd := rfl
@[simp] theorem State.updCore_leaseMs (s : State) (k : Nat) (f : Core → Core) : (s.updCore k f).leaseMs = s.leaseMs := rfl
@[simp] theorem State.updCore_beat (s : State) (k : Nat) (f : Core → Core) : (s.updCore k f).beat = s.beat := rfl
@[simp] theorem State.updCore_target (s : State) (k : Nat) (f : Core → Core) : (s.updCore k f).target = s.target := rfl
@[simp] theorem State.updCore_giveEnd (s : State) (k : Nat) (f : Core → Core) : (s.updCore k f).giveEnd = s.giveEnd := rfl
@[simp] theorem State.updCore_dropcnt (s : State) (k : Nat) (f : Core → Core) : (s.updCore k f).dropcnt = s.dropcnt := rfl
@[simp] theorem State.updCore_admReq (s : State) (k : Nat) (f : Core → Core) : (s.updCore k f).admReq = s.admReq := rfl
@[simp] theorem State.updCore_admNow (s : State) (k : Nat) (f : Core → Core) : (s.updCore k f).admNow = s.admNow := rfl
@[simp] theorem State.updCore_admBusy (s : State) (k : Nat) (f : Core → Core) : (s.updCore k f).admBusy = s.admBusy := rfl
@[simp] theorem State.updCore_admAt (s : State) (k : Nat) (f : Core → Core) : (s.updCore k f).admAt = s.admAt := rfl
@[simp] theorem State.updCore_admRes (s : State) (k : Nat) (f : Core → Core) : (s.updCore k f).admRes = s.admRes := rfl
@[simp] theorem State.updCore_errBase (s : State) (k : Nat) (f : Core → Core) : (s.updCore k f).errBase = s.errBase := rfl
@[simp] theorem State.updCore_errSize (s : State) (k : Nat) (f : Core → Core) : (s.updCore k f).errSize = s.errSize := rfl
@[simp] theorem State.updCore_errCnt (s : State) (k : Nat) (f : Core → Core) : (s.updCore k f).errCnt = s.errCnt := rfl
@[simp] theorem State.updCore_corrs (s : State) (k : Nat) (f : Core → Core) : (s.updCore k f).corrs = s.corrs := rfl
@[simp] theorem State.updCore_hblost (s : State) (k : Nat) (f : Core → Core) : (s.updCore k f).hblost = s.hblost := rfl
@[simp] theorem State.updCore_ports (s : State) (k : Nat) (f : Core → Core) : (s.updCore k f).ports = s.ports := rfl
@[simp] theorem State.updCore_linksDown (s : State) (k : Nat) (f : Core → Core) : (s.updCore k f).linksDown = s.linksDown := rfl
@[simp] theorem State.updCore_resends (s : State) (k : Nat) (f : Core → Core) : (s.updCore k f).resends = s.resends := rfl
@[simp] theorem State.updCore_lostRanks (s : State) (k : Nat) (f : Core → Core) : (s.updCore k f).lostRanks = s.lostRanks := rfl
@[simp] theorem State.updCore_heard (s : State) (k : Nat) (f : Core → Core) : (s.updCore k f).heard = s.heard := rfl
@[simp] theorem State.updCore_thrctl (s : State) (k : Nat) (f : Core → Core) : (s.updCore k f).thrctl = s.thrctl := rfl
@[simp] theorem State.updCore_thrLive (s : State) (k : Nat) (f : Core → Core) : (s.updCore k f).thrLive = s.thrLive := rfl
@[simp] theorem State.updCore_pwrcap (s : State) (k : Nat) (f : Core → Core) : (s.updCore k f).pwrcap = s.pwrcap := rfl
@[simp] theorem State.updCore_arbs (s : State) (k : Nat) (f : Core → Core) : (s.updCore k f).arbs = s.arbs := rfl
@[simp] theorem State.updCore_l2reqs (s : State) (k : Nat) (f : Core → Core) : (s.updCore k f).l2reqs = s.l2reqs := rfl
@[simp] theorem State.updCore_fills (s : State) (k : Nat) (f : Core → Core) : (s.updCore k f).fills = s.fills := rfl
@[simp] theorem State.updCore_sets (s : State) (k : Nat) (f : Core → Core) : (s.updCore k f).sets = s.sets := rfl
@[simp] theorem State.updCore_poison (s : State) (k : Nat) (f : Core → Core) : (s.updCore k f).poison = s.poison := rfl
@[simp] theorem State.updCore_alignofs (s : State) (k : Nat) (f : Core → Core) : (s.updCore k f).alignofs = s.alignofs := rfl
@[simp] theorem State.updCore_alignAt (s : State) (k : Nat) (f : Core → Core) : (s.updCore k f).alignAt = s.alignAt := rfl
@[simp] theorem State.updCore_reading (s : State) (k : Nat) (f : Core → Core) : (s.updCore k f).reading = s.reading := rfl
@[simp] theorem State.updCore_beatAt (s : State) (k : Nat) (f : Core → Core) : (s.updCore k f).beatAt = s.beatAt := rfl
@[simp] theorem State.updCore_storage (s : State) (k : Nat) (f : Core → Core) : (s.updCore k f).storage = s.storage := rfl
@[simp] theorem State.updCore_revokes (s : State) (k : Nat) (f : Core → Core) : (s.updCore k f).revokes = s.revokes := rfl
@[simp] theorem State.updCore_transfers (s : State) (k : Nat) (f : Core → Core) : (s.updCore k f).transfers = s.transfers := rfl
@[simp] theorem State.updCore_waitReqs (s : State) (k : Nat) (f : Core → Core) : (s.updCore k f).waitReqs = s.waitReqs := rfl
@[simp] theorem State.updCore_reserved (s : State) (k : Nat) (f : Core → Core) : (s.updCore k f).reserved = s.reserved := rfl
@[simp] theorem State.updCore_waitContrs (s : State) (k : Nat) (f : Core → Core) : (s.updCore k f).waitContrs = s.waitContrs := rfl
@[simp] theorem State.updCore_votes (s : State) (k : Nat) (f : Core → Core) : (s.updCore k f).votes = s.votes := rfl
@[simp] theorem State.updCore_results (s : State) (k : Nat) (f : Core → Core) : (s.updCore k f).results = s.results := rfl
@[simp] theorem State.updCore_answers (s : State) (k : Nat) (f : Core → Core) : (s.updCore k f).answers = s.answers := rfl
@[simp] theorem State.updCore_refresh (s : State) (k : Nat) (f : Core → Core) : (s.updCore k f).refresh = s.refresh := rfl
@[simp] theorem State.updCore_hbm (s : State) (k : Nat) (f : Core → Core) : (s.updCore k f).hbm = s.hbm := rfl
@[simp] theorem State.updCore_ddr (s : State) (k : Nat) (f : Core → Core) : (s.updCore k f).ddr = s.ddr := rfl
@[simp] theorem State.updCore_hostMem (s : State) (k : Nat) (f : Core → Core) : (s.updCore k f).hostMem = s.hostMem := rfl
@[simp] theorem State.updCore_hostLive (s : State) (k : Nat) (f : Core → Core) : (s.updCore k f).hostLive = s.hostLive := rfl
@[simp] theorem State.updCore_rep (s : State) (k : Nat) (f : Core → Core) : (s.updCore k f).rep = s.rep := rfl
@[simp] theorem State.updCore_images (s : State) (k : Nat) (f : Core → Core) : (s.updCore k f).images = s.images := rfl
@[simp] theorem State.updCore_boot (s : State) (k : Nat) (f : Core → Core) : (s.updCore k f).boot = s.boot := rfl
@[simp] theorem State.updCore_frozen (s : State) (k : Nat) (f : Core → Core) : (s.updCore k f).frozen = s.frozen := rfl
@[simp] theorem State.updCore_agenda (s : State) (k : Nat) (f : Core → Core) : (s.updCore k f).agenda = s.agenda := rfl
@[simp] theorem State.updCore_admitted (s : State) (k : Nat) (f : Core → Core) : (s.updCore k f).admitted = s.admitted := rfl
@[simp] theorem State.updCore_outbox (s : State) (k : Nat) (f : Core → Core) : (s.updCore k f).outbox = s.outbox := rfl
@[simp] theorem State.updCore_reads (s : State) (k : Nat) (f : Core → Core) : (s.updCore k f).reads = s.reads := rfl

/-! ### State.updCtx -/

@[simp] theorem State.updCtx_cycle (s : State) (k : Nat) (f : Ctx → Ctx) : (s.updCtx k f).cycle = s.cycle := rfl
@[simp] theorem State.updCtx_cur (s : State) (k : Nat) (f : Ctx → Ctx) : (s.updCtx k f).cur = s.cur := rfl
@[simp] theorem State.updCtx_acted (s : State) (k : Nat) (f : Ctx → Ctx) : (s.updCtx k f).acted = s.acted := rfl
@[simp] theorem State.updCtx_rr (s : State) (k : Nat) (f : Ctx → Ctx) : (s.updCtx k f).rr = s.rr := rfl
@[simp] theorem State.updCtx_turn (s : State) (k : Nat) (f : Ctx → Ctx) : (s.updCtx k f).turn = s.turn := rfl
@[simp] theorem State.updCtx_fresh (s : State) (k : Nat) (f : Ctx → Ctx) : (s.updCtx k f).fresh = s.fresh := rfl
@[simp] theorem State.updCtx_nextLaunch (s : State) (k : Nat) (f : Ctx → Ctx) : (s.updCtx k f).nextLaunch = s.nextLaunch := rfl
@[simp] theorem State.updCtx_waves (s : State) (k : Nat) (f : Ctx → Ctx) : (s.updCtx k f).waves = s.waves := rfl
@[simp] theorem State.updCtx_blocks (s : State) (k : Nat) (f : Ctx → Ctx) : (s.updCtx k f).blocks = s.blocks := rfl
@[simp] theorem State.updCtx_launches (s : State) (k : Nat) (f : Ctx → Ctx) : (s.updCtx k f).launches = s.launches := rfl
@[simp] theorem State.updCtx_cores (s : State) (k : Nat) (f : Ctx → Ctx) : (s.updCtx k f).cores = s.cores := rfl
@[simp] theorem State.updCtx_engines (s : State) (k : Nat) (f : Ctx → Ctx) : (s.updCtx k f).engines = s.engines := rfl
@[simp] theorem State.updCtx_dying (s : State) (k : Nat) (f : Ctx → Ctx) : (s.updCtx k f).dying = s.dying := rfl
@[simp] theorem State.updCtx_tags (s : State) (k : Nat) (f : Ctx → Ctx) : (s.updCtx k f).tags = s.tags := rfl
@[simp] theorem State.updCtx_tlb (s : State) (k : Nat) (f : Ctx → Ctx) : (s.updCtx k f).tlb = s.tlb := rfl
@[simp] theorem State.updCtx_invals (s : State) (k : Nat) (f : Ctx → Ctx) : (s.updCtx k f).invals = s.invals := rfl
@[simp] theorem State.updCtx_posts (s : State) (k : Nat) (f : Ctx → Ctx) : (s.updCtx k f).posts = s.posts := rfl
@[simp] theorem State.updCtx_tdis (s : State) (k : Nat) (f : Ctx → Ctx) : (s.updCtx k f).tdis = s.tdis := rfl
@[simp] theorem State.updCtx_priAlloc (s : State) (k : Nat) (f : Ctx → Ctx) : (s.updCtx k f).priAlloc = s.priAlloc := rfl
@[simp] theorem State.updCtx_frb (s : State) (k : Nat) (f : Ctx → Ctx) : (s.updCtx k f).frb = s.frb := rfl
@[simp] theorem State.updCtx_shoot (s : State) (k : Nat) (f : Ctx → Ctx) : (s.updCtx k f).shoot = s.shoot := rfl
@[simp] theorem State.updCtx_remap (s : State) (k : Nat) (f : Ctx → Ctx) : (s.updCtx k f).remap = s.remap := rfl
@[simp] theorem State.updCtx_bquant (s : State) (k : Nat) (f : Ctx → Ctx) : (s.updCtx k f).bquant = s.bquant := rfl
@[simp] theorem State.updCtx_flgap (s : State) (k : Nat) (f : Ctx → Ctx) : (s.updCtx k f).flgap = s.flgap := rfl
@[simp] theorem State.updCtx_jrnBase (s : State) (k : Nat) (f : Ctx → Ctx) : (s.updCtx k f).jrnBase = s.jrnBase := rfl
@[simp] theorem State.updCtx_jrnSize (s : State) (k : Nat) (f : Ctx → Ctx) : (s.updCtx k f).jrnSize = s.jrnSize := rfl
@[simp] theorem State.updCtx_jrnSeq (s : State) (k : Nat) (f : Ctx → Ctx) : (s.updCtx k f).jrnSeq = s.jrnSeq := rfl
@[simp] theorem State.updCtx_owned (s : State) (k : Nat) (f : Ctx → Ctx) : (s.updCtx k f).owned = s.owned := rfl
@[simp] theorem State.updCtx_openWin (s : State) (k : Nat) (f : Ctx → Ctx) : (s.updCtx k f).openWin = s.openWin := rfl
@[simp] theorem State.updCtx_giver (s : State) (k : Nat) (f : Ctx → Ctx) : (s.updCtx k f).giver = s.giver := rfl
@[simp] theorem State.updCtx_owner (s : State) (k : Nat) (f : Ctx → Ctx) : (s.updCtx k f).owner = s.owner := rfl
@[simp] theorem State.updCtx_claims (s : State) (k : Nat) (f : Ctx → Ctx) : (s.updCtx k f).claims = s.claims := rfl
@[simp] theorem State.updCtx_winEnd (s : State) (k : Nat) (f : Ctx → Ctx) : (s.updCtx k f).winEnd = s.winEnd := rfl
@[simp] theorem State.updCtx_leaseMs (s : State) (k : Nat) (f : Ctx → Ctx) : (s.updCtx k f).leaseMs = s.leaseMs := rfl
@[simp] theorem State.updCtx_beat (s : State) (k : Nat) (f : Ctx → Ctx) : (s.updCtx k f).beat = s.beat := rfl
@[simp] theorem State.updCtx_target (s : State) (k : Nat) (f : Ctx → Ctx) : (s.updCtx k f).target = s.target := rfl
@[simp] theorem State.updCtx_giveEnd (s : State) (k : Nat) (f : Ctx → Ctx) : (s.updCtx k f).giveEnd = s.giveEnd := rfl
@[simp] theorem State.updCtx_dropcnt (s : State) (k : Nat) (f : Ctx → Ctx) : (s.updCtx k f).dropcnt = s.dropcnt := rfl
@[simp] theorem State.updCtx_admReq (s : State) (k : Nat) (f : Ctx → Ctx) : (s.updCtx k f).admReq = s.admReq := rfl
@[simp] theorem State.updCtx_admNow (s : State) (k : Nat) (f : Ctx → Ctx) : (s.updCtx k f).admNow = s.admNow := rfl
@[simp] theorem State.updCtx_admBusy (s : State) (k : Nat) (f : Ctx → Ctx) : (s.updCtx k f).admBusy = s.admBusy := rfl
@[simp] theorem State.updCtx_admAt (s : State) (k : Nat) (f : Ctx → Ctx) : (s.updCtx k f).admAt = s.admAt := rfl
@[simp] theorem State.updCtx_admRes (s : State) (k : Nat) (f : Ctx → Ctx) : (s.updCtx k f).admRes = s.admRes := rfl
@[simp] theorem State.updCtx_errBase (s : State) (k : Nat) (f : Ctx → Ctx) : (s.updCtx k f).errBase = s.errBase := rfl
@[simp] theorem State.updCtx_errSize (s : State) (k : Nat) (f : Ctx → Ctx) : (s.updCtx k f).errSize = s.errSize := rfl
@[simp] theorem State.updCtx_errCnt (s : State) (k : Nat) (f : Ctx → Ctx) : (s.updCtx k f).errCnt = s.errCnt := rfl
@[simp] theorem State.updCtx_corrs (s : State) (k : Nat) (f : Ctx → Ctx) : (s.updCtx k f).corrs = s.corrs := rfl
@[simp] theorem State.updCtx_hblost (s : State) (k : Nat) (f : Ctx → Ctx) : (s.updCtx k f).hblost = s.hblost := rfl
@[simp] theorem State.updCtx_ports (s : State) (k : Nat) (f : Ctx → Ctx) : (s.updCtx k f).ports = s.ports := rfl
@[simp] theorem State.updCtx_linksDown (s : State) (k : Nat) (f : Ctx → Ctx) : (s.updCtx k f).linksDown = s.linksDown := rfl
@[simp] theorem State.updCtx_resends (s : State) (k : Nat) (f : Ctx → Ctx) : (s.updCtx k f).resends = s.resends := rfl
@[simp] theorem State.updCtx_lostRanks (s : State) (k : Nat) (f : Ctx → Ctx) : (s.updCtx k f).lostRanks = s.lostRanks := rfl
@[simp] theorem State.updCtx_heard (s : State) (k : Nat) (f : Ctx → Ctx) : (s.updCtx k f).heard = s.heard := rfl
@[simp] theorem State.updCtx_thrctl (s : State) (k : Nat) (f : Ctx → Ctx) : (s.updCtx k f).thrctl = s.thrctl := rfl
@[simp] theorem State.updCtx_thrLive (s : State) (k : Nat) (f : Ctx → Ctx) : (s.updCtx k f).thrLive = s.thrLive := rfl
@[simp] theorem State.updCtx_pwrcap (s : State) (k : Nat) (f : Ctx → Ctx) : (s.updCtx k f).pwrcap = s.pwrcap := rfl
@[simp] theorem State.updCtx_arbs (s : State) (k : Nat) (f : Ctx → Ctx) : (s.updCtx k f).arbs = s.arbs := rfl
@[simp] theorem State.updCtx_l2reqs (s : State) (k : Nat) (f : Ctx → Ctx) : (s.updCtx k f).l2reqs = s.l2reqs := rfl
@[simp] theorem State.updCtx_fills (s : State) (k : Nat) (f : Ctx → Ctx) : (s.updCtx k f).fills = s.fills := rfl
@[simp] theorem State.updCtx_sets (s : State) (k : Nat) (f : Ctx → Ctx) : (s.updCtx k f).sets = s.sets := rfl
@[simp] theorem State.updCtx_poison (s : State) (k : Nat) (f : Ctx → Ctx) : (s.updCtx k f).poison = s.poison := rfl
@[simp] theorem State.updCtx_alignofs (s : State) (k : Nat) (f : Ctx → Ctx) : (s.updCtx k f).alignofs = s.alignofs := rfl
@[simp] theorem State.updCtx_alignAt (s : State) (k : Nat) (f : Ctx → Ctx) : (s.updCtx k f).alignAt = s.alignAt := rfl
@[simp] theorem State.updCtx_reading (s : State) (k : Nat) (f : Ctx → Ctx) : (s.updCtx k f).reading = s.reading := rfl
@[simp] theorem State.updCtx_beatAt (s : State) (k : Nat) (f : Ctx → Ctx) : (s.updCtx k f).beatAt = s.beatAt := rfl
@[simp] theorem State.updCtx_storage (s : State) (k : Nat) (f : Ctx → Ctx) : (s.updCtx k f).storage = s.storage := rfl
@[simp] theorem State.updCtx_revokes (s : State) (k : Nat) (f : Ctx → Ctx) : (s.updCtx k f).revokes = s.revokes := rfl
@[simp] theorem State.updCtx_transfers (s : State) (k : Nat) (f : Ctx → Ctx) : (s.updCtx k f).transfers = s.transfers := rfl
@[simp] theorem State.updCtx_waitReqs (s : State) (k : Nat) (f : Ctx → Ctx) : (s.updCtx k f).waitReqs = s.waitReqs := rfl
@[simp] theorem State.updCtx_reserved (s : State) (k : Nat) (f : Ctx → Ctx) : (s.updCtx k f).reserved = s.reserved := rfl
@[simp] theorem State.updCtx_waitContrs (s : State) (k : Nat) (f : Ctx → Ctx) : (s.updCtx k f).waitContrs = s.waitContrs := rfl
@[simp] theorem State.updCtx_votes (s : State) (k : Nat) (f : Ctx → Ctx) : (s.updCtx k f).votes = s.votes := rfl
@[simp] theorem State.updCtx_results (s : State) (k : Nat) (f : Ctx → Ctx) : (s.updCtx k f).results = s.results := rfl
@[simp] theorem State.updCtx_answers (s : State) (k : Nat) (f : Ctx → Ctx) : (s.updCtx k f).answers = s.answers := rfl
@[simp] theorem State.updCtx_refresh (s : State) (k : Nat) (f : Ctx → Ctx) : (s.updCtx k f).refresh = s.refresh := rfl
@[simp] theorem State.updCtx_hbm (s : State) (k : Nat) (f : Ctx → Ctx) : (s.updCtx k f).hbm = s.hbm := rfl
@[simp] theorem State.updCtx_ddr (s : State) (k : Nat) (f : Ctx → Ctx) : (s.updCtx k f).ddr = s.ddr := rfl
@[simp] theorem State.updCtx_hostMem (s : State) (k : Nat) (f : Ctx → Ctx) : (s.updCtx k f).hostMem = s.hostMem := rfl
@[simp] theorem State.updCtx_hostLive (s : State) (k : Nat) (f : Ctx → Ctx) : (s.updCtx k f).hostLive = s.hostLive := rfl
@[simp] theorem State.updCtx_rep (s : State) (k : Nat) (f : Ctx → Ctx) : (s.updCtx k f).rep = s.rep := rfl
@[simp] theorem State.updCtx_images (s : State) (k : Nat) (f : Ctx → Ctx) : (s.updCtx k f).images = s.images := rfl
@[simp] theorem State.updCtx_boot (s : State) (k : Nat) (f : Ctx → Ctx) : (s.updCtx k f).boot = s.boot := rfl
@[simp] theorem State.updCtx_frozen (s : State) (k : Nat) (f : Ctx → Ctx) : (s.updCtx k f).frozen = s.frozen := rfl
@[simp] theorem State.updCtx_agenda (s : State) (k : Nat) (f : Ctx → Ctx) : (s.updCtx k f).agenda = s.agenda := rfl
@[simp] theorem State.updCtx_admitted (s : State) (k : Nat) (f : Ctx → Ctx) : (s.updCtx k f).admitted = s.admitted := rfl
@[simp] theorem State.updCtx_outbox (s : State) (k : Nat) (f : Ctx → Ctx) : (s.updCtx k f).outbox = s.outbox := rfl
@[simp] theorem State.updCtx_reads (s : State) (k : Nat) (f : Ctx → Ctx) : (s.updCtx k f).reads = s.reads := rfl

/-! ### State.updEngine -/

@[simp] theorem State.updEngine_cycle (s : State) (k : Nat) (f : Engine → Engine) : (s.updEngine k f).cycle = s.cycle := rfl
@[simp] theorem State.updEngine_cur (s : State) (k : Nat) (f : Engine → Engine) : (s.updEngine k f).cur = s.cur := rfl
@[simp] theorem State.updEngine_acted (s : State) (k : Nat) (f : Engine → Engine) : (s.updEngine k f).acted = s.acted := rfl
@[simp] theorem State.updEngine_rr (s : State) (k : Nat) (f : Engine → Engine) : (s.updEngine k f).rr = s.rr := rfl
@[simp] theorem State.updEngine_turn (s : State) (k : Nat) (f : Engine → Engine) : (s.updEngine k f).turn = s.turn := rfl
@[simp] theorem State.updEngine_fresh (s : State) (k : Nat) (f : Engine → Engine) : (s.updEngine k f).fresh = s.fresh := rfl
@[simp] theorem State.updEngine_nextLaunch (s : State) (k : Nat) (f : Engine → Engine) : (s.updEngine k f).nextLaunch = s.nextLaunch := rfl
@[simp] theorem State.updEngine_waves (s : State) (k : Nat) (f : Engine → Engine) : (s.updEngine k f).waves = s.waves := rfl
@[simp] theorem State.updEngine_blocks (s : State) (k : Nat) (f : Engine → Engine) : (s.updEngine k f).blocks = s.blocks := rfl
@[simp] theorem State.updEngine_launches (s : State) (k : Nat) (f : Engine → Engine) : (s.updEngine k f).launches = s.launches := rfl
@[simp] theorem State.updEngine_cores (s : State) (k : Nat) (f : Engine → Engine) : (s.updEngine k f).cores = s.cores := rfl
@[simp] theorem State.updEngine_ctxs (s : State) (k : Nat) (f : Engine → Engine) : (s.updEngine k f).ctxs = s.ctxs := rfl
@[simp] theorem State.updEngine_dying (s : State) (k : Nat) (f : Engine → Engine) : (s.updEngine k f).dying = s.dying := rfl
@[simp] theorem State.updEngine_tags (s : State) (k : Nat) (f : Engine → Engine) : (s.updEngine k f).tags = s.tags := rfl
@[simp] theorem State.updEngine_tlb (s : State) (k : Nat) (f : Engine → Engine) : (s.updEngine k f).tlb = s.tlb := rfl
@[simp] theorem State.updEngine_invals (s : State) (k : Nat) (f : Engine → Engine) : (s.updEngine k f).invals = s.invals := rfl
@[simp] theorem State.updEngine_posts (s : State) (k : Nat) (f : Engine → Engine) : (s.updEngine k f).posts = s.posts := rfl
@[simp] theorem State.updEngine_tdis (s : State) (k : Nat) (f : Engine → Engine) : (s.updEngine k f).tdis = s.tdis := rfl
@[simp] theorem State.updEngine_priAlloc (s : State) (k : Nat) (f : Engine → Engine) : (s.updEngine k f).priAlloc = s.priAlloc := rfl
@[simp] theorem State.updEngine_frb (s : State) (k : Nat) (f : Engine → Engine) : (s.updEngine k f).frb = s.frb := rfl
@[simp] theorem State.updEngine_shoot (s : State) (k : Nat) (f : Engine → Engine) : (s.updEngine k f).shoot = s.shoot := rfl
@[simp] theorem State.updEngine_remap (s : State) (k : Nat) (f : Engine → Engine) : (s.updEngine k f).remap = s.remap := rfl
@[simp] theorem State.updEngine_bquant (s : State) (k : Nat) (f : Engine → Engine) : (s.updEngine k f).bquant = s.bquant := rfl
@[simp] theorem State.updEngine_flgap (s : State) (k : Nat) (f : Engine → Engine) : (s.updEngine k f).flgap = s.flgap := rfl
@[simp] theorem State.updEngine_jrnBase (s : State) (k : Nat) (f : Engine → Engine) : (s.updEngine k f).jrnBase = s.jrnBase := rfl
@[simp] theorem State.updEngine_jrnSize (s : State) (k : Nat) (f : Engine → Engine) : (s.updEngine k f).jrnSize = s.jrnSize := rfl
@[simp] theorem State.updEngine_jrnSeq (s : State) (k : Nat) (f : Engine → Engine) : (s.updEngine k f).jrnSeq = s.jrnSeq := rfl
@[simp] theorem State.updEngine_owned (s : State) (k : Nat) (f : Engine → Engine) : (s.updEngine k f).owned = s.owned := rfl
@[simp] theorem State.updEngine_openWin (s : State) (k : Nat) (f : Engine → Engine) : (s.updEngine k f).openWin = s.openWin := rfl
@[simp] theorem State.updEngine_giver (s : State) (k : Nat) (f : Engine → Engine) : (s.updEngine k f).giver = s.giver := rfl
@[simp] theorem State.updEngine_owner (s : State) (k : Nat) (f : Engine → Engine) : (s.updEngine k f).owner = s.owner := rfl
@[simp] theorem State.updEngine_claims (s : State) (k : Nat) (f : Engine → Engine) : (s.updEngine k f).claims = s.claims := rfl
@[simp] theorem State.updEngine_winEnd (s : State) (k : Nat) (f : Engine → Engine) : (s.updEngine k f).winEnd = s.winEnd := rfl
@[simp] theorem State.updEngine_leaseMs (s : State) (k : Nat) (f : Engine → Engine) : (s.updEngine k f).leaseMs = s.leaseMs := rfl
@[simp] theorem State.updEngine_beat (s : State) (k : Nat) (f : Engine → Engine) : (s.updEngine k f).beat = s.beat := rfl
@[simp] theorem State.updEngine_target (s : State) (k : Nat) (f : Engine → Engine) : (s.updEngine k f).target = s.target := rfl
@[simp] theorem State.updEngine_giveEnd (s : State) (k : Nat) (f : Engine → Engine) : (s.updEngine k f).giveEnd = s.giveEnd := rfl
@[simp] theorem State.updEngine_dropcnt (s : State) (k : Nat) (f : Engine → Engine) : (s.updEngine k f).dropcnt = s.dropcnt := rfl
@[simp] theorem State.updEngine_admReq (s : State) (k : Nat) (f : Engine → Engine) : (s.updEngine k f).admReq = s.admReq := rfl
@[simp] theorem State.updEngine_admNow (s : State) (k : Nat) (f : Engine → Engine) : (s.updEngine k f).admNow = s.admNow := rfl
@[simp] theorem State.updEngine_admBusy (s : State) (k : Nat) (f : Engine → Engine) : (s.updEngine k f).admBusy = s.admBusy := rfl
@[simp] theorem State.updEngine_admAt (s : State) (k : Nat) (f : Engine → Engine) : (s.updEngine k f).admAt = s.admAt := rfl
@[simp] theorem State.updEngine_admRes (s : State) (k : Nat) (f : Engine → Engine) : (s.updEngine k f).admRes = s.admRes := rfl
@[simp] theorem State.updEngine_errBase (s : State) (k : Nat) (f : Engine → Engine) : (s.updEngine k f).errBase = s.errBase := rfl
@[simp] theorem State.updEngine_errSize (s : State) (k : Nat) (f : Engine → Engine) : (s.updEngine k f).errSize = s.errSize := rfl
@[simp] theorem State.updEngine_errCnt (s : State) (k : Nat) (f : Engine → Engine) : (s.updEngine k f).errCnt = s.errCnt := rfl
@[simp] theorem State.updEngine_corrs (s : State) (k : Nat) (f : Engine → Engine) : (s.updEngine k f).corrs = s.corrs := rfl
@[simp] theorem State.updEngine_hblost (s : State) (k : Nat) (f : Engine → Engine) : (s.updEngine k f).hblost = s.hblost := rfl
@[simp] theorem State.updEngine_ports (s : State) (k : Nat) (f : Engine → Engine) : (s.updEngine k f).ports = s.ports := rfl
@[simp] theorem State.updEngine_linksDown (s : State) (k : Nat) (f : Engine → Engine) : (s.updEngine k f).linksDown = s.linksDown := rfl
@[simp] theorem State.updEngine_resends (s : State) (k : Nat) (f : Engine → Engine) : (s.updEngine k f).resends = s.resends := rfl
@[simp] theorem State.updEngine_lostRanks (s : State) (k : Nat) (f : Engine → Engine) : (s.updEngine k f).lostRanks = s.lostRanks := rfl
@[simp] theorem State.updEngine_heard (s : State) (k : Nat) (f : Engine → Engine) : (s.updEngine k f).heard = s.heard := rfl
@[simp] theorem State.updEngine_thrctl (s : State) (k : Nat) (f : Engine → Engine) : (s.updEngine k f).thrctl = s.thrctl := rfl
@[simp] theorem State.updEngine_thrLive (s : State) (k : Nat) (f : Engine → Engine) : (s.updEngine k f).thrLive = s.thrLive := rfl
@[simp] theorem State.updEngine_pwrcap (s : State) (k : Nat) (f : Engine → Engine) : (s.updEngine k f).pwrcap = s.pwrcap := rfl
@[simp] theorem State.updEngine_arbs (s : State) (k : Nat) (f : Engine → Engine) : (s.updEngine k f).arbs = s.arbs := rfl
@[simp] theorem State.updEngine_l2reqs (s : State) (k : Nat) (f : Engine → Engine) : (s.updEngine k f).l2reqs = s.l2reqs := rfl
@[simp] theorem State.updEngine_fills (s : State) (k : Nat) (f : Engine → Engine) : (s.updEngine k f).fills = s.fills := rfl
@[simp] theorem State.updEngine_sets (s : State) (k : Nat) (f : Engine → Engine) : (s.updEngine k f).sets = s.sets := rfl
@[simp] theorem State.updEngine_poison (s : State) (k : Nat) (f : Engine → Engine) : (s.updEngine k f).poison = s.poison := rfl
@[simp] theorem State.updEngine_alignofs (s : State) (k : Nat) (f : Engine → Engine) : (s.updEngine k f).alignofs = s.alignofs := rfl
@[simp] theorem State.updEngine_alignAt (s : State) (k : Nat) (f : Engine → Engine) : (s.updEngine k f).alignAt = s.alignAt := rfl
@[simp] theorem State.updEngine_reading (s : State) (k : Nat) (f : Engine → Engine) : (s.updEngine k f).reading = s.reading := rfl
@[simp] theorem State.updEngine_beatAt (s : State) (k : Nat) (f : Engine → Engine) : (s.updEngine k f).beatAt = s.beatAt := rfl
@[simp] theorem State.updEngine_storage (s : State) (k : Nat) (f : Engine → Engine) : (s.updEngine k f).storage = s.storage := rfl
@[simp] theorem State.updEngine_revokes (s : State) (k : Nat) (f : Engine → Engine) : (s.updEngine k f).revokes = s.revokes := rfl
@[simp] theorem State.updEngine_transfers (s : State) (k : Nat) (f : Engine → Engine) : (s.updEngine k f).transfers = s.transfers := rfl
@[simp] theorem State.updEngine_waitReqs (s : State) (k : Nat) (f : Engine → Engine) : (s.updEngine k f).waitReqs = s.waitReqs := rfl
@[simp] theorem State.updEngine_reserved (s : State) (k : Nat) (f : Engine → Engine) : (s.updEngine k f).reserved = s.reserved := rfl
@[simp] theorem State.updEngine_waitContrs (s : State) (k : Nat) (f : Engine → Engine) : (s.updEngine k f).waitContrs = s.waitContrs := rfl
@[simp] theorem State.updEngine_votes (s : State) (k : Nat) (f : Engine → Engine) : (s.updEngine k f).votes = s.votes := rfl
@[simp] theorem State.updEngine_results (s : State) (k : Nat) (f : Engine → Engine) : (s.updEngine k f).results = s.results := rfl
@[simp] theorem State.updEngine_answers (s : State) (k : Nat) (f : Engine → Engine) : (s.updEngine k f).answers = s.answers := rfl
@[simp] theorem State.updEngine_refresh (s : State) (k : Nat) (f : Engine → Engine) : (s.updEngine k f).refresh = s.refresh := rfl
@[simp] theorem State.updEngine_hbm (s : State) (k : Nat) (f : Engine → Engine) : (s.updEngine k f).hbm = s.hbm := rfl
@[simp] theorem State.updEngine_ddr (s : State) (k : Nat) (f : Engine → Engine) : (s.updEngine k f).ddr = s.ddr := rfl
@[simp] theorem State.updEngine_hostMem (s : State) (k : Nat) (f : Engine → Engine) : (s.updEngine k f).hostMem = s.hostMem := rfl
@[simp] theorem State.updEngine_hostLive (s : State) (k : Nat) (f : Engine → Engine) : (s.updEngine k f).hostLive = s.hostLive := rfl
@[simp] theorem State.updEngine_rep (s : State) (k : Nat) (f : Engine → Engine) : (s.updEngine k f).rep = s.rep := rfl
@[simp] theorem State.updEngine_images (s : State) (k : Nat) (f : Engine → Engine) : (s.updEngine k f).images = s.images := rfl
@[simp] theorem State.updEngine_boot (s : State) (k : Nat) (f : Engine → Engine) : (s.updEngine k f).boot = s.boot := rfl
@[simp] theorem State.updEngine_frozen (s : State) (k : Nat) (f : Engine → Engine) : (s.updEngine k f).frozen = s.frozen := rfl
@[simp] theorem State.updEngine_agenda (s : State) (k : Nat) (f : Engine → Engine) : (s.updEngine k f).agenda = s.agenda := rfl
@[simp] theorem State.updEngine_admitted (s : State) (k : Nat) (f : Engine → Engine) : (s.updEngine k f).admitted = s.admitted := rfl
@[simp] theorem State.updEngine_outbox (s : State) (k : Nat) (f : Engine → Engine) : (s.updEngine k f).outbox = s.outbox := rfl
@[simp] theorem State.updEngine_reads (s : State) (k : Nat) (f : Engine → Engine) : (s.updEngine k f).reads = s.reads := rfl

/-! ### State.drawn -/

@[simp] theorem State.drawn_cycle (s : State) : (s.drawn).cycle = s.cycle := rfl
@[simp] theorem State.drawn_cur (s : State) : (s.drawn).cur = s.cur := rfl
@[simp] theorem State.drawn_acted (s : State) : (s.drawn).acted = s.acted := rfl
@[simp] theorem State.drawn_rr (s : State) : (s.drawn).rr = s.rr := rfl
@[simp] theorem State.drawn_turn (s : State) : (s.drawn).turn = s.turn := rfl
@[simp] theorem State.drawn_nextLaunch (s : State) : (s.drawn).nextLaunch = s.nextLaunch := rfl
@[simp] theorem State.drawn_waves (s : State) : (s.drawn).waves = s.waves := rfl
@[simp] theorem State.drawn_blocks (s : State) : (s.drawn).blocks = s.blocks := rfl
@[simp] theorem State.drawn_launches (s : State) : (s.drawn).launches = s.launches := rfl
@[simp] theorem State.drawn_cores (s : State) : (s.drawn).cores = s.cores := rfl
@[simp] theorem State.drawn_engines (s : State) : (s.drawn).engines = s.engines := rfl
@[simp] theorem State.drawn_ctxs (s : State) : (s.drawn).ctxs = s.ctxs := rfl
@[simp] theorem State.drawn_dying (s : State) : (s.drawn).dying = s.dying := rfl
@[simp] theorem State.drawn_tags (s : State) : (s.drawn).tags = s.tags := rfl
@[simp] theorem State.drawn_tlb (s : State) : (s.drawn).tlb = s.tlb := rfl
@[simp] theorem State.drawn_invals (s : State) : (s.drawn).invals = s.invals := rfl
@[simp] theorem State.drawn_posts (s : State) : (s.drawn).posts = s.posts := rfl
@[simp] theorem State.drawn_tdis (s : State) : (s.drawn).tdis = s.tdis := rfl
@[simp] theorem State.drawn_priAlloc (s : State) : (s.drawn).priAlloc = s.priAlloc := rfl
@[simp] theorem State.drawn_frb (s : State) : (s.drawn).frb = s.frb := rfl
@[simp] theorem State.drawn_shoot (s : State) : (s.drawn).shoot = s.shoot := rfl
@[simp] theorem State.drawn_remap (s : State) : (s.drawn).remap = s.remap := rfl
@[simp] theorem State.drawn_bquant (s : State) : (s.drawn).bquant = s.bquant := rfl
@[simp] theorem State.drawn_flgap (s : State) : (s.drawn).flgap = s.flgap := rfl
@[simp] theorem State.drawn_jrnBase (s : State) : (s.drawn).jrnBase = s.jrnBase := rfl
@[simp] theorem State.drawn_jrnSize (s : State) : (s.drawn).jrnSize = s.jrnSize := rfl
@[simp] theorem State.drawn_jrnSeq (s : State) : (s.drawn).jrnSeq = s.jrnSeq := rfl
@[simp] theorem State.drawn_owned (s : State) : (s.drawn).owned = s.owned := rfl
@[simp] theorem State.drawn_openWin (s : State) : (s.drawn).openWin = s.openWin := rfl
@[simp] theorem State.drawn_giver (s : State) : (s.drawn).giver = s.giver := rfl
@[simp] theorem State.drawn_owner (s : State) : (s.drawn).owner = s.owner := rfl
@[simp] theorem State.drawn_claims (s : State) : (s.drawn).claims = s.claims := rfl
@[simp] theorem State.drawn_winEnd (s : State) : (s.drawn).winEnd = s.winEnd := rfl
@[simp] theorem State.drawn_leaseMs (s : State) : (s.drawn).leaseMs = s.leaseMs := rfl
@[simp] theorem State.drawn_beat (s : State) : (s.drawn).beat = s.beat := rfl
@[simp] theorem State.drawn_target (s : State) : (s.drawn).target = s.target := rfl
@[simp] theorem State.drawn_giveEnd (s : State) : (s.drawn).giveEnd = s.giveEnd := rfl
@[simp] theorem State.drawn_dropcnt (s : State) : (s.drawn).dropcnt = s.dropcnt := rfl
@[simp] theorem State.drawn_admReq (s : State) : (s.drawn).admReq = s.admReq := rfl
@[simp] theorem State.drawn_admNow (s : State) : (s.drawn).admNow = s.admNow := rfl
@[simp] theorem State.drawn_admBusy (s : State) : (s.drawn).admBusy = s.admBusy := rfl
@[simp] theorem State.drawn_admAt (s : State) : (s.drawn).admAt = s.admAt := rfl
@[simp] theorem State.drawn_admRes (s : State) : (s.drawn).admRes = s.admRes := rfl
@[simp] theorem State.drawn_errBase (s : State) : (s.drawn).errBase = s.errBase := rfl
@[simp] theorem State.drawn_errSize (s : State) : (s.drawn).errSize = s.errSize := rfl
@[simp] theorem State.drawn_errCnt (s : State) : (s.drawn).errCnt = s.errCnt := rfl
@[simp] theorem State.drawn_corrs (s : State) : (s.drawn).corrs = s.corrs := rfl
@[simp] theorem State.drawn_hblost (s : State) : (s.drawn).hblost = s.hblost := rfl
@[simp] theorem State.drawn_ports (s : State) : (s.drawn).ports = s.ports := rfl
@[simp] theorem State.drawn_linksDown (s : State) : (s.drawn).linksDown = s.linksDown := rfl
@[simp] theorem State.drawn_resends (s : State) : (s.drawn).resends = s.resends := rfl
@[simp] theorem State.drawn_lostRanks (s : State) : (s.drawn).lostRanks = s.lostRanks := rfl
@[simp] theorem State.drawn_heard (s : State) : (s.drawn).heard = s.heard := rfl
@[simp] theorem State.drawn_thrctl (s : State) : (s.drawn).thrctl = s.thrctl := rfl
@[simp] theorem State.drawn_thrLive (s : State) : (s.drawn).thrLive = s.thrLive := rfl
@[simp] theorem State.drawn_pwrcap (s : State) : (s.drawn).pwrcap = s.pwrcap := rfl
@[simp] theorem State.drawn_arbs (s : State) : (s.drawn).arbs = s.arbs := rfl
@[simp] theorem State.drawn_l2reqs (s : State) : (s.drawn).l2reqs = s.l2reqs := rfl
@[simp] theorem State.drawn_fills (s : State) : (s.drawn).fills = s.fills := rfl
@[simp] theorem State.drawn_sets (s : State) : (s.drawn).sets = s.sets := rfl
@[simp] theorem State.drawn_poison (s : State) : (s.drawn).poison = s.poison := rfl
@[simp] theorem State.drawn_alignofs (s : State) : (s.drawn).alignofs = s.alignofs := rfl
@[simp] theorem State.drawn_alignAt (s : State) : (s.drawn).alignAt = s.alignAt := rfl
@[simp] theorem State.drawn_reading (s : State) : (s.drawn).reading = s.reading := rfl
@[simp] theorem State.drawn_beatAt (s : State) : (s.drawn).beatAt = s.beatAt := rfl
@[simp] theorem State.drawn_storage (s : State) : (s.drawn).storage = s.storage := rfl
@[simp] theorem State.drawn_revokes (s : State) : (s.drawn).revokes = s.revokes := rfl
@[simp] theorem State.drawn_transfers (s : State) : (s.drawn).transfers = s.transfers := rfl
@[simp] theorem State.drawn_waitReqs (s : State) : (s.drawn).waitReqs = s.waitReqs := rfl
@[simp] theorem State.drawn_reserved (s : State) : (s.drawn).reserved = s.reserved := rfl
@[simp] theorem State.drawn_waitContrs (s : State) : (s.drawn).waitContrs = s.waitContrs := rfl
@[simp] theorem State.drawn_votes (s : State) : (s.drawn).votes = s.votes := rfl
@[simp] theorem State.drawn_results (s : State) : (s.drawn).results = s.results := rfl
@[simp] theorem State.drawn_answers (s : State) : (s.drawn).answers = s.answers := rfl
@[simp] theorem State.drawn_refresh (s : State) : (s.drawn).refresh = s.refresh := rfl
@[simp] theorem State.drawn_hbm (s : State) : (s.drawn).hbm = s.hbm := rfl
@[simp] theorem State.drawn_ddr (s : State) : (s.drawn).ddr = s.ddr := rfl
@[simp] theorem State.drawn_hostMem (s : State) : (s.drawn).hostMem = s.hostMem := rfl
@[simp] theorem State.drawn_hostLive (s : State) : (s.drawn).hostLive = s.hostLive := rfl
@[simp] theorem State.drawn_rep (s : State) : (s.drawn).rep = s.rep := rfl
@[simp] theorem State.drawn_images (s : State) : (s.drawn).images = s.images := rfl
@[simp] theorem State.drawn_boot (s : State) : (s.drawn).boot = s.boot := rfl
@[simp] theorem State.drawn_frozen (s : State) : (s.drawn).frozen = s.frozen := rfl
@[simp] theorem State.drawn_agenda (s : State) : (s.drawn).agenda = s.agenda := rfl
@[simp] theorem State.drawn_admitted (s : State) : (s.drawn).admitted = s.admitted := rfl
@[simp] theorem State.drawn_outbox (s : State) : (s.drawn).outbox = s.outbox := rfl
@[simp] theorem State.drawn_reads (s : State) : (s.drawn).reads = s.reads := rfl

@[simp] theorem State.updWave_waveAt (s : State) (k : Nat) (f : Wave → Wave) : (s.updWave k f).waveAt k = f (s.waveAt k) := by
  simp [State.updWave, State.waveAt]

theorem State.updWave_waveAt_ne (s : State) (k : Nat) (f : Wave → Wave) {m : Nat} (h : m ≠ k) : (s.updWave k f).waveAt m = s.waveAt m := by
  simp [State.updWave, State.waveAt, tget_tset_ne _ _ _ h]

@[simp] theorem State.updBlock_waveAt (s : State) (k : Nat) (f : Block → Block) (m : Nat) : (s.updBlock k f).waveAt m = s.waveAt m := rfl
@[simp] theorem State.updLaunch_waveAt (s : State) (k : Nat) (f : Launch → Launch) (m : Nat) : (s.updLaunch k f).waveAt m = s.waveAt m := rfl
@[simp] theorem State.updCore_waveAt (s : State) (k : Nat) (f : Core → Core) (m : Nat) : (s.updCore k f).waveAt m = s.waveAt m := rfl
@[simp] theorem State.updCtx_waveAt (s : State) (k : Nat) (f : Ctx → Ctx) (m : Nat) : (s.updCtx k f).waveAt m = s.waveAt m := rfl
@[simp] theorem State.updEngine_waveAt (s : State) (k : Nat) (f : Engine → Engine) (m : Nat) : (s.updEngine k f).waveAt m = s.waveAt m := rfl
@[simp] theorem State.drawn_waveAt (s : State) (m : Nat) : (s.drawn).waveAt m = s.waveAt m := rfl

@[simp] theorem State.updBlock_blockAt (s : State) (k : Nat) (f : Block → Block) : (s.updBlock k f).blockAt k = f (s.blockAt k) := by
  simp [State.updBlock, State.blockAt]

theorem State.updBlock_blockAt_ne (s : State) (k : Nat) (f : Block → Block) {m : Nat} (h : m ≠ k) : (s.updBlock k f).blockAt m = s.blockAt m := by
  simp [State.updBlock, State.blockAt, tget_tset_ne _ _ _ h]

@[simp] theorem State.setWave_blockAt (s : State) (w : Wave) (m : Nat) : (s.setWave w).blockAt m = s.blockAt m := rfl
@[simp] theorem State.updWave_blockAt (s : State) (k : Nat) (f : Wave → Wave) (m : Nat) : (s.updWave k f).blockAt m = s.blockAt m := rfl
@[simp] theorem State.updLaunch_blockAt (s : State) (k : Nat) (f : Launch → Launch) (m : Nat) : (s.updLaunch k f).blockAt m = s.blockAt m := rfl
@[simp] theorem State.updCore_blockAt (s : State) (k : Nat) (f : Core → Core) (m : Nat) : (s.updCore k f).blockAt m = s.blockAt m := rfl
@[simp] theorem State.updCtx_blockAt (s : State) (k : Nat) (f : Ctx → Ctx) (m : Nat) : (s.updCtx k f).blockAt m = s.blockAt m := rfl
@[simp] theorem State.updEngine_blockAt (s : State) (k : Nat) (f : Engine → Engine) (m : Nat) : (s.updEngine k f).blockAt m = s.blockAt m := rfl
@[simp] theorem State.drawn_blockAt (s : State) (m : Nat) : (s.drawn).blockAt m = s.blockAt m := rfl

@[simp] theorem State.updLaunch_launchAt (s : State) (k : Nat) (f : Launch → Launch) : (s.updLaunch k f).launchAt k = f (s.launchAt k) := by
  simp [State.updLaunch, State.launchAt]

theorem State.updLaunch_launchAt_ne (s : State) (k : Nat) (f : Launch → Launch) {m : Nat} (h : m ≠ k) : (s.updLaunch k f).launchAt m = s.launchAt m := by
  simp [State.updLaunch, State.launchAt, tget_tset_ne _ _ _ h]

@[simp] theorem State.setWave_launchAt (s : State) (w : Wave) (m : Nat) : (s.setWave w).launchAt m = s.launchAt m := rfl
@[simp] theorem State.updWave_launchAt (s : State) (k : Nat) (f : Wave → Wave) (m : Nat) : (s.updWave k f).launchAt m = s.launchAt m := rfl
@[simp] theorem State.updBlock_launchAt (s : State) (k : Nat) (f : Block → Block) (m : Nat) : (s.updBlock k f).launchAt m = s.launchAt m := rfl
@[simp] theorem State.updCore_launchAt (s : State) (k : Nat) (f : Core → Core) (m : Nat) : (s.updCore k f).launchAt m = s.launchAt m := rfl
@[simp] theorem State.updCtx_launchAt (s : State) (k : Nat) (f : Ctx → Ctx) (m : Nat) : (s.updCtx k f).launchAt m = s.launchAt m := rfl
@[simp] theorem State.updEngine_launchAt (s : State) (k : Nat) (f : Engine → Engine) (m : Nat) : (s.updEngine k f).launchAt m = s.launchAt m := rfl
@[simp] theorem State.drawn_launchAt (s : State) (m : Nat) : (s.drawn).launchAt m = s.launchAt m := rfl

@[simp] theorem State.updCore_coreAt (s : State) (k : Nat) (f : Core → Core) : (s.updCore k f).coreAt k = f (s.coreAt k) := by
  simp [State.updCore, State.coreAt]

theorem State.updCore_coreAt_ne (s : State) (k : Nat) (f : Core → Core) {m : Nat} (h : m ≠ k) : (s.updCore k f).coreAt m = s.coreAt m := by
  simp [State.updCore, State.coreAt, tget_tset_ne _ _ _ h]

@[simp] theorem State.setWave_coreAt (s : State) (w : Wave) (m : Nat) : (s.setWave w).coreAt m = s.coreAt m := rfl
@[simp] theorem State.updWave_coreAt (s : State) (k : Nat) (f : Wave → Wave) (m : Nat) : (s.updWave k f).coreAt m = s.coreAt m := rfl
@[simp] theorem State.updBlock_coreAt (s : State) (k : Nat) (f : Block → Block) (m : Nat) : (s.updBlock k f).coreAt m = s.coreAt m := rfl
@[simp] theorem State.updLaunch_coreAt (s : State) (k : Nat) (f : Launch → Launch) (m : Nat) : (s.updLaunch k f).coreAt m = s.coreAt m := rfl
@[simp] theorem State.updCtx_coreAt (s : State) (k : Nat) (f : Ctx → Ctx) (m : Nat) : (s.updCtx k f).coreAt m = s.coreAt m := rfl
@[simp] theorem State.updEngine_coreAt (s : State) (k : Nat) (f : Engine → Engine) (m : Nat) : (s.updEngine k f).coreAt m = s.coreAt m := rfl
@[simp] theorem State.drawn_coreAt (s : State) (m : Nat) : (s.drawn).coreAt m = s.coreAt m := rfl

@[simp] theorem State.updCtx_ctxAt (s : State) (k : Nat) (f : Ctx → Ctx) : (s.updCtx k f).ctxAt k = f (s.ctxAt k) := by
  simp [State.updCtx, State.ctxAt]

theorem State.updCtx_ctxAt_ne (s : State) (k : Nat) (f : Ctx → Ctx) {m : Nat} (h : m ≠ k) : (s.updCtx k f).ctxAt m = s.ctxAt m := by
  simp [State.updCtx, State.ctxAt, tget_tset_ne _ _ _ h]

@[simp] theorem State.setWave_ctxAt (s : State) (w : Wave) (m : Nat) : (s.setWave w).ctxAt m = s.ctxAt m := rfl
@[simp] theorem State.updWave_ctxAt (s : State) (k : Nat) (f : Wave → Wave) (m : Nat) : (s.updWave k f).ctxAt m = s.ctxAt m := rfl
@[simp] theorem State.updBlock_ctxAt (s : State) (k : Nat) (f : Block → Block) (m : Nat) : (s.updBlock k f).ctxAt m = s.ctxAt m := rfl
@[simp] theorem State.updLaunch_ctxAt (s : State) (k : Nat) (f : Launch → Launch) (m : Nat) : (s.updLaunch k f).ctxAt m = s.ctxAt m := rfl
@[simp] theorem State.updCore_ctxAt (s : State) (k : Nat) (f : Core → Core) (m : Nat) : (s.updCore k f).ctxAt m = s.ctxAt m := rfl
@[simp] theorem State.updEngine_ctxAt (s : State) (k : Nat) (f : Engine → Engine) (m : Nat) : (s.updEngine k f).ctxAt m = s.ctxAt m := rfl
@[simp] theorem State.drawn_ctxAt (s : State) (m : Nat) : (s.drawn).ctxAt m = s.ctxAt m := rfl

/-! ### The acting wave -/

@[simp] theorem State.setWave_wave (s : State) (w : Wave) : (s.setWave w).wave = w := by simp [State.wave, State.setWave]
@[simp] theorem State.setWave_regs (s : State) (w : Wave) : (s.setWave w).regs = w.regs := by simp [State.regs]
@[simp] theorem State.setWave_setWave (s : State) (u w : Wave) : (s.setWave u).setWave w = s.setWave w := by
  simp [State.setWave]
@[simp] theorem State.setRegs_regs (s : State) (r : WaveRegs) : (s.setRegs r).regs = r := by simp [State.setRegs]
@[simp] theorem State.updRegs_regs (s : State) (f : WaveRegs → WaveRegs) : (s.updRegs f).regs = f s.regs := by
  simp [State.updRegs]
theorem State.updRegs_eq (s : State) (f : WaveRegs → WaveRegs) :
    s.updRegs f = s.setWave { s.wave with regs := f s.regs } := rfl
theorem State.setWave_waveAt_ne (s : State) (w : Wave) {k : Nat} (h : k ≠ s.cur) : (s.setWave w).waveAt k = s.waveAt k := by
  simp [State.waveAt, State.setWave, tget_tset_ne _ _ _ h]
@[simp] theorem State.setWave_waveAt (s : State) (w : Wave) : (s.setWave w).waveAt s.cur = w := by
  simp [State.waveAt, State.setWave]
theorem State.wave_eq (s : State) : s.wave = s.waveAt s.cur := rfl

/-! ### Registers of a wave -/

@[simp] theorem WaveRegs.putS_pc (r : WaveRegs) (i : Nat) (x : Word) : (r.putS i x).pc = r.pc := rfl
@[simp] theorem WaveRegs.putS_em (r : WaveRegs) (i : Nat) (x : Word) : (r.putS i x).em = r.em := rfl
@[simp] theorem WaveRegs.putS_exited (r : WaveRegs) (i : Nat) (x : Word) : (r.putS i x).exited = r.exited := rfl
@[simp] theorem WaveRegs.putS_stack (r : WaveRegs) (i : Nat) (x : Word) : (r.putS i x).stack = r.stack := rfl
@[simp] theorem WaveRegs.putS_lc (r : WaveRegs) (i : Nat) (x : Word) : (r.putS i x).lc = r.lc := rfl
@[simp] theorem WaveRegs.putS_wbase (r : WaveRegs) (i : Nat) (x : Word) : (r.putS i x).wbase = r.wbase := rfl
@[simp] theorem WaveRegs.putS_vregs (r : WaveRegs) (i : Nat) (x : Word) : (r.putS i x).vregs = r.vregs := rfl
@[simp] theorem WaveRegs.putS_fpc (r : WaveRegs) (i : Nat) (x : Word) : (r.putS i x).fpc = r.fpc := rfl
@[simp] theorem WaveRegs.putS_ctxs (r : WaveRegs) (i : Nat) (x : Word) : (r.putS i x).ctxs = r.ctxs := rfl
@[simp] theorem WaveRegs.putS_tiles (r : WaveRegs) (i : Nat) (x : Word) : (r.putS i x).tiles = r.tiles := rfl
@[simp] theorem WaveRegs.putS_priv (r : WaveRegs) (i : Nat) (x : Word) : (r.putS i x).priv = r.priv := rfl
@[simp] theorem WaveRegs.putS_tcode (r : WaveRegs) (i : Nat) (x : Word) : (r.putS i x).tcode = r.tcode := rfl
@[simp] theorem WaveRegs.putS_tpc (r : WaveRegs) (i : Nat) (x : Word) : (r.putS i x).tpc = r.tpc := rfl
@[simp] theorem WaveRegs.putS_tem (r : WaveRegs) (i : Nat) (x : Word) : (r.putS i x).tem = r.tem := rfl
@[simp] theorem WaveRegs.putS_tinfo (r : WaveRegs) (i : Nat) (x : Word) : (r.putS i x).tinfo = r.tinfo := rfl
@[simp] theorem WaveRegs.putS_trapen (r : WaveRegs) (i : Nat) (x : Word) : (r.putS i x).trapen = r.trapen := rfl
@[simp] theorem WaveRegs.putS_wdctl (r : WaveRegs) (i : Nat) (x : Word) : (r.putS i x).wdctl = r.wdctl := rfl
@[simp] theorem WaveRegs.putS_progcnt (r : WaveRegs) (i : Nat) (x : Word) : (r.putS i x).progcnt = r.progcnt := rfl
@[simp] theorem WaveRegs.putS_retired (r : WaveRegs) (i : Nat) (x : Word) : (r.putS i x).retired = r.retired := rfl
@[simp] theorem WaveRegs.putS_region (r : WaveRegs) (i : Nat) (x : Word) : (r.putS i x).region = r.region := rfl
@[simp] theorem WaveRegs.putS_vpois (r : WaveRegs) (i : Nat) (x : Word) : (r.putS i x).vpois = r.vpois := rfl
@[simp] theorem WaveRegs.putS_vkey (r : WaveRegs) (i : Nat) (x : Word) (j : Nat) : (r.putS i x).vkey j = r.vkey j := rfl
@[simp] theorem WaveRegs.putS_skey (r : WaveRegs) (i : Nat) (x : Word) (j : Nat) : (r.putS i x).skey j = r.skey j := rfl

@[simp] theorem WaveRegs.putS2_pc (r : WaveRegs) (i : Nat) (x : DWord) : (r.putS2 i x).pc = r.pc := rfl
@[simp] theorem WaveRegs.putS2_em (r : WaveRegs) (i : Nat) (x : DWord) : (r.putS2 i x).em = r.em := rfl
@[simp] theorem WaveRegs.putS2_exited (r : WaveRegs) (i : Nat) (x : DWord) : (r.putS2 i x).exited = r.exited := rfl
@[simp] theorem WaveRegs.putS2_stack (r : WaveRegs) (i : Nat) (x : DWord) : (r.putS2 i x).stack = r.stack := rfl
@[simp] theorem WaveRegs.putS2_lc (r : WaveRegs) (i : Nat) (x : DWord) : (r.putS2 i x).lc = r.lc := rfl
@[simp] theorem WaveRegs.putS2_wbase (r : WaveRegs) (i : Nat) (x : DWord) : (r.putS2 i x).wbase = r.wbase := rfl
@[simp] theorem WaveRegs.putS2_vregs (r : WaveRegs) (i : Nat) (x : DWord) : (r.putS2 i x).vregs = r.vregs := rfl
@[simp] theorem WaveRegs.putS2_fpc (r : WaveRegs) (i : Nat) (x : DWord) : (r.putS2 i x).fpc = r.fpc := rfl
@[simp] theorem WaveRegs.putS2_ctxs (r : WaveRegs) (i : Nat) (x : DWord) : (r.putS2 i x).ctxs = r.ctxs := rfl
@[simp] theorem WaveRegs.putS2_tiles (r : WaveRegs) (i : Nat) (x : DWord) : (r.putS2 i x).tiles = r.tiles := rfl
@[simp] theorem WaveRegs.putS2_priv (r : WaveRegs) (i : Nat) (x : DWord) : (r.putS2 i x).priv = r.priv := rfl
@[simp] theorem WaveRegs.putS2_tcode (r : WaveRegs) (i : Nat) (x : DWord) : (r.putS2 i x).tcode = r.tcode := rfl
@[simp] theorem WaveRegs.putS2_tpc (r : WaveRegs) (i : Nat) (x : DWord) : (r.putS2 i x).tpc = r.tpc := rfl
@[simp] theorem WaveRegs.putS2_tem (r : WaveRegs) (i : Nat) (x : DWord) : (r.putS2 i x).tem = r.tem := rfl
@[simp] theorem WaveRegs.putS2_tinfo (r : WaveRegs) (i : Nat) (x : DWord) : (r.putS2 i x).tinfo = r.tinfo := rfl
@[simp] theorem WaveRegs.putS2_trapen (r : WaveRegs) (i : Nat) (x : DWord) : (r.putS2 i x).trapen = r.trapen := rfl
@[simp] theorem WaveRegs.putS2_wdctl (r : WaveRegs) (i : Nat) (x : DWord) : (r.putS2 i x).wdctl = r.wdctl := rfl
@[simp] theorem WaveRegs.putS2_progcnt (r : WaveRegs) (i : Nat) (x : DWord) : (r.putS2 i x).progcnt = r.progcnt := rfl
@[simp] theorem WaveRegs.putS2_retired (r : WaveRegs) (i : Nat) (x : DWord) : (r.putS2 i x).retired = r.retired := rfl
@[simp] theorem WaveRegs.putS2_region (r : WaveRegs) (i : Nat) (x : DWord) : (r.putS2 i x).region = r.region := rfl
@[simp] theorem WaveRegs.putS2_vpois (r : WaveRegs) (i : Nat) (x : DWord) : (r.putS2 i x).vpois = r.vpois := rfl
@[simp] theorem WaveRegs.putS2_vkey (r : WaveRegs) (i : Nat) (x : DWord) (j : Nat) : (r.putS2 i x).vkey j = r.vkey j := rfl
@[simp] theorem WaveRegs.putS2_skey (r : WaveRegs) (i : Nat) (x : DWord) (j : Nat) : (r.putS2 i x).skey j = r.skey j := rfl

@[simp] theorem WaveRegs.setV_pc (r : WaveRegs) (i : Nat) (m : Mask) (f : Nat → Word) : (r.setV i m f).pc = r.pc := rfl
@[simp] theorem WaveRegs.setV_em (r : WaveRegs) (i : Nat) (m : Mask) (f : Nat → Word) : (r.setV i m f).em = r.em := rfl
@[simp] theorem WaveRegs.setV_exited (r : WaveRegs) (i : Nat) (m : Mask) (f : Nat → Word) : (r.setV i m f).exited = r.exited := rfl
@[simp] theorem WaveRegs.setV_stack (r : WaveRegs) (i : Nat) (m : Mask) (f : Nat → Word) : (r.setV i m f).stack = r.stack := rfl
@[simp] theorem WaveRegs.setV_lc (r : WaveRegs) (i : Nat) (m : Mask) (f : Nat → Word) : (r.setV i m f).lc = r.lc := rfl
@[simp] theorem WaveRegs.setV_wbase (r : WaveRegs) (i : Nat) (m : Mask) (f : Nat → Word) : (r.setV i m f).wbase = r.wbase := rfl
@[simp] theorem WaveRegs.setV_sregs (r : WaveRegs) (i : Nat) (m : Mask) (f : Nat → Word) : (r.setV i m f).sregs = r.sregs := rfl
@[simp] theorem WaveRegs.setV_fpc (r : WaveRegs) (i : Nat) (m : Mask) (f : Nat → Word) : (r.setV i m f).fpc = r.fpc := rfl
@[simp] theorem WaveRegs.setV_ctxs (r : WaveRegs) (i : Nat) (m : Mask) (f : Nat → Word) : (r.setV i m f).ctxs = r.ctxs := rfl
@[simp] theorem WaveRegs.setV_tiles (r : WaveRegs) (i : Nat) (m : Mask) (f : Nat → Word) : (r.setV i m f).tiles = r.tiles := rfl
@[simp] theorem WaveRegs.setV_priv (r : WaveRegs) (i : Nat) (m : Mask) (f : Nat → Word) : (r.setV i m f).priv = r.priv := rfl
@[simp] theorem WaveRegs.setV_tcode (r : WaveRegs) (i : Nat) (m : Mask) (f : Nat → Word) : (r.setV i m f).tcode = r.tcode := rfl
@[simp] theorem WaveRegs.setV_tpc (r : WaveRegs) (i : Nat) (m : Mask) (f : Nat → Word) : (r.setV i m f).tpc = r.tpc := rfl
@[simp] theorem WaveRegs.setV_tem (r : WaveRegs) (i : Nat) (m : Mask) (f : Nat → Word) : (r.setV i m f).tem = r.tem := rfl
@[simp] theorem WaveRegs.setV_tinfo (r : WaveRegs) (i : Nat) (m : Mask) (f : Nat → Word) : (r.setV i m f).tinfo = r.tinfo := rfl
@[simp] theorem WaveRegs.setV_trapen (r : WaveRegs) (i : Nat) (m : Mask) (f : Nat → Word) : (r.setV i m f).trapen = r.trapen := rfl
@[simp] theorem WaveRegs.setV_wdctl (r : WaveRegs) (i : Nat) (m : Mask) (f : Nat → Word) : (r.setV i m f).wdctl = r.wdctl := rfl
@[simp] theorem WaveRegs.setV_progcnt (r : WaveRegs) (i : Nat) (m : Mask) (f : Nat → Word) : (r.setV i m f).progcnt = r.progcnt := rfl
@[simp] theorem WaveRegs.setV_retired (r : WaveRegs) (i : Nat) (m : Mask) (f : Nat → Word) : (r.setV i m f).retired = r.retired := rfl
@[simp] theorem WaveRegs.setV_region (r : WaveRegs) (i : Nat) (m : Mask) (f : Nat → Word) : (r.setV i m f).region = r.region := rfl
@[simp] theorem WaveRegs.setV_spois (r : WaveRegs) (i : Nat) (m : Mask) (f : Nat → Word) : (r.setV i m f).spois = r.spois := rfl
@[simp] theorem WaveRegs.setV_vkey (r : WaveRegs) (i : Nat) (m : Mask) (f : Nat → Word) (j : Nat) : (r.setV i m f).vkey j = r.vkey j := rfl
@[simp] theorem WaveRegs.setV_skey (r : WaveRegs) (i : Nat) (m : Mask) (f : Nat → Word) (j : Nat) : (r.setV i m f).skey j = r.skey j := rfl

@[simp] theorem WaveRegs.putV_pc (r : WaveRegs) (i : Nat) (f : Nat → Word) : (r.putV i f).pc = r.pc := rfl
@[simp] theorem WaveRegs.putV_em (r : WaveRegs) (i : Nat) (f : Nat → Word) : (r.putV i f).em = r.em := rfl
@[simp] theorem WaveRegs.putV_exited (r : WaveRegs) (i : Nat) (f : Nat → Word) : (r.putV i f).exited = r.exited := rfl
@[simp] theorem WaveRegs.putV_stack (r : WaveRegs) (i : Nat) (f : Nat → Word) : (r.putV i f).stack = r.stack := rfl
@[simp] theorem WaveRegs.putV_lc (r : WaveRegs) (i : Nat) (f : Nat → Word) : (r.putV i f).lc = r.lc := rfl
@[simp] theorem WaveRegs.putV_wbase (r : WaveRegs) (i : Nat) (f : Nat → Word) : (r.putV i f).wbase = r.wbase := rfl
@[simp] theorem WaveRegs.putV_sregs (r : WaveRegs) (i : Nat) (f : Nat → Word) : (r.putV i f).sregs = r.sregs := rfl
@[simp] theorem WaveRegs.putV_fpc (r : WaveRegs) (i : Nat) (f : Nat → Word) : (r.putV i f).fpc = r.fpc := rfl
@[simp] theorem WaveRegs.putV_ctxs (r : WaveRegs) (i : Nat) (f : Nat → Word) : (r.putV i f).ctxs = r.ctxs := rfl
@[simp] theorem WaveRegs.putV_tiles (r : WaveRegs) (i : Nat) (f : Nat → Word) : (r.putV i f).tiles = r.tiles := rfl
@[simp] theorem WaveRegs.putV_priv (r : WaveRegs) (i : Nat) (f : Nat → Word) : (r.putV i f).priv = r.priv := rfl
@[simp] theorem WaveRegs.putV_tcode (r : WaveRegs) (i : Nat) (f : Nat → Word) : (r.putV i f).tcode = r.tcode := rfl
@[simp] theorem WaveRegs.putV_tpc (r : WaveRegs) (i : Nat) (f : Nat → Word) : (r.putV i f).tpc = r.tpc := rfl
@[simp] theorem WaveRegs.putV_tem (r : WaveRegs) (i : Nat) (f : Nat → Word) : (r.putV i f).tem = r.tem := rfl
@[simp] theorem WaveRegs.putV_tinfo (r : WaveRegs) (i : Nat) (f : Nat → Word) : (r.putV i f).tinfo = r.tinfo := rfl
@[simp] theorem WaveRegs.putV_trapen (r : WaveRegs) (i : Nat) (f : Nat → Word) : (r.putV i f).trapen = r.trapen := rfl
@[simp] theorem WaveRegs.putV_wdctl (r : WaveRegs) (i : Nat) (f : Nat → Word) : (r.putV i f).wdctl = r.wdctl := rfl
@[simp] theorem WaveRegs.putV_progcnt (r : WaveRegs) (i : Nat) (f : Nat → Word) : (r.putV i f).progcnt = r.progcnt := rfl
@[simp] theorem WaveRegs.putV_retired (r : WaveRegs) (i : Nat) (f : Nat → Word) : (r.putV i f).retired = r.retired := rfl
@[simp] theorem WaveRegs.putV_region (r : WaveRegs) (i : Nat) (f : Nat → Word) : (r.putV i f).region = r.region := rfl
@[simp] theorem WaveRegs.putV_spois (r : WaveRegs) (i : Nat) (f : Nat → Word) : (r.putV i f).spois = r.spois := rfl
@[simp] theorem WaveRegs.putV_vkey (r : WaveRegs) (i : Nat) (f : Nat → Word) (j : Nat) : (r.putV i f).vkey j = r.vkey j := rfl
@[simp] theorem WaveRegs.putV_skey (r : WaveRegs) (i : Nat) (f : Nat → Word) (j : Nat) : (r.putV i f).skey j = r.skey j := rfl

@[simp] theorem WaveRegs.putV2_pc (r : WaveRegs) (i : Nat) (f : Nat → DWord) : (r.putV2 i f).pc = r.pc := rfl
@[simp] theorem WaveRegs.putV2_em (r : WaveRegs) (i : Nat) (f : Nat → DWord) : (r.putV2 i f).em = r.em := rfl
@[simp] theorem WaveRegs.putV2_exited (r : WaveRegs) (i : Nat) (f : Nat → DWord) : (r.putV2 i f).exited = r.exited := rfl
@[simp] theorem WaveRegs.putV2_stack (r : WaveRegs) (i : Nat) (f : Nat → DWord) : (r.putV2 i f).stack = r.stack := rfl
@[simp] theorem WaveRegs.putV2_lc (r : WaveRegs) (i : Nat) (f : Nat → DWord) : (r.putV2 i f).lc = r.lc := rfl
@[simp] theorem WaveRegs.putV2_wbase (r : WaveRegs) (i : Nat) (f : Nat → DWord) : (r.putV2 i f).wbase = r.wbase := rfl
@[simp] theorem WaveRegs.putV2_sregs (r : WaveRegs) (i : Nat) (f : Nat → DWord) : (r.putV2 i f).sregs = r.sregs := rfl
@[simp] theorem WaveRegs.putV2_fpc (r : WaveRegs) (i : Nat) (f : Nat → DWord) : (r.putV2 i f).fpc = r.fpc := rfl
@[simp] theorem WaveRegs.putV2_ctxs (r : WaveRegs) (i : Nat) (f : Nat → DWord) : (r.putV2 i f).ctxs = r.ctxs := rfl
@[simp] theorem WaveRegs.putV2_tiles (r : WaveRegs) (i : Nat) (f : Nat → DWord) : (r.putV2 i f).tiles = r.tiles := rfl
@[simp] theorem WaveRegs.putV2_priv (r : WaveRegs) (i : Nat) (f : Nat → DWord) : (r.putV2 i f).priv = r.priv := rfl
@[simp] theorem WaveRegs.putV2_tcode (r : WaveRegs) (i : Nat) (f : Nat → DWord) : (r.putV2 i f).tcode = r.tcode := rfl
@[simp] theorem WaveRegs.putV2_tpc (r : WaveRegs) (i : Nat) (f : Nat → DWord) : (r.putV2 i f).tpc = r.tpc := rfl
@[simp] theorem WaveRegs.putV2_tem (r : WaveRegs) (i : Nat) (f : Nat → DWord) : (r.putV2 i f).tem = r.tem := rfl
@[simp] theorem WaveRegs.putV2_tinfo (r : WaveRegs) (i : Nat) (f : Nat → DWord) : (r.putV2 i f).tinfo = r.tinfo := rfl
@[simp] theorem WaveRegs.putV2_trapen (r : WaveRegs) (i : Nat) (f : Nat → DWord) : (r.putV2 i f).trapen = r.trapen := rfl
@[simp] theorem WaveRegs.putV2_wdctl (r : WaveRegs) (i : Nat) (f : Nat → DWord) : (r.putV2 i f).wdctl = r.wdctl := rfl
@[simp] theorem WaveRegs.putV2_progcnt (r : WaveRegs) (i : Nat) (f : Nat → DWord) : (r.putV2 i f).progcnt = r.progcnt := rfl
@[simp] theorem WaveRegs.putV2_retired (r : WaveRegs) (i : Nat) (f : Nat → DWord) : (r.putV2 i f).retired = r.retired := rfl
@[simp] theorem WaveRegs.putV2_region (r : WaveRegs) (i : Nat) (f : Nat → DWord) : (r.putV2 i f).region = r.region := rfl
@[simp] theorem WaveRegs.putV2_spois (r : WaveRegs) (i : Nat) (f : Nat → DWord) : (r.putV2 i f).spois = r.spois := rfl
@[simp] theorem WaveRegs.putV2_vkey (r : WaveRegs) (i : Nat) (f : Nat → DWord) (j : Nat) : (r.putV2 i f).vkey j = r.vkey j := rfl
@[simp] theorem WaveRegs.putV2_skey (r : WaveRegs) (i : Nat) (f : Nat → DWord) (j : Nat) : (r.putV2 i f).skey j = r.skey j := rfl

@[simp] theorem WaveRegs.putS_s (r : WaveRegs) (i : Nat) (x : Word) : (r.putS i x).s i = x := by
  simp [WaveRegs.s, WaveRegs.putS, WaveRegs.skey]

theorem WaveRegs.putS_sregs_ne (r : WaveRegs) (i k : Nat) (x : Word) (h : k ≠ r.skey i) :
    tget (r.putS i x).sregs k 0 = tget r.sregs k 0 := by simp [WaveRegs.putS, tget_tset_ne _ _ _ h]

theorem WaveRegs.putS_spois_ne (r : WaveRegs) (i k : Nat) (x : Word) (h : k ≠ r.skey i) :
    tfind? (r.putS i x).spois k = tfind? r.spois k := by simp [WaveRegs.putS, tfind?_terase_ne _ h]

theorem WaveRegs.setV_lane (r : WaveRegs) (i : Nat) (m : Mask) (f : Nat → Word) {l : Nat} (h : l < 64) :
    lane ((r.setV i m f).v i) l = if bitOf m l then f l else lane (r.v i) l := by
  simp [WaveRegs.v, WaveRegs.setV, WaveRegs.vkey, h]

theorem WaveRegs.setV_vregs_ne (r : WaveRegs) (i k : Nat) (m : Mask) (f : Nat → Word) (h : k ≠ r.vkey i) :
    tget (r.setV i m f).vregs k [] = tget r.vregs k [] := by simp [WaveRegs.setV, tget_tset_ne _ _ _ h]

theorem WaveRegs.setV_vregs_inactive (r : WaveRegs) (i : Nat) (m : Mask) (f : Nat → Word) {l : Nat} (h : l < 64)
    (hm : bitOf m l = false) : lane (tget (r.setV i m f).vregs (r.vkey i) []) l = lane (tget r.vregs (r.vkey i) []) l := by
  simp [WaveRegs.setV, h, hm]

theorem WaveRegs.setV_vpois (r : WaveRegs) (i k : Nat) (m : Mask) (f : Nat → Word) :
    tfind? (r.setV i m f).vpois k =
      if k / 64 = r.vkey i ∧ bitOf m (k % 64) = true then none else tfind? r.vpois k := by
  have h := tfind?_filter r.vpois (fun n => !(decide (n / 64 = r.vkey i) && bitOf m (n % 64))) k
  simp only [WaveRegs.setV]
  rw [h]
  by_cases h1 : k / 64 = r.vkey i <;> by_cases h2 : bitOf m (k % 64) = true <;> simp [h1, h2]

end Sys2Proof.Machine
end

