-- ==== Sys2Proof/Laws/Ops.lean ====
section
/-! SUPPORT. What the shared operations do, each said once: an instruction whose operands are clear runs its own
effect and retires; one whose declaration faults traps; the stall; trap entry. -/

namespace Sys2Proof.Machine

theorem opnds_none {β : Type} (f : Opnd → Option β) (ops : List Opnd) (h : ∀ o ∈ ops, f o = none) :
    ops.findSome? f = none := by
  simpa [List.findSome?_eq_none_iff] using h

theorem poisonOf_none (r : WaveRegs) (ops : List Opnd) (h : ∀ o ∈ ops, o.poison r = none) : poisonOf r ops = none := by
  have : ops.filterMap (Opnd.poison r) = [] := by simpa [List.filterMap_eq_nil_iff] using h
  rw [poisonOf, this]; rfl

/-- Operands that are there and not poisoned keep nothing waiting. -/
theorem Wave.awaits_none (w : Wave) (ops : List Opnd) (h : ∀ o ∈ ops, o.busy w = false ∧ o.poison w.regs = none) :
    w.awaits ops = none := by
  have hy : ops.any (Opnd.busy w) = false := by simpa using fun o ho => (h o ho).1
  simp [Wave.awaits, hy, Wave.reads, poisonOf_none w.regs ops fun o ho => (h o ho).2]

/-- What a clear instruction reads is not poisoned. -/
theorem Clear.poison {s : State} {p : Plan} (h : Clear s p) : poisonOf s.regs p.ops = none :=
  poisonOf_none s.regs p.ops fun o ho => (h.ops o ho).2.2

theorem Clear.hold? {s : State} {p : Plan} (h : Clear s p) (word : Word) : p.hold? s.wave word = none := by
  have hb := opnds_none (Opnd.bad s.wave) p.ops fun o ho => (h.ops o ho).1
  have hf : p.fault? s.wave word = none := by
    unfold Plan.fault?
    have : (p.priv && !s.wave.regs.priv) = false := by
      cases hpv : p.priv with
      | false => rfl
      | true => have := h.priv hpv; simp only [State.regs] at this; simp [this]
    simp [this, hb]
  simp [Plan.hold?, hf, s.wave.awaits_none p.keys h.keys, h.own,
    s.wave.awaits_none p.ops fun o ho => (h.ops o ho).2]

/-- A clear instruction is not kept from issuing. -/
theorem Clear.block? {s : State} {p : Plan} (h : Clear s p) (word : Word) : p.block? s.wave word = none := by
  unfold Plan.block?
  have : (s.wave.spec.bind fun sp => (p.stop? sp).map fun c => (c, sp.slot)) = none := by
    cases hsp : s.wave.spec with
    | none => rfl
    | some sp =>
      obtain ⟨h1, h2, h3, h4⟩ := h.spec sp hsp
      simp [Plan.stop?, h1, h2, Nat.not_le.mpr h3, Nat.not_lt.mpr h4]
  simp [this, h.hold?]

/-- A clear instruction ends as its own effect says. -/
theorem State.run_clear {s : State} {p : Plan} (h : Clear s p) (body : Res) : s.run p body = s.settle p.writes body := by
  simp [State.run, State.blocked, h.block?, h.poison, State.poisonOr]

@[simp] theorem Wave.watched_regs (w : Wave) : w.watched.regs = w.regs := by
  unfold Wave.watched
  split
  · split
    · split <;> rfl
    · rfl
  · rfl

@[simp] theorem Wave.watched_halted (w : Wave) : w.watched.halted = w.halted := by
  unfold Wave.watched
  split
  · split
    · split <;> rfl
    · rfl
  · rfl

@[simp] theorem Wave.watched_steps (w : Wave) : w.watched.steps = w.steps := by
  unfold Wave.watched
  split
  · split
    · split <;> rfl
    · rfl
  · rfl

@[simp] theorem Wave.advance_regs (w : Wave) (r0 : WaveRegs) (cycle writes : Nat) (pc : Pc) :
    (w.advance r0 cycle writes pc).regs =
      { w.regs with pc := pc, retired := w.regs.retired + 1, progcnt := progress r0 w.regs w.live } := by
  unfold Wave.advance Wave.stepped
  split <;> [rfl; split <;> rfl]

/-- Going on changes the registers, the issue bookkeeping and nothing else of a wave. -/
theorem Wave.advance_eq (w : Wave) (r0 : WaveRegs) (cycle writes : Nat) (pc : Pc) :
    w.advance r0 cycle writes pc = { w with
      regs := (w.advance r0 cycle writes pc).regs, spec := w.spec.map fun sp => sp.count writes, stall := 0
      stallObj := 0, since := cycle, accept := [], ask := none, aged := if r0.priv then w.aged else none
      halted := (w.advance r0 cycle writes pc).halted
      steps := (w.advance r0 cycle writes pc).steps } := by
  unfold Wave.advance Wave.stepped
  split <;> [rfl; split <;> rfl]

@[simp] theorem Wave.retire_regs (w : Wave) (r0 : WaveRegs) (cycle writes : Nat) (pc : Pc) :
    (w.retire r0 cycle writes pc).regs =
      { w.regs with pc := pc, retired := w.regs.retired + 1, progcnt := progress r0 w.regs w.live } := by
  rw [Wave.retire, Wave.watched_regs, Wave.advance_regs]

/-- Retirement changes the registers, the issue bookkeeping and nothing else of a wave, but for its watchdog. -/
theorem Wave.retire_eq (w : Wave) (r0 : WaveRegs) (cycle writes : Nat) (pc : Pc) :
    w.retire r0 cycle writes pc = Wave.watched { w with
      regs := (w.retire r0 cycle writes pc).regs, spec := w.spec.map fun sp => sp.count writes, stall := 0
      stallObj := 0, since := cycle, accept := [], ask := none, aged := if r0.priv then w.aged else none
      halted := (w.retire r0 cycle writes pc).halted
      steps := (w.retire r0 cycle writes pc).steps } := by
  simp only [Wave.retire, Wave.watched_regs, Wave.watched_halted, Wave.watched_steps]
  rw [← Wave.advance_eq]

/-- The state after a change of the acting wave's registers and its retirement. -/
theorem State.issued_retire (s : State) (r : WaveRegs) (writes : Nat) (pc : Pc) :
    Issued s ((s.setRegs r).retire s.regs writes pc) writes ∧
    ((s.setRegs r).retire s.regs writes pc).regs =
      { r with pc := pc, retired := r.retired + 1, progcnt := progress s.regs r { s.wave with regs := r }.live } := by
  refine ⟨⟨?_, ?_⟩, ?_⟩
  · simp [OnlyWave, State.retire, State.setRegs]
  · simp only [State.retire, State.setRegs, State.setWave_wave, State.setWave_regs]
    exact Wave.retire_eq _ _ _ _ _
  · simp [State.retire, State.setRegs]

/-- An instruction that changes the acting wave's registers alone completes with them. -/
theorem State.runRegs_completes {s : State} {p : Plan} (h : Clear s p) (f : WaveRegs → WaveRegs) :
    ∃ t, s.runRegs p f = .next t ∧ Issued s t p.writes ∧
      t.regs = { f s.regs with
        pc := nextPc s.regs.pc, retired := (f s.regs).retired + 1
        progcnt := progress s.regs (f s.regs) { s.wave with regs := f s.regs }.live } :=
  ⟨(s.setRegs (f s.regs)).retire s.regs p.writes (nextPc s.regs.pc), by
    rw [State.runRegs, State.run_clear h]; rfl, (s.issued_retire _ _ _).1, (s.issued_retire _ _ _).2⟩

/-- A jump with new registers completes at its target. -/
theorem State.run_jump {s : State} {p : Plan} (h : Clear s p) (r : WaveRegs) (pc : Pc) :
    ∃ t, s.run p (.jump (s.setRegs r) pc) = .next t ∧ Issued s t p.writes ∧
      t.regs = { r with
        pc := pc, retired := r.retired + 1, progcnt := progress s.regs r { s.wave with regs := r }.live } :=
  ⟨(s.setRegs r).retire s.regs p.writes pc, by rw [State.run_clear h]; rfl, (s.issued_retire _ _ _).1,
    (s.issued_retire _ _ _).2⟩

/-- A declaration with a fault of R49 traps before anything else, outside speculation. -/
theorem State.run_fault {s : State} {p : Plan} {t : TrapRec} (hs : s.wave.spec = none)
    (h : p.fault? s.wave s.fetchWord = some t) (body : Res) : s.run p body = .next (s.takeTrap t) := by
  simp [State.run, State.blocked, Plan.block?, hs, Plan.hold?, h, State.settle]

/-- Outside speculation and privileged mode a trap enters the handler (R372). -/
theorem State.takeTrap_user {s : State} (t : TrapRec) (hs : s.wave.spec = none) (hp : s.wave.regs.priv = false) :
    s.takeTrap t = s.enterTrap t false := by
  simp [State.takeTrap, hs, hp]

end Sys2Proof.Machine
end

