-- ==== Sys2Proof/Laws/Results.lean ====
section
/-! SUPPORT. That the writes of registers give the results of Safety.lean with their frames, and that an instruction
that changes registers alone completes with them. -/

namespace Sys2Proof.Machine

/-- An instruction that changes the acting wave's registers alone completes, with what holds of the new registers
whatever the pc and the counts. -/
theorem completes_runRegs {s : State} {p : Plan} {i : Instr} {f : WaveRegs → WaveRegs} {post : WaveRegs → Prop}
    (h : Clear s p) (he : exec i s = s.runRegs p f) (hr : (f s.regs).retired = s.regs.retired)
    (hp : ∀ pc n c, post { f s.regs with pc := pc, retired := n, progcnt := c }) :
    Completes i s p.writes (nextPc s.regs.pc) post := by
  obtain ⟨t, h1, h2, h3⟩ := State.runRegs_completes h f
  exact ⟨t, he ▸ h1, h2, by rw [h3], by rw [h3, ← hr], by rw [h3]; exact hp _ _ _⟩

/-- An instruction that jumps with new registers completes at its target. -/
theorem completes_jump {s : State} {p : Plan} {i : Instr} {r : WaveRegs} {pc : Pc} {post : WaveRegs → Prop}
    (h : Clear s p) (he : exec i s = s.run p (.jump (s.setRegs r) pc)) (hr : r.retired = s.regs.retired)
    (hp : ∀ pc n c, post { r with pc := pc, retired := n, progcnt := c }) : Completes i s p.writes pc post := by
  obtain ⟨t, h1, h2, h3⟩ := State.run_jump h r pc
  exact ⟨t, he ▸ h1, h2, by rw [h3], by rw [h3, ← hr], by rw [h3]; exact hp _ _ _⟩

theorem skey_succ_ne (r : WaveRegs) (i : Nat) : r.skey (i + 1) ≠ r.skey i := by
  unfold WaveRegs.skey
  split <;> split <;> simp_all <;> omega

theorem vkey_succ_ne (r : WaveRegs) (i : Nat) : r.vkey (i + 1) ≠ r.vkey i := by
  unfold WaveRegs.vkey
  split <;> split <;> simp_all <;> omega

theorem sameSystem_counts (r : WaveRegs) (pc : Pc) (n : DWord) (c : Nat) :
    SameSystem r { r with pc := pc, retired := n, progcnt := c } := rfl

/-- A write of a scalar register gives its value and the frame. -/
theorem givesS_putS (r : WaveRegs) (d : Nat) (x : Word) (pc : Pc) (n : DWord) (c : Nat) :
    GivesS r d x { r.putS d x with pc := pc, retired := n, progcnt := c } := by
  refine ⟨by simp [WaveRegs.s, WaveRegs.putS, WaveRegs.skey], rfl, ⟨rfl, rfl⟩, fun k hk => ?_⟩
  have hk := hk 0 (by omega)
  exact ⟨WaveRegs.putS_sregs_ne r d k x hk, WaveRegs.putS_spois_ne r d k x hk⟩

theorem pairOf_loWord_hiWord (x : DWord) : pairOf (loWord x) (hiWord x) = x := by
  unfold pairOf loWord hiWord
  ext i hi
  simp only [BitVec.getElem_append, BitVec.getElem_setWidth, BitVec.getLsbD_ushiftRight]
  split
  · simp [BitVec.getLsbD_eq_getElem hi]
  · rename_i h
    have h2 : 32 + (i - 32) = i := by omega
    rw [h2, BitVec.getLsbD_eq_getElem hi]

/-- A write of a scalar pair gives its value and the frame. -/
theorem givesS2_putS2 (r : WaveRegs) (d : Nat) (x : DWord) (pc : Pc) (n : DWord) (c : Nat) :
    GivesS2 r d x { r.putS2 d x with pc := pc, retired := n, progcnt := c } := by
  refine ⟨?_, rfl, ⟨rfl, rfl⟩, fun k hk => ?_⟩
  · have h1 : tget (r.putS2 d x).sregs (r.skey d) 0 = loWord x := by
      simp only [WaveRegs.putS2, WaveRegs.putS]
      rw [tget_tset_ne]
      · simp
      · exact (skey_succ_ne r d).symm
    have h2 : tget (r.putS2 d x).sregs (r.skey (d + 1)) 0 = hiWord x := by
      simp only [WaveRegs.putS2, WaveRegs.putS]
      exact tget_tset_same _ _ _ _
    exact (congrArg₂ pairOf h1 h2).trans (pairOf_loWord_hiWord x)
  · have h0 := hk 0 (by omega)
    have h1 := hk 1 (by omega)
    refine ⟨?_, ?_⟩
    · exact (WaveRegs.putS_sregs_ne (r.putS d (loWord x)) (d + 1) k (hiWord x) h1).trans
        (WaveRegs.putS_sregs_ne r d k _ h0)
    · exact (WaveRegs.putS_spois_ne (r.putS d (loWord x)) (d + 1) k (hiWord x) h1).trans
        (WaveRegs.putS_spois_ne r d k _ h0)

theorem mul64_div {k l : Nat} (h : l < 64) : (k * 64 + l) / 64 = k ∧ (k * 64 + l) % 64 = l := by omega

/-- A write of a vector register leaves every other lane and register. -/
theorem setV_frame (r : WaveRegs) (d k l : Nat) (m : Mask) (f : Nat → Word) (hl : l < 64)
    (h : k ≠ r.vkey d ∨ bitOf m l = false) :
    lane (tget (r.setV d m f).vregs k []) l = lane (tget r.vregs k []) l ∧
      tfind? (r.setV d m f).vpois (k * 64 + l) = tfind? r.vpois (k * 64 + l) := by
  obtain ⟨hd, hm⟩ := mul64_div (k := k) hl
  rw [WaveRegs.setV_vpois, hd, hm]
  rcases h with h | h
  · exact ⟨by rw [WaveRegs.setV_vregs_ne _ _ _ _ _ h], by simp [h]⟩
  · refine ⟨?_, by simp [h]⟩
    by_cases hk : k = r.vkey d
    · rw [hk, WaveRegs.setV_vregs_inactive _ _ _ _ hl h]
    · rw [WaveRegs.setV_vregs_ne _ _ _ _ _ hk]

/-- A write of a vector register in a mask's lanes gives its values and the frame. -/
theorem givesV_setV (r : WaveRegs) (d : Nat) (m : Mask) (f : Nat → Word) (pc : Pc) (n : DWord) (c : Nat) :
    GivesV r d m f { r.setV d m f with pc := pc, retired := n, progcnt := c } := by
  refine ⟨fun l hl hm => ?_, fun k l hl h => ?_, ⟨rfl, rfl⟩, rfl⟩
  · exact (WaveRegs.setV_lane r d m f hl).trans (by simp [hm])
  · exact setV_frame r d k l m f hl (h.imp (fun h => h 0 (by omega)) id)

/-- A write of a vector pair in the active lanes gives its values and the frame. -/
theorem givesV2_putV2 (r : WaveRegs) (d : Nat) (f : Nat → DWord) (pc : Pc) (n : DWord) (c : Nat) :
    GivesV2 r d f { r.putV2 d f with pc := pc, retired := n, progcnt := c } := by
  refine ⟨fun l hl hm => ?_, fun k l hl h => ?_, ⟨rfl, rfl⟩, rfl⟩
  · have h1 : lane (tget (r.putV2 d f).vregs (r.vkey d) []) l = loWord (f l) := by
      have := (setV_frame (r.putV d fun l => loWord (f l)) (d + 1) (r.vkey d) l r.em (fun l => hiWord (f l)) hl
        (.inl (vkey_succ_ne r d).symm)).1
      refine this.trans ?_
      exact (WaveRegs.setV_lane r d r.em (fun l => loWord (f l)) hl).trans (by simp [hm])
    have h2 : lane (tget (r.putV2 d f).vregs (r.vkey (d + 1)) []) l = hiWord (f l) :=
      (WaveRegs.setV_lane (r.putV d fun l => loWord (f l)) (d + 1) r.em (fun l => hiWord (f l)) hl).trans
        (by simp [hm])
    exact (congrArg₂ pairOf h1 h2).trans (pairOf_loWord_hiWord _)
  · have h1 : k ≠ r.vkey (d + 1) ∨ bitOf r.em l = false := h.imp (fun h => h 1 (by omega)) id
    have h0 : k ≠ r.vkey d ∨ bitOf r.em l = false := h.imp (fun h => h 0 (by omega)) id
    have a1 := setV_frame (r.putV d fun l => loWord (f l)) (d + 1) k l r.em (fun l => hiWord (f l)) hl h1
    have a0 := setV_frame r d k l r.em (fun l => loWord (f l)) hl h0
    exact ⟨a1.1.trans a0.1, a1.2.trans a0.2⟩

end Sys2Proof.Machine
end

