-- ==== Sys2Proof/Laws/Step.lean ====
section
/-! SUPPORT. What a try of waves at issue comes to, and that writes of a tier keep every memory's
canonical form. -/

namespace Sys2Proof.Machine

/-! ### Issue -/

theorem State.tryIssue_nil (s : State) : State.tryIssue [] s = .next s.tick := rfl

/-- A wave that can no longer act is passed over. -/
theorem State.tryIssue_skip {s : State} {k : Nat} (ks : List Nat) (h : (tfind? s.waves k).filter s.runnable = none) :
    State.tryIssue (k :: ks) s = State.tryIssue ks s := by
  rw [State.tryIssue, h]

/-- A wave that waits and has not issued leaves the turn to the next. -/
theorem State.tryIssue_wait {s t : State} {k : Nat} {w : Wave} (ks : List Nat)
    (h : (tfind? s.waves k).filter s.runnable = some w) (he : exec (s.action k w) { s with cur := k } = .next t)
    (hw : (t.waveAt k).waits = true) (hi : w.issued (s.action k w) (t.waveAt k) = false) :
    State.tryIssue (k :: ks) s = State.tryIssue ks t := by
  simp only [State.tryIssue, h, he, hw, hi, Bool.not_false, Bool.and_self, if_true]

/-- A wave that does not wait, or has issued, ends the clock. -/
theorem State.tryIssue_acts {s t : State} {k : Nat} {w : Wave} (ks : List Nat)
    (h : (tfind? s.waves k).filter s.runnable = some w) (he : exec (s.action k w) { s with cur := k } = .next t)
    (hw : (t.waveAt k).waits = false ∨ w.issued (s.action k w) (t.waveAt k) = true) :
    State.tryIssue (k :: ks) s = .next (t.actedBy s k w (s.action k w)).tick := by
  have : ((t.waveAt k).waits && !w.issued (s.action k w) (t.waveAt k)) = false := by
    rcases hw with hw | hw <;> simp [hw]
  simp only [State.tryIssue, h, he, this, Bool.false_eq_true, if_false]

/-! ### Writes -/

theorem State.memWf_writeTier {s : State} (tier a : Nat) (bs : List Byte) (h : s.MemWf) : (s.writeTier tier a bs).MemWf := by
  obtain ⟨h1, h2, h3, h4, h5⟩ := h
  unfold State.writeTier
  split
  · exact ⟨Memory.wf_writeList _ _ _ h1, h2, h3, h4, h5⟩
  · exact ⟨h1, Memory.wf_writeList _ _ _ h2, h3, h4, h5⟩
  · refine ⟨h1, h2, Memory.wf_writeList _ _ _ h3, fun m hm => ?_, h5⟩
    obtain ⟨m', hm', rfl⟩ := Option.map_eq_some_iff.mp hm
    exact Memory.wf_writeList _ _ _ (h4 _ hm')

theorem State.memWf_writeCells {s : State} (cells : List (Nat × Nat × Byte)) (h : s.MemWf) : (s.writeCells cells).MemWf := by
  suffices H : ∀ (cs : List (Nat × Nat × Byte)) (t : State), t.MemWf →
      (cs.foldl (fun s c => s.writeTier c.1 c.2.1 [c.2.2]) t).MemWf from H cells s h
  intro cs
  induction cs with
  | nil => exact fun _ h => h
  | cons c cs ih => exact fun t h => ih _ (State.memWf_writeTier _ _ _ h)

end Sys2Proof.Machine
end

