-- ==== Sys2Proof/Tests/Slice0.lean ====
section
/-! SUPPORT. Tests: words of the spec that decode to the instructions it says they are, ill-formed terms that the
checks refuse, single steps with results from the spec's worked examples, and for each statement a state and operands
that meet its hypotheses. -/

namespace Sys2Proof.Machine

set_option Elab.async false

/-! ### Words, from the tables and listings of spec/ named beside each theorem -/

/-- spec/16_contexts.md R384. -/
theorem test_words_sys :
    decode 0 = some .nop ∧ decode 0x00200005 = some (.trap 5) ∧ decode 0x00400002 = some .tretKill ∧
    decode 0x00400000 = some .tret ∧ decode 0x00620203 = some (.sys 8 4 3) ∧ decode 0x00814000 = some (.rdsys 5 0) ∧
    decode 0x00A00395 = some (.wrsys 7 21) ∧ decode 0x00C00083 = some (.ppoint 0x83) ∧
    decode 0x00E00000 = some (.brkpt 0) ∧ decode 0x01000009 = some (.wbase 9) ∧
    decode 0x01208280 = some (.ovload 2 5) ∧ decode 0x01450A80 = some (.ovcall 20 21) ∧
    decode 0x01600A00 = some (.ovret 20) ∧ decode 0x01828000 = some (.rdcyc 10) := by decide +kernel

/-- spec/12_control.md R294. -/
theorem test_words_sctl :
    decode 0x08000002 = some (.br 2) ∧ decode 0x0883FFFC = some (.bz 3 0xFFFC) ∧ decode 0x0907FFFD = some (.bnz 7 0xFFFD) ∧
    decode 0x09820001 = some (.blt 2 1) ∧ decode 0x0A020001 = some (.bge 2 1) ∧ decode 0x0A940040 = some (.call 20 64) ∧
    decode 0x0B140000 = some (.ret 20) ∧ decode 0x0B860002 = some (.jr 6 2) ∧ decode 0x0C000005 = some (.bem0 5) ∧
    decode 0x0C8C0002 = some (.bemx 12 2) ∧ decode 0x0D000000 = some .exit := by decide +kernel

/-- spec/12_control.md R297. -/
theorem test_words_mask :
    decode 0x100A0006 = some (.maskIf 10 6) ∧ decode 0x10800003 = some (.maskElse 3) ∧ decode 0x11000000 = some .maskEndif ∧
    decode 0x11800007 = some (.maskLoop 7) ∧ decode 0x1200FFFB = some (.endl 0xFFFB) ∧
    decode 0x12810003 = some (.brk 1 3) ∧ decode 0x13000002 = some (.cont 0 2) ∧ decode 0x138A0000 = some (.mpush 10) ∧
    decode 0x14000000 = some .mpop := by decide +kernel

/-- spec/04_integer.md R112, R113, R115 and spec/07_prog_gemm.md. -/
theorem test_words_scalar :
    decode 0x1B204103 = some (.sbfx 1 2 3) ∧ decode 0x1823050D = some (.ssub 12 10 13) ∧
    decode 0x22091207 = some (.sshli 9 9 7) ∧ decode 0x200E1DFF = some (.saddi 14 14 0x1FF) ∧
    decode 0x2806FFF6 = some (.sli 6 0xFFF6) ∧ decode 0x2886FFFF = some (.slih 6 0xFFFF) := by decide +kernel

/-- spec/04_integer.md R117, R120 and spec/21_prog_histogram.md. -/
theorem test_words_vector :
    decode 0x37A10286 = some (.vmad .b16 4 5 6) ∧ decode 0x404040FF = some (.vaddi .b32 1 1 127) ∧
    decode 0x4340819F = some (.vsrai .b32 2 3 31) ∧ decode 0x42404002 = some (.vshli .b32 1 0 2) ∧
    decode 0x40C14207 = some (.vandi .b32 5 4 7) ∧ decode 0x3840C089 = some (.vaddScalar .b32 3 1 9) := by decide +kernel

/-- spec/04_integer.md R122, R126, R134 to R138 and spec/11_prog_radix.md. -/
theorem test_words_lanes :
    decode 0x72C28082 = some (.vcmp .lt .f32 10 1 2) ∧ decode 0x71C7050F = some (.vcmp .ne .f32 28 10 15) ∧
    decode 0x79018280 = some (.vmatchB32 6 5) ∧ decode 0x79020481 = some (.vmatchF32 8 9) ∧
    decode 0x7822840D = some (.vperm 10 8 13) ∧ decode 0x7C00C214 = some (.vscanAddI32 3 4 20) ∧
    decode 0x7C60C214 = some (.vscanxAddF32 3 4 20) ∧ decode 0x7E00C214 = some (.vredAddI32 3 4 20) ∧
    decode 0x7FC0C214 = some (.vredOr 3 4 20) ∧ decode 0x80610080 = some (.vread 4 1 0) ∧
    decode 0x80828A89 = some (.vwrite 10 21 9) ∧ decode 0x81400000 = some (.vlaneid 0) ∧
    decode 0x80418500 = some (.vmovs 6 10) ∧ decode 0x81808600 = some (.smovx 2 12) ∧
    decode 0x80C00D00 = some (.emset 26) := by decide +kernel

/-- spec/05_float.md R142, R153, R156, R160; 0x55800000 is no instruction (R143). -/
theorem test_words_float :
    decode 0x48404103 = some (.fadd .f32 1 2 3) ∧ decode 0x4A404103 = some (.fmin .f32 1 2 3) ∧
    decode 0x4DA14300 = some (.fsqrt .bf16 5 6) ∧ decode 0x54C04103 = some (.fscaleScalar .f32 1 2 3) ∧
    decode 0x58410286 = some (.ffma .f32 4 5 6) ∧ decode 0x68C1C400 = some (.frsq .f32 7 8) ∧
    decode 0x6A628600 = some (.fsin .f64 10 12) ∧ decode 0x55800000 = none := by decide +kernel

/-- spec/05_float.md R159 and spec/07_prog_gemm.md: conversions, at positions 0 to 3 and with saturation. -/
theorem test_words_convert :
    decode 0x6200C510 = some (.vcvt 16 3 10 .rne false 0) ∧
    decode 0x6200C693 = some (.vcvt 16 3 13 .rne false 3) ∧ decode 0x6200C61A = some (.vcvt 16 3 12 .rne true 2) := by
  decide +kernel

/-- spec/09_memory_instr.md R228, R233, R240, R243 and spec/18_prog_private.md. -/
theorem test_words_memory :
    decode 0x8B40C20A = some (.ldg .b16 true (.sync .pkg) 3 4 10) ∧ decode 0x9461838C = some (.stg .b32 (.sync .job) 6 7 12) ∧
    decode 0x8C008082 = some (.ldg .b32 false .plain 2 1 2) ∧ decode 0x94014706 = some (.stg .b32 .plain 5 14 6) ∧
    decode 0x98210286 = some (.atomAdd .w32 true 4 5 6) ∧ decode 0x98018286 = some (.atomAdd .w32 false 6 5 6) ∧
    decode 0xA121079B = some (.ldsTake .b32 4 15 27) ∧ decode 0xA141079B = some (.ldsTry .b32 4 15 27) ∧
    decode 0xA8404100 = some (.sts .b32 1 2 0) ∧ decode 0xAD000100 = some (.sfin 2 0) ∧
    decode 0xAE000080 = some (.sopen 1 0) ∧ decode 0xA8C20480 = some (.satomAdd .w32 8 9 0) ∧
    decode 0xB002450B = some (.pld 9 10 11) ∧ decode 0xB0204789 = some (.pst 1 15 9) := by decide +kernel

/-- spec/09_memory_instr.md R246, spec/10_copy_fabric.md R254, R276. -/
theorem test_words_sync_copy_remote :
    decode 0xB800C000 = some (.fenceRel .job) ∧ decode 0xB8408000 = some (.fenceSc .pkg) ∧
    decode 0xB8804184 = some (.bar 3 4) ∧ decode 0xB900C40A = some (.sigwait .job 8 10) ∧
    decode 0xC0000400 = some (.dcp 8) ∧ decode 0xC0410805 = some (.dcpg 4 16 5) ∧ decode 0xC0A0C780 = some (.dstat 3 15) ∧
    decode 0xC8008205 = some (.rld 2 4 5) ∧ decode 0xC8208206 = some (.rst 2 4 6) ∧ decode 0xC861840A = some (.rput 6 8 10) ∧
    decode 0xC8A00205 = some (.rflush 4 5) := by decide +kernel

/-- spec/06_matrix.md R179 to R182 and spec/07_prog_gemm.md. -/
theorem test_words_matrix :
    decode 0xD0C80800 = some (.mma .bf16 16 2 0 .rne false false) ∧ decode 0xD18C8400 = some (.mma .e4m3 25 1 0 .rne false false) ∧
    decode 0xD8010A86 = some (.bload false 4 21 .e4m3) ∧ decode 0xD8090A86 = some (.bload true 4 21 .e4m3) ∧
    decode 0xD8404000 = some (.mzero 1 .fp32) ∧ decode 0xD8E0408A = some (.vtom 1 1 10) ∧
    decode 0xD8C0C00A = some (.mtov 3 0 10) ∧ decode 0xD8658083 = some (.mst 22 false 1 .rne .bf16) ∧ decode 0xD8A78000 = some (.mstat 30 0) := by decide +kernel

/-- spec/13_collective.md R315, R324. -/
theorem test_words_collective :
    decode 0xE0030004 = some (.cbrAny false 0 3 4) ∧ decode 0xE389000C = some (.cbrAll true 2 9 12) ∧
    decode 0xE01C0003 = some (.cbrAny false 0 28 3) ∧ decode 0xE8000001 = some (.qbar 1) ∧
    decode 0xE8200382 = some (.cvote 7 2) ∧ decode 0xE8400003 = some (.qleave 3) ∧ decode 0xE8614000 = some (.qstat 5 0) ∧
    decode 0xE8800000 = some .tkwait ∧ decode 0xE8A00000 = some .tkpass := by decide +kernel

/-! ### Ill-formed terms, one for each check -/

theorem test_wf_refuses_fields :
    (Instr.trap 128).wf = false ∧ (Instr.ppoint 256).wf = false ∧ (Instr.wbase 64).wf = false ∧
    (Instr.sadd 128 0 0).wf = false ∧ (Instr.saddi 0 0 512).wf = false ∧ (Instr.sli 0 65536).wf = false ∧
    (Instr.vaddi .b32 0 0 128).wf = false ∧ (Instr.br 65536).wf = false ∧ (Instr.mzero 8 .fp32).wf = false ∧
    (Instr.bfree 32).wf = false ∧ (Instr.qbar 4).wf = false ∧ (Instr.cbrAny false 0 64 0).wf = false ∧
    (Instr.barWt 16).wf = false ∧ (Instr.wait 64 0 0 0).wf = false ∧ (Instr.wait 0 32 0 0).wf = false := by decide

theorem test_wf_refuses_words_of_R54 :
    (Instr.wrsys 0 25).wf = false ∧ (Instr.rdsys 0 80).wf = false ∧ (Instr.rdsys 0 104).wf = false ∧
    (Instr.ovload 0 1).wf = false ∧ (Instr.ovload 4 1).wf = false ∧ (Instr.brk 15 0).wf = false ∧
    (Instr.cont 15 0).wf = false ∧ (Instr.sshli 0 0 32).wf = false ∧ (Instr.vshli .b8 0 0 8).wf = false ∧
    (Instr.vsrai .b64 0 0 64).wf = false ∧ (Instr.vcvt 1 0 0 .rne true 0).wf = false ∧
    (Instr.vcvt 16 0 0 .rne false 4).wf = false ∧ (Instr.vcmp .uo .i32 0 0 0).wf = false ∧
    (Instr.smovx 0 32).wf = false ∧ (Instr.ldg .b32 true .plain 0 0 0).wf = false ∧ (Instr.fenceRel .wave).wf = false ∧
    (Instr.flushw .job 0 0).wf = false ∧ (Instr.mma .i8 0 0 0 .rtz false false).wf = false ∧
    (Instr.bload true 0 0 .b1).wf = false ∧ (Instr.mst 0 false 0 .rne .e3m4).wf = false := by decide

/-! ### A small state -/

/-- A block of one wave, and the wave. -/
def demoBlk : Nat := blockKey 1 0
def demoKey : Nat := waveKey demoBlk 0

/-- One active lane of four, registers of every kind, s128 to s159 with a scratchpad of 8,192 bytes, a limit of 64
words of private memory and a job of two; the watchdog off. -/
def demoRegs : WaveRegs :=
  let r : WaveRegs := { em := 1, wdctl := 0, ctxs := [(10, 2), (11, 0xFFFFFF00#32), (15, 8192), (16, 64)] }
  r

def demoWave : Wave :=
  let w : Wave := { launch := 1, blk := demoBlk, nregs := 64, ntiles := 8, nslots := 4, width := 4, privbase := 0x10000 }
  { w with regs := demoRegs }

def demoBlock : Block :=
  let b : Block := { launch := 1, st := .resident, cores := [0], nw := 1, ssize := 8192, entries := [0, 1] }
  { b with lines := (List.range 64).map fun i => (i, { st := if i = 0 then .full else .opened }) }

def demoLaunch : Launch :=
  let l : Launch := { ctx := 1, hs := 1, width := 4, blocks := 1, nplaced := 1, started := 1 }
  l

/-- Three page tables that map the first gigabyte to itself: what no core's TLB serves walks them. -/
def demoTables : List Host.Cell :=
  [(0x30000000, 1), (0x30000001, 0x10), (0x30000003, 0x30), (0x30001000, 1), (0x30001001, 0x20), (0x30001003, 0x30),
   (0x30002000, 7)]

def demoCtx : Ctx :=
  let c : Ctx := { ptbase := 0x30000000, jobSize := 2 }
  c

/-- Context 1 has the pages of 64 KiB at 0, for global memory, and at 0x10000, private memory, in core 0's TLB. -/
def demo : State :=
  let s : State := { State.reset with
    cur := demoKey, waves := [(demoKey, demoWave)], blocks := [(demoBlk, demoBlock)], launches := [(1, demoLaunch)]
    tlb := [{ ctx := 1, page := 0, shift := 16, leaf := 5 }, { ctx := 1, page := 1, shift := 16, leaf := 0x1000D }] }
  { s with ctxs := [(1, demoCtx)], hbm := demoTables }

/-- The small state with its wave's registers changed. -/
def demoR (f : WaveRegs → WaveRegs) : State := demo.updRegs f

/-- The small state with its wave changed. -/
def demoW (f : Wave → Wave) : State := demo.setWave (f demo.wave)

/-- The small state with its block changed. -/
def demoB (f : Block → Block) : State := demo.updBlock demoBlk f

/-- `Clear`, by evaluation. -/
def clearB (s : State) (p : Plan) : Bool :=
  (s.wave.spec.all fun sp => decide (sp.deferred = none) && p.spec && decide (sp.instrs < 48) &&
    decide (sp.writes + p.writes ≤ 32)) &&
  (!p.priv || s.regs.priv) &&
    (p.ops.all fun o => (o.bad s.wave).isNone && !o.busy s.wave && (o.poison s.regs).isNone) &&
    (p.keys.all fun o => !o.busy s.wave && (o.poison s.regs).isNone) && p.own.isNone

theorem clear_of {s : State} {p : Plan} (h : clearB s p = true) : Clear s p := by
  simp only [clearB, Bool.and_eq_true, decide_eq_true_eq, List.all_eq_true, Option.isNone_iff_eq_none,
    Bool.not_eq_true', Bool.or_eq_true, Option.all_eq_true] at h
  obtain ⟨⟨⟨⟨h1, h2⟩, h3⟩, h4⟩, h5⟩ := h
  refine ⟨fun sp hs => ?_, fun hp => ?_, fun o ho => ⟨(h3 o ho).1.1, (h3 o ho).1.2, (h3 o ho).2⟩, fun o ho => h4 o ho, h5⟩
  · obtain ⟨⟨⟨a, b⟩, c⟩, d⟩ := h1 sp hs
    exact ⟨a, b, c, d⟩
  · rcases h2 with h2 | h2
    · rw [h2] at hp
      cases hp
    · exact h2

/-- The result of an accepted access. -/
def okPlaces : Accept → Option (State × List Place)
  | .ok s ps => some (s, ps)
  | .fail _ _ _ _ | .wait _ | .nowhere _ _ => none

theorem accept_ok {x : Accept} {y : State × List Place} (h : okPlaces x = some y) : x = .ok y.1 y.2 := by
  cases x with
  | ok s ps => cases h; rfl
  | fail | wait | nowhere => cases h

/-- `Reached`, by evaluation. -/
def reachedB (s : State) (kind : Nat) (write priv : Bool) (rs : List Req) : Bool :=
  match okPlaces (s.accept (.wave s.cur) s.wave.core s.launch.ctx write priv rs) with
  | some y => (y.1.clash (.wave s.cur) s.launch.ctx kind y.2).isNone &&
      !y.1.contends (.wave s.cur) s.launch.ctx kind y.2 && decide (s.coreRequests s.wave.core + requests y.2 ≤ 2048)
  | none => false

theorem reached_of {s : State} {kind : Nat} {write priv : Bool} {rs : List Req}
    (h : reachedB s kind write priv rs = true) : ∃ s1 ps, Reached s kind write priv rs s1 ps := by
  unfold reachedB at h
  split at h
  · rename_i y hy
    simp only [Bool.and_eq_true, Option.isNone_iff_eq_none, decide_eq_true_eq, Bool.not_eq_true'] at h
    exact ⟨y.1, y.2, accept_ok hy, fun _ _ => h.1, h.2⟩
  · cases h

theorem unlogged_of {s : State} (h : s.rep.mode = 0) : Unlogged s :=
  ⟨by simp [h], fun h' => absurd (h.symm.trans h') (by decide)⟩

theorem mayLog {s : State} (h : s.rep.mode = 0 ∧ s.wave.homes = [] ∧ s.wave.ending = []) : MaySync s :=
  ⟨unlogged_of h.1, h.2⟩

/-! ### Witnesses: arithmetic and lanes -/

/-- Scalars 1 to 3, and the pairs 2, 4, 6. -/
theorem witness_ScalarArithmetic :
    Clear demo (planSSS 1 2 3) ∧ Clear demo (planSS 1 2) ∧ Clear demo { ops := [.s 1 1 false], writes := 1 } ∧
    Clear demo { ops := [.s 1 1 true], writes := 1 } ∧ 31 < 32 ∧ 0xFFFF < 2 ^ 16 := by
  refine ⟨clear_of ?_, clear_of ?_, clear_of ?_, clear_of ?_, ?_, ?_⟩ <;> decide +kernel

theorem witness_ScalarShiftsFieldsAndPairs :
    Clear demo (planSSS 1 2 3) ∧ Clear demo { ops := [.s 1 1 true, .s 2 1 true, .s 3 1 true], writes := 1 } ∧
    Clear demo { ops := [.s 2 2 false, .s 2 2 true, .s 126 2 true], writes := 2 } ∧
    Clear demo { ops := [.s 2 2 false, .s 4 2 true, .s 7 1 true], writes := 2 } ∧
    Clear demo { ops := [.s 2 2 false, .s 2 2 true], writes := 2 } := by
  refine ⟨clear_of ?_, clear_of ?_, clear_of ?_, clear_of ?_, clear_of ?_⟩ <;> decide +kernel

/-- Single vector registers and pairs, up to the wave's last. -/
theorem witness_VectorInteger :
    ∀ sz : ESize, Clear demo (planVVV (regsOf sz) 62 2 4) ∧ Clear demo (planVVS (regsOf sz) 62 2 4) := by
  intro sz
  refine ⟨clear_of ?_, clear_of ?_⟩ <;> cases sz <;> decide +kernel

theorem witness_VectorIntegerMultiplyAddAndImmediates :
    ∀ sz : ESize, Clear demo (planMad (.v 4 (regsOf sz) true) sz 62 2) ∧
      Clear demo (planMad (.s 4 (regsOf sz) true) sz 62 2) ∧ Clear demo (planVV (regsOf sz) 62 2) := by
  intro sz
  refine ⟨clear_of ?_, clear_of ?_, clear_of ?_⟩ <;> cases sz <;> decide +kernel

theorem witness_FloatElementwise :
    ∀ fm : EFmt, Clear demo (planVVV (fregs fm) 2 4 6).rounds ∧ Clear demo (planVVS (fregs fm) 2 4 6).rounds ∧
      Clear demo (planVV (fregs fm) 2 4).rounds ∧ Clear demo { ops := [.v 2 1 false, .v 4 (fregs fm) true], writes := 1 } ∧
      ∀ f, NoInvalid demo f := by
  intro fm
  refine ⟨clear_of ?_, clear_of ?_, clear_of ?_, clear_of ?_, fun f => .inl (by decide +kernel)⟩ <;> cases fm <;> decide +kernel

/-- In f32, with the trap on NV enabled, lane 0 adds infinities of opposite signs. -/
def demoNan : State := demoR fun r => { r with trapen := 1, vregs := [(4, [0x7F800000#32]), (6, [0xFF800000#32])] }

theorem witness_FloatFusedSpecialAndTrap :
    Clear demo { ops := [.v 2 1 true, .v 4 1 true, .v 6 1 true, .fpc], writes := 1 } ∧
    demoNan.wave.spec = none ∧ demoNan.regs.priv = false ∧ Clear demoNan (planVVV 1 2 4 6).rounds ∧
    demoNan.regs.trapen.getLsbD 0 = true ∧
    (fAdd .f32 (laneRnd demoNan.regs 0) (fval .f32 demoNan.regs 4 0) (fval .f32 demoNan.regs 6 0)).flags / 0x100 % 2 = 1 ∧
    bitOf demoNan.regs.em 0 = true := by
  refine ⟨clear_of ?_, ?_, ?_, clear_of ?_, ?_, ?_, ?_⟩ <;> decide +kernel

/-- Conversions from f32 to a packed format, to a pair and to a container. -/
theorem witness_ComparisonsAndConversions :
    (∀ ty, Clear demo { ops := [.s 2 2 false, .v 4 (cmpRegs ty) true, .v 6 (cmpRegs ty) true], writes := 2 }) ∧
    demo.regs.trapen.getLsbD 0 = false ∧
    Clear demo { ops := [.v 2 1 true, .v 4 1 true, .fpc], writes := 1 } ∧
    Clear demo { ops := [.v 2 2 false, .v 4 1 true], writes := 2 } ∧ Clear demo { ops := [.v 2 1 false, .v 4 1 true], writes := 1 } := by
  refine ⟨fun ty => clear_of ?_, ?_, clear_of ?_, clear_of ?_, clear_of ?_⟩
  · cases ty <;> decide +kernel
  all_goals decide +kernel

/-- Lane 3 is the last of the wave, lane 4 none. -/
theorem witness_MovesAndSingleLanes :
    Clear demo (planVV 1 2 4) ∧ Clear demo { ops := [.v 2 1 false, .v 4 1 true, .s 6 2 true], writes := 1 } ∧
    Clear demo { ops := [.s 2 2 false], writes := 2 } ∧ Clear demo { ops := [.v 2 1 false, .fpc], writes := 1 } ∧
    Clear (demoR fun r => { r with sregs := [(6, 3)] }) { ops := [.s 2 1 false, .v 4 1 false, .s 6 1 true], writes := 1 } ∧
    CleanLanes demo 4 (oneLane 3) ∧ (3 : Nat) < demo.wave.width ∧ ¬ (4 : Nat) < demo.wave.width ∧
    Clear (demoR fun r => { r with sregs := [(6, 4)] })
      { ops := [.v 2 1 false, .s 4 1 true, .s 6 1 true], writes := 1 } := by
  refine ⟨clear_of ?_, clear_of ?_, clear_of ?_, clear_of ?_, clear_of ?_, ?_, ?_, ?_, clear_of ?_⟩
  all_goals first | decide +kernel | (unfold CleanLanes; decide +kernel)

theorem witness_LaneMovesVotesAndMatches :
    Clear demo { ops := [.v 2 1 false, .v 4 1 false, .s 6 1 true], writes := 1 } ∧
    Clear demo { ops := [.v 2 1 false, .v 4 1 false, .v 6 1 true], writes := 1 } ∧
    (∀ src, CleanLanes demo 4 (sourceLanes demo.regs src)) ∧
    Clear demo { ops := [.v 2 1 false, .v 4 1 false, .s 6 2 true], writes := 1 } ∧ CleanLanes demo 4 (demo.regs.s2 6) ∧
    Clear demo { ops := [.s 2 1 false, .v 4 1 true], writes := 1 } ∧
    Clear demo { ops := [.s 2 2 false, .v 4 1 true], writes := 2 } ∧ Clear demo (planVV 1 2 4) := by
  refine ⟨clear_of ?_, clear_of ?_, fun src => ?_, clear_of ?_, ?_, clear_of ?_, clear_of ?_, clear_of ?_⟩
  case refine_3 =>
    have h : demo.regs.vpois = [] := by decide +kernel
    simp [CleanLanes, WaveRegs.poisonV, WaveRegs.poisoned, h, tfind?, mkMask, lanesOf]
    decide +kernel
  all_goals first | decide +kernel | (unfold CleanLanes; decide +kernel)

theorem witness_SegmentedScans :
    Clear demo { ops := [.v 2 1 false, .v 4 1 true, .s 6 2 true] ++ [.fpc], writes := 1 } ∧
    Clear demo { ops := [.v 2 1 false, .v 4 1 true, .s 6 2 true] ++ [], writes := 1 } ∧ ∀ g, NoInvalid demo g := by
  exact ⟨clear_of (by decide +kernel), clear_of (by decide +kernel), fun g => .inl (by decide +kernel)⟩

/-! ### Witnesses: control flow and traps -/

/-- The bounds of `jr`'s target: the last word of slot 0, the first of slot 1, an odd address. -/
theorem witness_BranchesAndCalls :
    Clear demo {} ∧ Clear demo { ops := [.s 2 1 true] } ∧ Clear demo { ops := [.s 2 2 true] } ∧
    Clear demo { ops := [.s 20 1 false], writes := 1 } ∧
    (let fine := fun (y : Word) => y.toNat % 4 = 0 ∧ y.toNat < 2 ^ 18 ∧ y.toNat / 2 ^ 16 = demo.regs.pc.toNat / 2 ^ 16
     fine 0xFFFC#32 ∧ ¬ fine 0x10000#32 ∧ ¬ fine 0xFFFE#32) := by
  refine ⟨clear_of ?_, clear_of ?_, clear_of ?_, clear_of ?_, ?_⟩ <;> decide +kernel

/-- The small state with a mask stack of `n` entries. -/
def demoStack (n : Nat) : State := demoR fun r => { r with stack := List.replicate n (1, 0), lc := 2 }

theorem witness_MaskStack :
    (Clear (demoStack 15) { ops := [.s 2 2 true], writes := 3 } ∧ (demoStack 15).regs.stack.length ≤ 15) ∧
    (Clear (demoStack 16) { ops := [.s 2 2 true], writes := 3 } ∧ 16 ≤ (demoStack 16).regs.stack.length) ∧
    (Clear (demoStack 16) { writes := 6 } ∧ (demoStack 16).regs.stack = (1, 0) :: (1, 0) :: List.replicate 14 (1, 0)) ∧
    ((demoStack 14).regs.stack.length ≤ 14 ∧ (demoStack 14).regs.lc ≠ 0 ∧ (demoStack 14).regs.em ≠ 0) ∧
    15 ≤ (demoStack 15).regs.stack.length ∧ (demoStack 0).regs.stack.length = 0 ∧ (demoStack 1).regs.stack.length < 2 ∧
    (Clear (demoStack 16) { writes := 2 + 2 * 14 } ∧ 14 + 2 ≤ (demoStack 16).regs.stack.length) ∧
    (Clear (demoStack 15) { writes := 2 + 2 * 14 } ∧ (demoStack 15).regs.stack.length < 14 + 2) := by
  refine ⟨⟨clear_of ?_, ?_⟩, ⟨clear_of ?_, ?_⟩, ⟨clear_of ?_, ?_⟩, ?_, ?_, ?_, ?_, ⟨clear_of ?_, ?_⟩, clear_of ?_, ?_⟩ <;>
    decide +kernel

/-- The small state on a speculated path. -/
def demoSpec (f : Spec → Spec) : State :=
  let sp : Spec := { base := demoRegs, slot := 0, taken := 8, fall := 4, hint := true }
  demoW fun w => { w with spec := some (f sp) }

theorem witness_Traps :
    (demo.wave.spec = none ∧ demo.regs.priv = false ∧ Clear demo {}) ∧
    (demoR fun r => { r with priv := true }).regs.priv = true ∧ (demoSpec id).wave.spec.isSome = true := by
  refine ⟨⟨?_, ?_, clear_of ?_⟩, ?_, ?_⟩ <;> decide +kernel

/-- An odd pair, register 64 of 64, an outstanding load of v4, poison in s2; the limits of speculation. -/
theorem witness_IssueChecks :
    (demo.wave.spec = none ∧ firstBad demo [.v 61 2 false, .v 2 2 true, .v 4 2 true] = some 61) ∧
    firstBad demo [.v 2 1 false, .v 64 1 true, .v 4 1 true] = some 64 ∧
    firstBad demo [.s 1 2 false, .s 2 2 true, .s 4 2 true] = some 1 ∧ 25 ∉ [18, 21, 22, 23, 24] ∧
    (let s := demoW fun w => { w with loads := [{ dests := [(4, [])], mask := 1 }] }
     s.wave.spec = none ∧ firstBad s (planVVV 1 2 4 6).ops = none ∧
      ∃ ld ∈ s.wave.loads, ∃ e ∈ ld.dests, ∃ i ∈ [2, 4, 6], ∃ j < 1, e.1 = s.regs.vkey (i + j)) ∧
    (let s := demoR fun r => { r with spois := [(2, {})] }
     s.wave.spec = none ∧ s.wave.loads = [] ∧ tfind? s.regs.spois (s.regs.skey 2) = some {} ∧
      Clear s { ops := [.s 2 1 false], writes := 1 } ∧ s.regs.priv = false) ∧
    (let s := demoR fun r => { r with spois := [(2, {})], priv := true }
     s.wave.spec = none ∧ s.wave.loads = [] ∧ tfind? s.regs.spois (s.regs.skey 2) = some {} ∧ s.regs.priv = true ∧
      ∀ x ∈ s.wave.pend, x.held = false) ∧
    (∃ sp, (demoSpec fun sp => { sp with deferred := some { code := 5 } }).wave.spec = some sp ∧ sp.deferred ≠ none) ∧
    (∃ sp, (demoSpec fun sp => { sp with instrs := 48 }).wave.spec = some sp ∧ sp.deferred = none ∧ 48 ≤ sp.instrs) ∧
    (∃ sp, (demoSpec fun sp => { sp with writes := 32 }).wave.spec = some sp ∧ sp.deferred = none ∧ 32 ≤ sp.writes) := by
  refine ⟨?_, ?_, ?_, ?_, ?_, ⟨?_, ?_, ?_, clear_of ?_, ?_⟩, ?_, ⟨_, rfl, ?_⟩, ⟨_, rfl, ?_⟩, ⟨_, rfl, ?_⟩⟩ <;> decide +kernel

/-- A wave with PREEMPT pending. -/
def demoPend : PendTrap := { trap := { code := 0x3C, async := true } }

theorem witness_TrapReturnAndPendingTraps :
    (let s := demoR fun r => { r with priv := true }
     Clear s { priv := true, spec := false } ∧ s.wave.preq = none) ∧
    (let s := demoW fun w => { w with preq := some { deadline := 0, source := 0 }, regs := { w.regs with priv := true } }
     Clear s { priv := true, spec := false } ∧ s.wave.preq ≠ none) ∧
    (let s := demoW fun w => { w with pend := [demoPend] }
     s.fetchPoisoned (s.waveAt demoKey) = false ∧ s.boundary (s.waveAt demoKey) = some demoPend ∧
      demoPend.trap.code ≠ 0x1A) := by
  refine ⟨⟨clear_of ?_, ?_⟩, ⟨clear_of ?_, ?_⟩, ?_⟩ <;> decide +kernel

/-- Lane 0 is one of four live ones, or the last; a vote of the wave is cast; COPY_ERROR is pending. -/
theorem witness_ExitAndSimpleSystem :
    (Clear demo { writes := 2 } ∧ demo.wave.deliverable PendTrap.copyError = none ∧
      liveLanes demo &&& ~~~(demo.regs.em &&& liveLanes demo) ≠ 0) ∧
    (let s := demoR fun r => { r with exited := 14 }
     Clear s { spec := false } ∧ s.wave.deliverable PendTrap.copyError = none ∧ s.wave.casting = false ∧ Unlogged s ∧
      s.regs.em &&& liveLanes s ≠ 0 ∧ liveLanes s &&& ~~~(s.regs.em &&& liveLanes s) = 0) ∧
    (let s := demoW fun w => { w with quor := [(0, { cast := true })], regs := { w.regs with exited := 14 } }
     Clear s { spec := false } ∧ s.wave.deliverable PendTrap.copyError = none ∧ s.wave.casting = true) ∧
    (let s := demoW fun w => { w with pend := [{ trap := { code := 0x30, async := true } }] }
     Clear s { spec := false } ∧ (s.wave.deliverable PendTrap.copyError).isSome = true) ∧
    Clear demo { writes := 1 } ∧
    (let s := demoW fun w => { w with preq := some { deadline := 0, source := 0 } }
     Clear s {} ∧ s.wave.preq.isSome = true ∧ s.regs.priv = false ∧ s.wave.preempting = false) := by
  refine ⟨⟨clear_of ?_, ?_⟩, ⟨clear_of ?_, ?_, ?_, unlogged_of ?_, ?_⟩, ⟨clear_of ?_, ?_⟩, ⟨clear_of ?_, ?_⟩, clear_of ?_,
    clear_of ?_, ?_⟩ <;> decide +kernel

theorem witness_SystemRegisters :
    Clear demo { priv := !sysAny 18, ops := [.s 2 1 false] ++ [], writes := 1, sysreg := 18 } ∧
    Clear (demoR fun r => { r with priv := true })
      { priv := !sysAny 97, ops := [.s 2 1 false] ++ [.user 1], writes := 1, sysreg := 97 } ∧
    (let s := demoR fun r => { r with priv := true, stack := [(1, 0)] }
     Clear s { priv := !sysAny 0, ops := [.s 2 1 false], writes := 1, sysreg := 0 } ∧
      Clear s { priv := true, ops := [.s 2 1 true], spec := false } ∧ s.regs.stack.reverse[0]? = some (1, 0) ∧
      s.regs.stack.length ≤ 1) := by
  refine ⟨clear_of ?_, clear_of ?_, clear_of ?_, clear_of ?_, ?_⟩ <;> decide +kernel

/-- A storage command of one block whose buffer has no translation yet. -/
theorem buffers_wait {s : State} {x : StorageArg} {c : StorageCmd} {k : FrbKind} {p : Nat}
    (hc : s.storageLease 0 x = .inr c) (hx : x.op = 1) (h0 : x.buf % 4096 = 0) (h1 : c.count = 1)
    (ht : s.translate (.wave s.cur) c.ctx x.buf true false = .wait k p) : s.storageWaits 0 x = [(k, p)] := by
  have hn : (Config.blockBytes c.drive c.nsid + 4095) / 4096 = 1 := by
    unfold Config.blockBytes
    split <;> rfl
  simp [State.storageWaits, State.bufferPages, hc, hx, h0, h1, hn, ht, List.range_succ]

/-- A Read of one block of lease 0 into the page at 0x20000, which has no translation. -/
def demoRead : State :=
  let s := demoR fun r => { r with sregs := [(3, 0x100)], vregs := [(8, [1]), (10, [0x20000])] }
  { s with ctxs := [(1, { leases := [(0, { drive := 0, nsid := 1, first := 0, count := 8, rights := 1 })]
                          services := [0x100] })] }

/-- Service 5 is not installed, service 0x100 is the storage service. -/
theorem witness_ServiceCalls :
    Clear demo { ops := [.v 4 4 false, .v 8 4 true, .s 3 1 true], spec := false } ∧ demo.regs.em ≠ 0 ∧
    (demoR fun r => { r with em := 0 }).regs.em = 0 ∧ demo.wave.sysWait = none ∧
    (let s := demoW fun w => { w with sysWait := some (5, 4) }
     (s.waveAt demoKey).sysWait = some (5, 4) ∧
      (s.ctxAt (s.launchAt (s.waveAt demoKey).launch).ctx).services.contains 5 = false ∧
      bitOf (s.waveAt demoKey).regs.em 0 = true) ∧
    (let s : State := { demo with ctxs := [(1, { services := [5] })] }
     s.ctxOf.services.contains 5 = true) ∧
    Clear demoRead { ops := [.v 4 4 false, .v 8 4 true, .s 3 1 true], spec := false } ∧ demoRead.regs.em ≠ 0 ∧
      demoRead.wave.sysWait = none ∧ ((demoRead.regs.s 3).toNat = 0x100 ∧ demoRead.ctxOf.serves 0x100 = true) ∧
      demoRead.frbWaits (.wave demoRead.cur) = false ∧
      (lanesOf demoRead.regs.em).flatMap (fun l => demoRead.storageWaits l (storageArg demoRead.regs 8 l)) ≠ [] := by
  refine ⟨clear_of ?_, ?_, ?_, ?_, ?_, ?_, clear_of ?_, ?_, ?_, ?_, ?_, ?_⟩
  case refine_12 =>
    have hl : lanesOf demoRead.regs.em = [0] := by decide +kernel
    rw [hl]
    simp [buffers_wait (s := demoRead) (x := storageArg demoRead.regs 8 0) rfl (by decide +kernel) (by decide +kernel) rfl rfl]
  all_goals decide +kernel

/-! ### Witnesses: memory -/

/-- Lane 0 at address 0, at every size, for loads, stores and atomics; v4 names the lane's offset. -/
theorem witness_GlobalLoadsAndStores :
    (∀ sz, Clear demo { ops := [.v 2 (regsOf sz) false, .v 4 1 true, .s 6 2 true], spec := false, writes := regsOf sz } ∧
      globalReqs demo.regs 4 6 (bytesOf sz) ≠ [] ∧
      firstStage (globalReqs demo.regs 4 6 (bytesOf sz)) 0 = none ∧
      (∃ s1 ps, Reached demo 0 false false (globalReqs demo.regs 4 6 (bytesOf sz)) s1 ps) ∧
      (∃ s1 ps, Reached demo 3 false false (globalReqs demo.regs 4 6 (bytesOf sz)) s1 ps) ∧
      (∃ s1 ps, Reached demo 1 true false (globalReqs demo.regs 4 6 (bytesOf sz)) s1 ps) ∧
      ∃ s1 ps, Reached demo 4 true false (globalReqs demo.regs 4 6 (bytesOf sz)) s1 ps) ∧
    demo.wave.loads.length < 63 ∧ demo.wave.stores.length < 31 ∧ demo.wave.performedAt .job = true ∧ MaySync demo ∧
    demo.wave.spec = none ∧
    (∃ sp, (demoSpec id).wave.spec = some sp ∧ sp.held.length < 16) ∧
    Clear (demoSpec id) { ops := [.v 2 1 true, .v 4 1 true, .s 6 2 true] } ∧
    (∃ s1 ps, Reached (demoSpec id) 1 true false (globalReqs demo.regs 4 6 4) s1 ps) ∧
    privStage (demoSpec id).regs 4 6 1 = none ∧
    ∃ s1 ps, Reached (demoSpec id) 1 true true ((demoSpec id).wave.privReqs 4 6 0) s1 ps := by
  refine ⟨fun sz => ⟨clear_of ?_, ?_, ?_, reached_of ?_, reached_of ?_, reached_of ?_, reached_of ?_⟩, ?_, ?_, ?_,
    mayLog ?_, ?_, ⟨_, rfl, ?_⟩, clear_of ?_, reached_of ?_, ?_, reached_of ?_⟩
  all_goals first | (cases sz <;> decide +kernel) | decide +kernel

theorem witness_GlobalAtomics :
    (∀ wd, Clear demo { ops := [.v 4 (amoRegs .cas wd) true, .v 2 1 true, .s 6 2 true], spec := false } ∧
      globalReqs demo.regs 2 6 (4 * widthRegs wd) ≠ [] ∧ firstStage (globalReqs demo.regs 2 6 (4 * widthRegs wd)) 2 = none ∧
      ∃ s1 ps, Reached demo 2 true false (globalReqs demo.regs 2 6 (4 * widthRegs wd)) s1 ps) ∧
    demo.wave.loads.length < 63 ∧ demo.wave.stores.length < 31 ∧ demo.wave.performedAt .pkg = true ∧ MaySync demo ∧
    (∃ x : Place, x.req.n = 4 * widthRegs .w32) := by
  refine ⟨fun wd => ⟨clear_of ?_, ?_, ?_, reached_of ?_⟩, ?_, ?_, ?_, mayLog ?_, ⟨⟨⟨0, 0, 4⟩, 0, 0, true, false, 0⟩, rfl⟩⟩
  all_goals first | (cases wd <;> decide +kernel) | decide +kernel

/-- Lane 0 at address 2, at 2^57 and at an address without a page; a tag of another wave at address 0. -/
theorem witness_GlobalFaultsAndRaces :
    (let s := demoR fun r => { r with sregs := [(6, 2)] }
     Clear s { ops := [.v 2 1 false, .v 4 1 true, .s 6 2 true], writes := 1 } ∧
      ((globalReqs s.regs 4 6 4).filter fun q => q.va % 4 ≠ 0) ≠ []) ∧
    (let s := demoR fun r => { r with sregs := [(7, 0x2000000#32)] }
     ((globalReqs s.regs 4 6 4).filter fun q => q.va % 4 ≠ 0) = [] ∧
      ((globalReqs s.regs 4 6 4).filter fun q => 2 ^ 57 ≤ q.va) ≠ []) ∧
    (let s : State := demo.setWave { demo.wave with regs := { demo.regs with sregs := [(6, 0x10000#32)] } }
     ∃ s1 qs resp, s.accept (.wave s.cur) s.wave.core s.launch.ctx false false (globalReqs s.regs 4 6 4) =
       .fail s1 0x09 qs resp) ∧
    (let g : Tag := { party := .wave 7, ident := 0, kind := 1, region := 0 }
     let s : State := { demo with tags := [(tagKey 1 0 0, { writer := some g })] }
     s.wave.spec = none ∧ s.regs.priv = false ∧ globalReqs s.regs 4 6 4 ≠ [] ∧
      (∃ y, okPlaces (s.accept (.wave s.cur) s.wave.core s.launch.ctx false false (globalReqs s.regs 4 6 4)) = some y ∧
        ∃ qs, y.1.clash (.wave s.cur) s.launch.ctx 0 y.2 = some (.conflict g, qs)) ∧
      ∃ y, okPlaces (s.accept (.wave s.cur) s.wave.core s.launch.ctx true false (globalReqs s.regs 4 6 4)) = some y ∧
        ∃ qs, y.1.clash (.wave s.cur) s.launch.ctx 1 y.2 = some (.conflict g, qs)) ∧
    (∃ (t : Tags) (g : Tag), t.writer = none ∧ some g ∈ t.readers ∧ g.party ≠ .wave 0) := by
  refine ⟨⟨clear_of ?_, ?_⟩, ?_, ⟨_, _, _, rfl⟩, ⟨?_, ?_, ?_, ⟨_, rfl, _, rfl⟩, ⟨_, rfl, _, rfl⟩⟩,
    ⟨{ readers := [some ⟨.wave 1, 0, 0, 0⟩] }, ⟨.wave 1, 0, 0, 0⟩, ?_⟩⟩ <;> decide +kernel

/-- Words 0 and 63 of 64 are below the limit, word 64 is not. -/
theorem witness_PrivateMemory :
    (∀ n, n = 1 ∨ n = 2 → Clear demo { ops := [.v 2 n false, .v 4 1 true, .s 6 1 true], writes := n } ∧
      Clear demo { ops := [.v 2 n true, .v 4 1 true, .s 6 1 true] } ∧ demo.wave.privAll 4 6 n ≠ [] ∧
      privStage demo.regs 4 6 n = none ∧ (∃ s1 ps, Reached demo 0 false true (demo.wave.privAll 4 6 n) s1 ps) ∧
      ∃ s1 ps, Reached demo 1 true true (demo.wave.privAll 4 6 n) s1 ps) ∧
    privStage (demoR fun r => { r with sregs := [(6, 63)] }).regs 4 6 1 = none ∧
    (let s := demoR fun r => { r with sregs := [(6, 64)] }
     (lanesOf s.regs.em).find? (fun l => decide ((s.regs.ctxS 16).toNat ≤
       (lane (s.regs.v 4) l).toNat + (s.regs.s 6).toNat)) = some 0) := by
  refine ⟨fun n hn => ?_, ?_, ?_⟩
  · rcases hn with rfl | rfl <;>
      refine ⟨clear_of ?_, clear_of ?_, ?_, ?_, reached_of ?_, reached_of ?_⟩ <;> decide +kernel
  all_goals decide +kernel

/-! ### Witnesses: the scratchpad -/

/-- `LinesReady`, by evaluation. -/
def linesReadyB (s : State) (act : LineAct) (atomic : Bool) (rs : List Req) : Bool :=
  decide (s.wave.spec = none) && (rs.all fun q => decide ((s.block.line (q.va / 128)).verdict act s.cur = .go)) &&
    !s.olderWaits (linesOf rs) && ((openKind act atomic).all fun k => (s.openFoes k rs).isEmpty)

theorem linesReady_of {s : State} {act : LineAct} {atomic : Bool} {rs : List Req}
    (h : linesReadyB s act atomic rs = true) : LinesReady s act atomic rs := by
  simp only [linesReadyB, Bool.and_eq_true, decide_eq_true_eq, List.all_eq_true, Bool.not_eq_true', Option.all_eq_true,
    List.isEmpty_iff] at h
  exact ⟨h.1.1.1, h.1.1.2, h.1.2, fun _ k hk => h.2 k hk⟩

theorem witness_LineStates :
    ∃ l : Line, l.st = .filling ∧ l.owner ≠ .wave 0 := ⟨{ st := .filling }, by decide, by decide⟩

/-- Lane 0 at byte 0, whose line is FULL, and at byte 128, whose line is OPEN. -/
def demoPad (a : Nat) : State := demoR fun r => { r with sregs := [(6, BitVec.ofNat 32 a)] }

theorem witness_ScratchAccesses :
    (∀ sz, Clear (demoPad 0) { ops := [.v 2 (regsOf sz) false, .v 4 1 true, .s 6 1 true], writes := regsOf sz } ∧
      padReqs (demoPad 0).regs 4 6 (bytesOf sz) ≠ [] ∧
      padStage (demoPad 0).regs (padReqs (demoPad 0).regs 4 6 (bytesOf sz)) true 0 = none ∧
      LinesReady (demoPad 0) .read false (padReqs (demoPad 0).regs 4 6 (bytesOf sz)) ∧
      LinesReady (demoPad 0) .take false (padReqs (demoPad 0).regs 4 6 (bytesOf sz)) ∧
      Clear (demoPad 128) { ops := [.v 2 (regsOf sz) true, .v 4 1 true, .s 6 1 true] } ∧
      padStage (demoPad 128).regs (padReqs (demoPad 128).regs 4 6 (bytesOf sz)) true 1 = none ∧
      LinesReady (demoPad 128) .store false (padReqs (demoPad 128).regs 4 6 (bytesOf sz))) ∧
    (∀ sz, Clear (demoPad 0) { ops := [.v 4 (2 * regsOf sz) false, .v 2 1 true, .s 6 1 true], writes := regsOf sz + 1 } ∧
      (demoPad 0).openFoes .r (padReqs (demoPad 0).regs 2 6 (bytesOf sz)) = []) ∧
    (Clear (demoPad 0) { ops := [.v 2 1 false, .v 4 1 true, .s 6 1 true], writes := 1 } ∧
      padStage (demoPad 0).regs (padReqs (demoPad 0).regs 4 6 1) false 0 = none) ∧
    (demoPad 0).wave.loads.length < 63 ∧ (demoPad 0).wave.stores.length < 31 ∧ MaySync (demoPad 0) ∧
    (demoPad 0).wave.remotePending = false ∧ (demoPad 0).allOpen (linesOf (padReqs (demoPad 0).regs 4 6 4)) = false ∧
    padStage (demoPad 8188).regs (padReqs (demoPad 8188).regs 4 6 4) true 1 = none := by
  refine ⟨fun sz => ⟨clear_of ?_, ?_, ?_, linesReady_of ?_, linesReady_of ?_, clear_of ?_, ?_, linesReady_of ?_⟩,
    fun sz => ⟨clear_of ?_, ?_⟩, ⟨clear_of ?_, ?_⟩, ?_, ?_, mayLog ?_, ?_, ?_, ?_⟩
  all_goals first | (cases sz <;> decide +kernel) | decide +kernel

/-- The first byte at s143 is out of range; byte 2 is misaligned for a word; line 0 is FULL, or filling under a
transfer. -/
theorem witness_ScratchAtomicsLinesAndFaults :
    (∀ wd, Clear (demoPad 128) { ops := [.v 4 (amoRegs .cas wd) true, .v 2 1 true, .s 6 1 true], spec := false } ∧
      padReqs (demoPad 128).regs 2 6 (4 * widthRegs wd) ≠ [] ∧
      padStage (demoPad 128).regs (padReqs (demoPad 128).regs 2 6 (4 * widthRegs wd)) true 2 = none ∧
      LinesReady (demoPad 128) .store true (padReqs (demoPad 128).regs 2 6 (4 * widthRegs wd))) ∧
    (Clear (demoPad 128) { ops := [.v 4 1 true, .s 6 1 true], spec := false } ∧ padReqs (demoPad 128).regs 4 6 1 ≠ [] ∧
      padStage (demoPad 128).regs (padReqs (demoPad 128).regs 4 6 1) false 8 = none ∧
      ∀ act ∈ [LineAct.sfin, .sclr, .sopen], LinesReady (demoPad 128) act false (padReqs (demoPad 128).regs 4 6 1)) ∧
    ((padReqs (demoPad 2).regs 4 6 4).filter fun q => q.va % 4 ≠ 0) ≠ [] ∧
    (((padReqs (demoPad 8192).regs 4 6 4).filter fun q => q.va % 4 ≠ 0) = [] ∧
      ((padReqs (demoPad 8192).regs 4 6 4).filter fun q => ((demoPad 8192).regs.ctxS 15).toNat ≤ q.va) ≠ []) ∧
    (∃ q ∈ padReqs (demoPad 0).regs 4 6 4, ((demoPad 0).block.line (q.va / 128)).verdict .store demoKey = .stall) ∧
    (let s := demoB fun b => { b with lines := [] }
     ∃ q ∈ padReqs s.regs 4 6 4, (s.block.line (q.va / 128)).verdict .read s.cur = .stall) ∧
    (let s := demoB fun b => { b with lines := [(0, { st := .filling })] }
     ((padReqs s.regs 4 6 4).filter fun q => (s.block.line (q.va / 128)).verdict .store s.cur = .conflict) ≠ []) := by
  refine ⟨fun wd => ⟨clear_of ?_, ?_, ?_, linesReady_of ?_⟩, ⟨clear_of ?_, ?_, ?_, fun act ha => linesReady_of ?_⟩, ?_⟩
  case refine_8 => revert act; decide +kernel
  all_goals first | (cases wd <;> decide +kernel) | decide +kernel

/-! ### Witnesses: synchronisation -/

/-- A wave with one store that waits for a peer, one with none, and one with tags at another rank. -/
theorem witness_FencesAndWaits :
    (Clear demo { spec := false } ∧ demo.wave.performedAt .job = true ∧ MaySync demo ∧
      (∀ ld ∈ demo.wave.loads, ld.passes = []) ∧ demo.wave.deliverable PendTrap.late = none ∧
      demo.wave.loads.length ≤ 0) ∧
    (let s := demoW fun w => { w with homes := [1] }
     Clear s { spec := false } ∧ s.wave.performedAt .job = true ∧ s.wave.ending = [] ∧ s.wave.homes ≠ [] ∧
      ∀ a ∈ s.answers, a.seq ≠ s.fresh) ∧
    (let s := demoW fun w => { w with stores := [{ passes := [{ rank := 1 }] }] }
     Clear s { spec := false } ∧ s.wave.performedAt .job = false ∧ ¬ s.wave.stores.length ≤ 0) ∧
    (let s := demoW fun w => { w with pend := [{ trap := { code := 0x38, async := true } }] }
     Clear s { spec := false } ∧ (s.wave.deliverable PendTrap.late).isSome = true) := by
  refine ⟨⟨clear_of ?_, ?_, mayLog ?_, ?_⟩, ⟨clear_of ?_, ?_⟩, ⟨clear_of ?_, ?_⟩, clear_of ?_, ?_⟩ <;> decide +kernel

/-- Barrier 3: not yet arrived, with an expected count of 2; arrived; a wait owed. -/
theorem witness_BarriersAndSignals :
    (let s := demoR fun r => { r with sregs := [(6, 2)] }
     Clear s { ops := [.s 6 1 true], spec := false } ∧ s.wave.performedAt .blk = true ∧ MaySync s ∧
      s.hasArrived 3 = false ∧ s.barTurn 3 = false ∧ (s.barOf 3).owed.contains s.cur = false ∧
      (({ arrived := [s.cur], expect := some 2 } : Bar).complete (s.unfinished s.block)) = false) ∧
    (let s := demoB fun b => { b with bars := [(3, { arrived := [demoKey], expect := some 2 })] }
     Clear s { ops := [.s 6 1 true], spec := false } ∧ s.hasArrived 3 = true) ∧
    (let s := demoB fun b => { b with bars := [(3, { owed := [demoKey] })] }
     Clear s { ops := [.s 6 1 true], spec := false } ∧ (s.barOf 3).owed.contains s.cur = true ∧ s.hasArrived 3 = false ∧
      s.barTurn 3 = false) ∧
    Clear demo { ops := [.s 2 2 true, .s 6 2 true], spec := false } ∧ demo.poisonAt 0 0 = false ∧
    (∃ y, okPlaces (demo.accept (.wave demo.cur) demo.wave.core demo.launch.ctx true false
        [{ lane := 0, va := (demo.regs.s2 2).toNat, n := 8 }]) = some y ∧ y.2.length = 1 ∧
      demo.coreRequests demo.wave.core + requests y.2 ≤ 2048 ∧ demo.wave.deliverable PendTrap.access = none ∧
      y.1.clash (.wave demo.cur) demo.launch.ctx 2 y.2 = none ∧ y.1.clash (.wave demo.cur) demo.launch.ctx 3 y.2 = none) ∧
    (demo.regs.s2 6).toNat ≤ leNat (demo.readTier 0 0 8) ∧
    leNat (demo.readTier 0 0 8) < ((demoR fun r => { r with sregs := [(6, 1)] }).regs.s2 6).toNat := by
  refine ⟨⟨clear_of ?_, ?_, mayLog ?_, ?_⟩, ⟨clear_of ?_, ?_⟩, ⟨clear_of ?_, ?_⟩, clear_of ?_, ?_, ⟨_, rfl, ?_⟩, ?_⟩ <;>
    decide +kernel

/-- A range of no bytes, and one of 128 bytes. -/
theorem witness_CacheMaintenance :
    (Clear demo { ops := [.s 2 2 true, .s 6 1 true], spec := false } ∧
      rangeReqs (demo.regs.s2 2).toNat (demo.regs.s 6).toNat = []) ∧
    (let s := demoR fun r => { r with sregs := [(6, 128)] }
     let rs := rangeReqs (s.regs.s2 2).toNat (s.regs.s 6).toNat
     Clear s { ops := [.s 2 2 true, .s 6 1 true], spec := false } ∧ rs ≠ [] ∧ firstStage rs 0 = none ∧
      (∃ y, okPlaces (s.accept (.wave s.cur) s.wave.core s.launch.ctx false true rs) = some y ∧ Room s y.2) ∧
      ∃ y, okPlaces (s.accept (.wave s.cur) s.wave.core s.launch.ctx false false rs) = some y ∧ Room s y.2) := by
  unfold Room
  refine ⟨⟨clear_of ?_, ?_⟩, clear_of ?_, ?_, ?_, ⟨_, rfl, ?_⟩, ⟨_, rfl, ?_⟩⟩ <;> decide +kernel

/-- A log of 4,096 bytes with room and one that is full, in RECORD; in REPLAY the wave's entry, and none. -/
theorem witness_CheckEntries :
    (let s : State := { demo with rep := { mode := 1, size := 4096 } }
     Clear s { spec := false } ∧ s.wave.performedAt .job = true ∧ AloneHere s ∧ s.rep.mode = 1 ∧
      s.rep.used + 32 ≤ s.rep.size) ∧
    (let s : State := { demo with rep := { mode := 1, size := 4096, used := 4080 } }
     Clear s { spec := false } ∧ s.rep.size < s.rep.used + 32) ∧
    (let s : State := { demo with rep := { mode := 2, log := { entries := [{ cycle := 0, gate := 0xFF, ctx := 0, body := .check 0 0 0 }] } } }
     Clear s { spec := false } ∧ Unlogged s) ∧
    (let s : State := { demo with rep := { mode := 2 } }
     Clear s { spec := false } ∧ (s.rep.checks s.wave.ident.toNat).drop (tget s.rep.taken s.wave.ident.toNat 0) = [] ∧
      s.regs.priv = false) := by
  unfold AloneHere
  refine ⟨⟨clear_of ?_, ?_⟩, ⟨clear_of ?_, ?_⟩, ⟨clear_of ?_, ?_, fun _ => ?_⟩, clear_of ?_, ?_⟩ <;> decide +kernel

/-! ### Witnesses: copies and other ranks -/

/-- The result of an engine's access. -/
def gotOk {α : Type} : Got α → Option (State × α)
  | .ok s x => some (s, x)
  | .stall _ | .fail _ _ _ | .nowhere _ _ => none

/-- A descriptor in s8 to s15: 64 bytes from address 0 to address 128 of global memory, or of `n` bytes with word 5. -/
def demoCopy (n w5 : Nat) : State :=
  demoR fun r => { r with sregs := [(10, 128), (12, BitVec.ofNat 32 n), (13, BitVec.ofNat 32 w5)] }

theorem witness_CopyEngine :
    (Clear (demoCopy 64 0) { ops := [.s 8 8 true], spec := false } ∧ (demoCopy 64 0).wave.copies.length < 31 ∧
      (demoCopy 64 0).block.entries.find? (fun n => !((demoCopy 64 0).entryAt 0 n).busy) = some 0 ∧
      (demoCopy 64 0).copyVerdict { kind := .dcp, words := (demoCopy 64 0).regs.descriptor 8 } false = none ∧
      (demoCopy 0 0).copyVerdict { kind := .dcp, words := (demoCopy 0 0).regs.descriptor 8 } false = some 0 ∧
      (demoCopy 64 1).copyVerdict { kind := .dcp, words := (demoCopy 64 1).regs.descriptor 8 } false = some 15 ∧
      (demoCopy 64 1).wave.alive = true ∧ (demoCopy 64 1).wave.final = false) ∧
    (Clear demo { ops := [.v 2 1 true, .s 8 8 true, .v 4 1 true], spec := false } ∧ (demo.regs.gatherCtl 2).2 = 0) ∧
    (demoB fun b => { b with entries := [] }).block.entries = [] ∧
    (let s : State := { demo with cores := [(0, { copyq := [(0, { busy := true }), (1, { busy := true })] })] }
     ∀ n ∈ s.block.entries, (s.entryAt (s.block.cores.headD 0) n).busy = true) ∧
    (Clear demo { ops := [.s 2 1 false, .s 4 1 true], spec := false } ∧ demo.wave.pend = []) ∧
    (let ws : List Word := [0, 0, 128, 0, 64, 0, 0, 0]
     let e : CopyEntry := { blk := demoBlk, busy := true, words := ws, wave := demoKey, state := 1 }
     let s : State := { demo with cores := [(0, { copyq := [(0, e)], copyPtr := 1 })] }
     (s.coreAt 0).nextEntry = some 0 ∧ s.entryAt 0 0 = e ∧ e.kind = .dcp ∧ e.waiting = false ∧ e.done = 0 ∧ e.held = none ∧
      0 < e.word 4 ∧ e.word 4 < 128 ∧ e.src % 128 + e.word 4 ≤ 128 ∧ e.dst % 128 + e.word 4 ≤ 128 ∧
      ∃ y, gotOk (s.copyFetch 0 0 e.src (e.word 4)) = some y ∧
        (let s3 := y.1.updEntry 0 0 fun e => { e with held := some y.2 }
         y.2.length = e.word 4 ∧ { y.1.entryAt 0 0 with accept := [] } = { e with accept := [] } ∧
         s3.copyRemote 0 0 = false ∧
         ∃ z, gotOk (s3.copyStore 0 0 e.dst y.2) = some z ∧ z.1.entryAt 0 0 = { e with held := some y.2, accept := [] })) := by
  refine ⟨⟨clear_of ?_, ?_⟩, ⟨clear_of ?_, ?_⟩, ?_, ?_, ⟨clear_of ?_, ?_⟩, ?_, ?_, ?_, ?_, ?_, ?_, ?_, ?_, ?_, ?_,
    ⟨_, rfl, ?_, ?_, ?_, _, rfl, ?_⟩⟩ <;> decide +kernel

/-- `PeersAgree`, by evaluation. -/
def agreeB (s : State) (kind : Nat) (write : Bool) (xs : List RLane) : Bool :=
  let others := s.otherRanks xs
  (decide (others = []) || decide (s.wave.ask.map Prod.snd = some others)) &&
    ((takeAnswers s.wave.ident.toNat ((s.wave.ask.map Prod.fst).getD 0) others s.answers).any fun y =>
      y.1.all fun a => decide (a.code = 0)) &&
    reachedB s kind write false ((lanesAt xs s.ownRank).map RLane.req)

theorem agree_of {s : State} {kind : Nat} {write : Bool} {xs : List RLane} (h : agreeB s kind write xs = true) :
    ∃ s1 ps rest, PeersAgree s kind write xs s1 ps rest := by
  simp only [agreeB, Bool.and_eq_true, Bool.or_eq_true, decide_eq_true_eq, Option.any_eq_true, List.all_eq_true] at h
  obtain ⟨⟨h1, y, hy, h2⟩, h3⟩ := h
  obtain ⟨s1, ps, h3⟩ := reached_of h3
  exact ⟨s1, ps, y.2, h1, ⟨y.1, hy, h2⟩, h3⟩

/-- Lane 0 names rank 0, its own, or rank 1 of two, which has been asked and has answered, or not yet. -/
theorem witness_RemoteAccesses :
    (let xs := demo.regs.plainLanes 4 6
     xs ≠ [] ∧ demo.cutLanes xs = [] ∧ demo.wave.loads.length < 63 ∧ demo.wave.stores.length < 31 ∧
      Clear demo { ops := [.v 2 1 false, .v 4 2 true, .v 6 1 true], spec := false } ∧
      Clear demo { ops := [.v 2 1 true, .v 4 2 true, .v 6 1 true], spec := false } ∧
      remoteFirst xs (demo.regs.ctxS 10).toNat 0 true = none ∧ remoteFirst xs (demo.regs.ctxS 10).toNat 1 true = none ∧
      demo.otherRanks xs = [] ∧ (∃ s1 ps rest, PeersAgree demo 0 false xs s1 ps rest) ∧
      ∃ s1 ps rest, PeersAgree demo 1 true xs s1 ps rest) ∧
    (let s0 := demoW fun w => { w with ask := some (5, [1]), regs := { w.regs with vregs := [(6, [1])] } }
     let s : State := { s0 with answers := [{ rank := 1, ident := 0, seq := 5 }] }
     let xs := s.regs.plainLanes 4 6
     xs ≠ [] ∧ s.cutLanes xs = [] ∧ remoteFirst xs (s.regs.ctxS 10).toNat 0 true = none ∧ s.otherRanks xs = [1] ∧
      ∃ s1 ps rest, PeersAgree s 0 false xs s1 ps rest) ∧
    (let s := demoR fun r => { r with vregs := [(6, [1])] }
     s.otherRanks (s.regs.plainLanes 4 6) ≠ [] ∧ s.wave.ask = none) ∧
    (let xs := demo.regs.atomLanes 4 6
     Clear demo { ops := [.v 8 4 false, .v 4 2 true, .v 6 1 true], spec := false } ∧ xs ≠ [] ∧
      (∀ x ∈ xs, x.peer = demo.ownRank) ∧ remoteFirst xs (demo.regs.ctxS 10).toNat 2 true = none ∧
      demo.regs.atomPoison 8 xs = none ∧ demo.wave.performedAt .job = true ∧ MaySync demo ∧
      ∃ s1 ps rest, PeersAgree demo 2 true xs s1 ps rest) ∧
    (let s := demoR fun r => { r with vregs := [(6, [2])] }
     (s.regs.plainLanes 4 6).filter (fun x => !x.okay || decide ((s.regs.ctxS 10).toNat ≤ x.peer)) ≠ []) ∧
    (let s := demoR fun r => { r with vregs := [(6, [1])] }
     (s.regs.plainLanes 4 6).filter (fun x => !x.okay || decide ((s.regs.ctxS 10).toNat ≤ x.peer)) = []) := by
  refine ⟨⟨?_, ?_, ?_, ?_, clear_of ?_, clear_of ?_, ?_, ?_, ?_, agree_of ?_, agree_of ?_⟩,
    ⟨?_, ?_, ?_, ?_, agree_of ?_⟩, ?_, ⟨clear_of ?_, ?_, ?_, ?_, ?_, ?_, mayLog ?_, agree_of ?_⟩, ?_, ?_⟩ <;> decide +kernel

/-- A request of rank 1 for address 0 in each of its stages, with the places it holds; an arrival at an OPEN line; a
contribution of one element at its turn. -/
theorem witness_RemoteRequestsAndReductions :
    (let l : RemoteLane := { lane := 0, addr := 0, data := 7, swap := 0, op := 0, wide := false, ret := false }
     let q : RemoteReq := { stage := .ask, ctx := 1, kind := .rst, ident := 0x10000000, lanes := [l] }
     let p := Party.remote q.ident 0
     let s0 := ({ demo with waitReqs := demo.waitReqs.erase q } : State).unreserve p
     let g : Tag := { party := p, ident := 0x10000000, kind := 1, region := 0 }
     let x : Reservation := { tag := g, track := true, ctx := 1, places := [] }
     (∃ y, okPlaces (s0.accept p 48 q.ctx (decide (q.kind ≠ .rld)) false (reqLanes q)) = some y ∧
        y.1.clash p q.ctx (reqKind q) y.2 = none) ∧
      ({ demo with reserved := [x] } : State).reserved.find? (fun x => x.tag.party = p) = some x) ∧
    (let s : State := { demo with launches := [(1, { demoLaunch with scratch := 8192 })] }
     let items : List ((Nat × Nat) × List Nat) := List.zip [(0, 128)] [[7]]
     s.transfers = [] ∧ items ≠ [] ∧ 0x10000000 / 2 ^ 28 % 16 ≠ s.rankOf 1 ∧
      (∀ i ∈ items, i.1.1 = 0 ∧ i.1.2 / 128 = 1 ∧ s.targetOf 1 0 0 i.1.2 true = .at demoBlk) ∧ tfind? s.blocks demoBlk ≠ none ∧
      s.lineTurn demoBlk s.cycle [1] = false ∧
      ∃ b, (s.blockAt demoBlk).arrive { issuer := 0x10000000 - 0x80, kind := 1, word := 0x10000000, id := s.fresh } 1
        (items.flatMap fun i => cellsAt i.1.2 (toBytes i.2)) = .ok b) ∧
    (let c : Contribution := { ctx := 1, region := 0, op := 0, mode := 0, word5 := 0, total := 0, dst := 0, elems := [7]
                               rank := 1, index := false, core := 0, entry := 64 }
     c ∉ demo.waitContrs ∧ (tget (demo.ctxAt 1).regions 0 {}).waiting = [] ∧
      (tget (demo.ctxAt 1).regions 0 {}).expect < 2 ^ 16 ∧ c.word5 % 2 ^ 16 = (tget (demo.ctxAt 1).regions 0 {}).expect ∧
      ∃ y, gotOk (demo.engineCheck (demo.contrActor c) 2 true (contrReqs c)) = some y ∧
        ∀ x ∈ y.2, demo.poisonAt x.tier x.pa = false) ∧
    (let ws : List Word := [0, 0, 0, 0, 1, 0, 0, 0]
     let e : CopyEntry := { blk := demoBlk, busy := true, resend := true, kind := .dcpr, words := ws, buf := [7, 0, 0, 0] }
     let s : State := { demo with cores := [(0, { copyq := [(0, e)] })] }
     (s.contribution 0 0).mode = 0 ∧ (s.entryAt 0 0).busy = true ∧ (s.entryAt 0 0).resend = true ∧
      (s.contribution 0 0).word5 % 2 ^ 16 = 0 ∧ s.copyRemote 0 0 = false ∧ s.contribution 0 0 ∉ s.waitContrs ∧
      ∃ y, gotOk (s.engineCheck (s.contrActor (s.contribution 0 0)) 2 true (contrReqs (s.contribution 0 0))) = some y ∧
        ∀ x ∈ y.2, s.poisonAt x.tier x.pa = false) := by
  refine ⟨⟨⟨_, rfl, ?_⟩, ?_⟩, ⟨?_, ?_, ?_, ?_, ?_, ?_, _, rfl⟩, ⟨?_, ?_, ?_, ?_, _, rfl, ?_⟩,
    ⟨?_, ?_, ?_, ?_, ?_, ?_, _, rfl, ?_⟩⟩ <;> decide +kernel

/-! ### Witnesses: the matrix engine -/

/-- Every line of the scratchpad FULL. -/
def demoFull : State := demoB fun b => { b with
  lines := (List.range 64).map fun i => (i, { st := .full })
  shelf := [(0, { fmt := some .e4m3 }), (2, { fmt := some .f64 }), (3, { fmt := some .f64 })] }

theorem full_line (a : Nat) (h : a < 8192) : (demoFull.block.line (a / 128)).st = .full := by
  have hs : ∀ k < 64, (demoFull.block.line k).st = .full := by decide +kernel
  exact hs _ (by omega)

theorem captures_full (n : Nat) (h : n ≤ 8192) : Captures demoFull 0 n := by
  have h15 : (demoFull.regs.ctxS 15).toNat = 8192 := by decide +kernel
  have hp : demoFull.block.spois = [] := by decide +kernel
  have hw : (demoFull.waveWaits (demoFull.blockAt demoFull.wave.blk) ++ demoFull.mstWaits (demoFull.blockAt demoFull.wave.blk) ++
      demoFull.transferWaits demoFull.wave.blk (demoFull.blockAt demoFull.wave.blk)) = [] := by decide +kernel
  refine ⟨rfl, by omega, ?_, fun a _ ha => ⟨full_line a (by omega), ?_⟩⟩
  · simp only [State.olderWaits, State.lineTurn, hw, List.any_nil]
  · rw [hp]
    exact List.not_mem_nil

/-- `mma` in e4m3 and, on a pair of f64, with every tile and slot free. -/
theorem witness_MatrixOperations :
    EngineUp demoFull ∧ demoFull.wave.tileOps.length < 31 ∧ (demoFull.regs.s 2).toNat = 0 ∧ demoFull.testFirst = false ∧
    (∀ t ∈ demoFull.regs.members 0, demoFull.wave.tileBusy t = false) ∧
    (Clear demoFull { ops := [.s 2 1 true, .slot 0 1, .tile 0 1], spec := false } ∧ Captures demoFull 0 (1024 + 0) ∧
      (∀ j < 1, demoFull.wave.tileBusy (0 + j) = false ∧ demoFull.slotBusy (0 + j) false = false) ∧
      (∀ j < 1, (demoFull.block.slot demoFull.wave.bank (0 + j)).fmt.map mclass = some (mclass .e4m3)) ∧
      typeFits (mclass .e4m3) (demoFull.regs.tile 0).ty = true) ∧
    (let s := demoFull.updRegs fun r => { r with tiles := [(0, { ty := .fp64 }), (1, { ty := .fp64 })] }
     Clear s { ops := [.s 2 1 true, .slot 2 2, .tile 0 2], spec := false } ∧
      (∀ j < 2, (s.block.slot s.wave.bank (2 + j)).fmt.map mclass = some (mclass .f64)) ∧
      typeFits (mclass .f64) (s.regs.tile 0).ty = true) ∧
    (Clear demoFull { ops := [.slot 2 2, .s 2 1 true], spec := false } ∧ Captures demoFull 0 (8192 + 0) ∧
      (∀ j < 2, demoFull.slotBusy (2 + j) true = false) ∧ Captures demoFull 0 (4096 + 64)) ∧
    (Clear demoFull { ops := [.tile 2 2, .s 2 1 true], spec := false } ∧
      (∀ t ∈ 2 :: demoFull.regs.members 2, demoFull.wave.tileBusy t = false) ∧ demoFull.wave.tileBusy 3 = false) ∧
    (let s := demoFull.setWave { demoFull.wave with tileOps := [{ kind := .mma }, { kind := .bload }, { kind := .mld }] }
     s.engineHung (s.waveAt demoKey) = false ∧ (takeOp .mma (s.waveAt demoKey).tileOps).isSome = true ∧
      (takeOp .bload (s.waveAt demoKey).tileOps).isSome = true ∧
      ∃ x, takeOp .mld (s.waveAt demoKey).tileOps = some x ∧ x.1.pair = decide (x.1.mode = .fp64)) := by
  refine ⟨?_, ?_, ?_, ?_, ?_, ⟨clear_of ?_, captures_full _ (by omega), ?_⟩, ⟨clear_of ?_, ?_⟩,
    ⟨clear_of ?_, captures_full _ (by omega), ?_, captures_full _ (by omega)⟩, ⟨clear_of ?_, ?_⟩, ?_, ?_, ?_, _, rfl, ?_⟩
  case refine_1 => unfold EngineUp; decide +kernel
  all_goals decide +kernel

theorem witness_TileInstructions :
    EngineUp demo ∧ (∀ t ∈ demo.regs.members 2, demo.wave.tileBusy t = false) ∧ demo.wave.tileBusy 2 = false ∧
    (∀ mode : TileType, Clear demo { ops := [.tile 2 (if mode = .fp64 then 2 else 1)], spec := false }) ∧
    Clear demo { ops := [.s 2 1 false, .tile 2 1], writes := 1 } ∧ Clear demo { ops := [.s 2 1 true, .tile 2 1], spec := false } ∧
    Clear demo { ops := [.slot 0 1], spec := false } ∧
    (∀ b ∈ demo.block.freed demo.wave.bank 0, demo.slotBusy b true = false) ∧
    Clear demo { ops := [.v 2 1 false, .tile 2 1, .s 6 1 true, .v 2 1 false], writes := 1 } ∧
    Clear demo { ops := [.tile 2 1, .v 4 1 true, .s 6 1 true, .v 4 1 true], spec := false } ∧
    (let s := demoR fun r => { r with tiles := [(2, { ty := .fp64 })] }
     (s.regs.tile 2).ty = .fp64 ∧ Clear s { ops := [.v 2 1 false, .tile 2 2, .s 6 1 true, .v 2 2 false], writes := 2 } ∧
      Clear s { ops := [.tile 2 2, .v 4 1 true, .s 6 1 true, .v 4 2 true], spec := false }) := by
  refine ⟨?_, ?_, ?_, fun mode => clear_of ?_, clear_of ?_, clear_of ?_, clear_of ?_, ?_, clear_of ?_, clear_of ?_, ?_,
    clear_of ?_, clear_of ?_⟩
  case refine_1 => unfold EngineUp; decide +kernel
  case refine_4 => cases mode <;> decide +kernel
  all_goals decide +kernel

/-- The image of a tile of f32 ends at the last byte of the scratchpad, or 128 bytes beyond; a partition is lost, a tile
of INT32 has no f64 image; a line waits to be written; tile 3 is the odd one of an FP64 pair. -/
theorem witness_TileStoresAndRecovery :
    (Clear demo { ops := [.s 2 1 true, .tile 2 1], spec := false } ∧ EngineUp demo ∧ demo.wave.tileOps.length < 31) ∧
    (let s := demoR fun r => { r with tiles := [(2, { ty := .fp64 }), (3, { ty := .fp64 })] }
     Clear s { ops := [.s 2 1 true, .tile 3 1], spec := false } ∧ (s.regs.tile 3).ty = .fp64 ∧
      ∀ t ∈ s.regs.members 3, s.wave.tileBusy t = false) ∧
    (4096 % 128 = 0 ∧ 4096 + 1024 * mstBytes .f32 ≤ (demo.regs.ctxS 15).toNat ∧
      (demo.regs.ctxS 15).toNat < 4224 + 1024 * mstBytes .f32) ∧
    (let s : State := { demo with engines := [(0, { lost := [0] })] }
     (s.engineAt s.wave.core).lost.contains s.wave.part = true) ∧
    (mstConvert .fp32 .f32 .rne false).isSome = true ∧ (mstConvert .int32wrap .f64 .rne false).isSome = false ∧
    (let o : TileOp := { kind := .mst, lines := [(1, List.replicate 128 0, [])] }
     let s := demoW fun w => { w with tileOps := [o] }
     s.engineHung (s.waveAt demoKey) = false ∧ (s.waveAt demoKey).tileOps = [o] ∧ (List.replicate 128 (0 : Byte)).length = 128 ∧
      s.lineTurn (s.waveAt demoKey).blk o.since [1] = false ∧
      ((s.blockAt (s.waveAt demoKey).blk).line 1).st = .opened) ∧
    (let s : State := { demo with engines := [(0, { fences := [(0, [3])], hang := [1], hangEnd := [(1, 0)] })] }
     5 ∉ tget (s.engineAt 0).fences 0 [] ∧ 1 ≤ (tget (s.engineAt 0).fences 0 []).length ∧ 0 ∉ (s.engineAt 0).hang ∧
      1 ∈ (s.engineAt 0).hang ∧ tget (s.engineAt 0).hangEnd 1 0 ≤ s.cycle) := by
  refine ⟨⟨clear_of ?_, ?_, ?_⟩, ⟨clear_of ?_, ?_⟩, ?_⟩
  case refine_2 => unfold EngineUp; decide +kernel
  all_goals decide +kernel

/-! ### Witnesses: overlays -/

/-- `ReadsImage`, by evaluation. -/
def readImage (s : State) (va n : Nat) : Option (State × List Byte × List Nat) :=
  (okPlaces (s.accept (.wave s.cur) s.wave.core s.launch.ctx false false
    ((List.range ((n + 255) / 256)).map fun i => { lane := 0, va := va + 256 * i, n := 1 }))).map fun y =>
      (y.1, (y.2.flatMap fun x => y.1.readTier x.tier x.pa 256).take n,
        (List.range (n / 4)).filter fun i => (y.2[i / 64]?).any fun x => y.1.poisonAt x.tier (x.pa + 4 * (i % 64)))

theorem readsImage_of {s : State} {va n : Nat} {y : State × List Byte × List Nat} (h : readImage s va n = some y) :
    ReadsImage s va n y.1 y.2.1 y.2.2 := by
  obtain ⟨z, hz, rfl⟩ := Option.map_eq_some_iff.mp h
  exact ⟨z.2, accept_ok hz, rfl, rfl⟩

/-- An image at 0x200 of one overlay: 4 bytes at offset 64, one entry, at its offset 0. -/
def demoImage : State :=
  { demo with
    hbm := [(0x200, 1), (0x210, 64), (0x214, 4), (0x21C, 1)] ++ demoTables
    launches := [(1, { demoLaunch with ovimg := 0x200, ovs := [(4, none)] })] }

/-- The same with the overlay in slot 2, and s2 naming entry 0 of overlay 0. -/
def demoHeld : State :=
  { demoImage with cores := [(0, { slots := [(0, { ov := some 9 }), (2, { ov := some 0 })] })] }

theorem witness_Overlays :
    (Clear demo { priv := decide (2 = demo.launch.hs), ops := [.s 2 1 true], spec := false } ∧
      demo.launch.ovs.length ≤ (demo.regs.s 2).toNat) ∧
    (Clear demoImage { priv := decide (2 = demoImage.launch.hs), ops := [.s 2 1 true], spec := false } ∧
      (demoImage.regs.s 2).toNat < demoImage.launch.ovs.length ∧
      ∃ y, readImage demoImage 0x200 16 = some y ∧ y.2.2 = [] ∧ field y.2.1 0 4 = y.1.launch.ovs.length ∧
        ∃ z, readImage y.1 (0x200 + 16 + 16 * 0) 16 = some z ∧ z.2.2 = [] ∧
          field z.2.1 4 4 ≤ ((y.1.launch.ovs[0]?).map Prod.fst).getD 0 ∧
          ∃ x, readImage z.1 (0x200 + field z.2.1 0 4) (field z.2.1 4 4) = some x ∧ x.2.1.length = 4) ∧
    (let s : State := { demo with cores := [(0, { slots := [(2, { loading := [(0, [5], [])] })] })] }
     (tget (s.coreAt 0).slots 2 {}).loading = [(0, [5], [])] ∧ (tget (s.coreAt 0).slots 2 {}).ov ≠ some 0) ∧
    (let s : State := { demo with cores := [(0, { slots := [(2, { ov := some 0, loading := [(0, [5], [])] })] })] }
     (tget (s.coreAt 0).slots 2 {}).loading = [(0, [5], [])] ∧ (tget (s.coreAt 0).slots 2 {}).ov = some 0) ∧
    (Clear demoHeld { ops := [.s 4 1 false, .s 2 1 true], spec := false, writes := 1 } ∧ (demoHeld.slotAt 2).ov = some 0 ∧
      (demoHeld.slotAt 2).loading = [] ∧
      (∀ j < 2, (demoHeld.slotAt j).ov ≠ some 0 ∧ ∀ l ∈ (demoHeld.slotAt j).loading, l.1 ≠ 0) ∧
      ∃ y, readImage demoHeld 0x200 16 = some y ∧ y.2.2 = [] ∧ field y.2.1 0 4 = y.1.launch.ovs.length ∧
        ∃ z, readImage y.1 (0x200 + 16 + 16 * 0) 16 = some z ∧ z.2.2 = [] ∧ 0 < field z.2.1 12 2 ∧
          field z.2.1 4 4 ≤ ((y.1.launch.ovs[0]?).map Prod.fst).getD 0 ∧
          ∃ x, readImage z.1 (0x200 + 16 + 16 * 1 + 4 * (field z.2.1 8 4 + 0)) 4 = some x ∧ x.2.2 = [] ∧
            field x.2.1 0 4 < field z.2.1 4 4) ∧
    (∀ j < 4, (demo.slotAt j).ov ≠ some 0 ∧ ∀ l ∈ (demo.slotAt j).loading, l.1 ≠ 0) ∧
    (let s := demoHeld.updRegs fun r => { r with sregs := [(2, 0x20000#32)] }
     Clear s { ops := [.s 2 1 true], spec := false } ∧
      (s.slotAt ((s.regs.s 2).toNat / 2 ^ 16 % 4)).holds = some ((s.regs.s 2).toNat / 2 ^ 24) ∧
      (s.regs.s 2).toNat / 2 ^ 18 % 64 = 0 ∧ (s.regs.s 2).toNat % 4 = 0) ∧
    (demo.slotAt 0).holds ≠ some 0 := by
  refine ⟨⟨clear_of ?_, ?_⟩, ⟨clear_of ?_, ?_, _, rfl, ?_, ?_, _, rfl, ?_, ?_, _, rfl, ?_⟩, ?_, ?_,
    ⟨clear_of ?_, ?_, ?_, ?_, _, rfl, ?_, ?_, _, rfl, ?_, ?_, ?_, _, rfl, ?_, ?_⟩, ?_, ⟨clear_of ?_, ?_⟩, ?_⟩ <;> decide +kernel

/-! ### Witnesses: quorums and tickets -/

/-- The small state with the member state of slot 0. -/
def demoMember (m : QMember) : State := demoW fun w => { w with quor := [(0, m)] }

/-- `Joined`, by evaluation. -/
def joinedB (s : State) (slot : Nat) : Bool :=
  decide (s.wave.slotByte slot ≠ 255) && (s.quorumAt s.launch.ctx (s.wave.slotByte slot)).poison.isNone

theorem joined_of {s : State} {slot : Nat} (h : joinedB s slot = true) : Joined s slot := by
  simp only [joinedB, Bool.and_eq_true, decide_eq_true_eq, Option.isNone_iff_eq_none] at h
  exact h

/-- Slot 0 names entry 0; slots 1 to 3 hold 255. -/
theorem witness_Collectives :
    Joined demo 0 ∧ Clear demo { ops := [.s 3 1 true], spec := false } ∧ (Clear demo { spec := false } ∧
      (demo.member 0).asking = none ∧ demo.wave.deliverable PendTrap.access = none) ∧
    (∀ kind ∈ [0, 1, 2],
      let s := demoMember { res := [.resolved 0 true true (some (demo.site kind))] }
      Joined s 0 ∧ (s.member 0).proxy = false ∧ (s.member 0).res = [.resolved 0 true true (some (s.site kind))]) ∧
    ((demo.member 0).res = [] ∧ (demo.member 0).cast = false ∧ (demo.member 0).proxy = false ∧
      (demo.member 0).used = false ∧ demo.wave.performedAt .job = true ∧ MaySync demo) ∧
    ((demoMember { cast := true }).member 0).cast = true ∧
    demo.wave.spec = none ∧ demo.wave.slotByte 1 = 255 ∧ demo.wave.alive = true ∧ demo.wave.final = false ∧
    (let s : State := { demo with ctxs := [(1, { demoCtx with quorums := [(0, { poison := some (1, 2) })] })] }
     s.wave.slotByte 0 ≠ 255 ∧ (s.quorumAt s.launch.ctx (s.wave.slotByte 0)).poison = some (1, 2)) ∧
    ((demoMember { res := [.mismatch 0 0] }).member 0).res = [.mismatch 0 0] ∧
    Joined (demoMember { res := [.timeout 0 1 2] }) 0 := by
  refine ⟨joined_of ?_, clear_of ?_, ⟨clear_of ?_, ?_⟩, fun kind hk =>
      ⟨joined_of ?_, ?_⟩,
    ⟨?_, ?_, ?_, ?_, ?_, mayLog ?_⟩, ?_, ?_, ?_, ?_, ?_, ?_, ?_, joined_of ?_⟩
  case refine_5 | refine_6 => revert kind; decide +kernel
  all_goals decide +kernel

/-- A member in a handler; block 0 of an ordered launch with the ticket at 0, or 1; a broken block below. -/
theorem witness_QuorumsAndTickets :
    (let s := demoR fun r => { r with priv := true }
     Clear s { priv := true, ops := [.s 2 1 true], spec := false } ∧ s.wave.slotByte 0 ≠ 255 ∧ Joined s 0 ∧
      (s.member 0).proxy = false) ∧
    ((demoMember { proxy := true }).member 0).proxy = true ∧ Clear demo { ops := [.s 2 1 false], spec := false } ∧
    (Clear demo { spec := false } ∧ demo.launch.ordered = false ∧ demo.wave.slotByte 3 = 255) ∧
    (let s : State := { demo with launches := [(1, { demoLaunch with mode := 1 })] }
     s.launch.ordered = true ∧ (∀ x ∈ s.launch.broken, s.wave.blk % 2 ^ 32 ≤ x) ∧ s.launch.ordc = s.wave.blk % 2 ^ 32 ∧
      s.earlierWoken 18 (fun _ w => decide (w.blk = s.wave.blk)) = false ∧ s.wave.performedAt .pkg = true ∧
      s.wave.deliverable PendTrap.access = none) ∧
    (let s : State := { demo with launches := [(1, { demoLaunch with mode := 1, ordc := 1 })] }
     s.launch.ordered = true ∧ s.wave.blk % 2 ^ 32 < s.launch.ordc) ∧
    (let s : State := { demoW (fun w => { w with blk := demoBlk + 1 }) with
       launches := [(1, { demoLaunch with mode := 1, broken := [0] })] }
     s.launch.ordered = true ∧ s.launch.ordc < s.wave.blk % 2 ^ 32 ∧ 0 ∈ s.launch.broken ∧ 0 < s.wave.blk % 2 ^ 32 ∧
      s.earlierWoken 18 (fun _ w => decide (0 < w.blk % 2 ^ 32)) = false) := by
  refine ⟨⟨clear_of ?_, ?_, joined_of ?_, ?_⟩, ?_, clear_of ?_, ⟨clear_of ?_, ?_⟩, ?_⟩ <;> decide +kernel

/-- Entry 0 has two members here, or one; an ordinal whose timer has run out. -/
theorem witness_Votes :
    (let e : Quorum := { word := 2 }
     e.poison = none ∧ tfind? e.proxied 0 = none ∧ ([] : List (Nat × Nat × Bool × Bool)).length + 1 < e.current) ∧
    (let e : Quorum := { word := 1 }
     e.current ≤ 0 + 1 ∧ ∀ x ∈ [(demo.memberOf demoKey, 0, true, false)], x.1 / 2 ^ 28 % 16 = (demo.ctxAt 1).rank) ∧
    (let s := demoMember { cast := true }
     (s.waveAt demoKey).spec = none ∧ (s.waveAt demoKey).alive = true ∧ (s.waveAt demoKey).resultSlot 0 0 = some 0 ∧
      (tget (s.waveAt demoKey).quor 0 {}).asking ≠ some 0 ∧
      (s.quorumAt (s.launchAt (s.waveAt demoKey).launch).ctx 0).poison = none) ∧
    (∀ site ∈ [5, 6], let r := VoteRes.resolved 0 false false (some site)
     let s := (demoSpec id).setWave { (demoSpec id).wave with quor := [(0, { cast := true, res := [r], mine := 5 })] }
     ∃ sp, (s.waveAt demoKey).spec = some sp ∧ (tget (s.waveAt demoKey).quor sp.slot {}).res = [r] ∧
      s.specRoom (s.waveAt demoKey) sp = true ∧ resTaken r (5 / 2 ^ 22) ≠ sp.hint) ∧
    (let o : Ordinal := { votes := [(demo.memberOf demoKey, 0, true, false)], deadline := 5 }
     let s : State := { demo with cycle := 5, ctxs := [(1, { demoCtx with quorums := [(0, { ords := [(0, o)] })] })] }
     (s.quorumAt 1 0).ords = [(0, o)] ∧ o.deadline ≠ 0 ∧ o.deadline ≤ s.cycle ∧
      ∀ v ∈ o.votes, v.2.2.2 = false ∧ v.1 / 2 ^ 28 % 16 = (s.ctxAt 1).rank) := by
  refine ⟨?_, ?_, ?_, fun site hs => ⟨_, rfl, ?_⟩, ?_⟩
  case refine_4 => revert site; decide +kernel
  all_goals decide +kernel

/-! ### Witnesses: completions and blocks -/

theorem witness_Completions :
    (let ld : PendLoad := { dests := [(2, []), (3, [])], mask := 1 }
     let s := demoW fun w => { w with loads := [ld], stores := [{}] }
     (s.waveAt demoKey).loads = [ld] ∧ ld.remote = false ∧ ld.dests.Pairwise (fun x y => x.1 ≠ y.1) ∧
      (s.waveAt demoKey).stores = [{}]) ∧
    (let p : Pass := { rank := 1, id := 5, lanes := [(0, 0)] }
     let s := demoW fun w => { w with loads := [{ dests := [(2, [])], mask := 1, passes := [p] }] }
     let a : Answer := { rank := 1, ident := 0, seq := 5 }
     a.code = 0 ∧ (s.waveAt demoKey).passOf a.rank a.seq = some p) ∧
    (let s := demoW fun w => { w with life := .draining }
     (s.waveAt demoKey).life = .draining ∧ (s.waveAt demoKey).drained = true ∧ s.boundary (s.waveAt demoKey) = none ∧
      (s.waveAt demoKey).homes = [] ∧ (s.waveAt demoKey).ending = [] ∧
      ∀ k ∈ (s.blockAt (s.waveAt demoKey).blk).waveKeys, (s.waveAt k).life ≠ .parked) ∧
    (let s := demoW fun w => { w with life := .draining, homes := [1] }
     let v := s.waveAt demoKey
     v.life = .draining ∧ v.loads = [] ∧ v.stores = [] ∧ v.tileOps = [] ∧ s.boundary v = none ∧ v.ending = [] ∧ v.homes ≠ [] ∧
      ∀ a ∈ s.answers, a.seq ≠ s.fresh) ∧
    (let x : PendTrap := { trap := { code := 0x1A, async := true } }
     let s := demoW fun w => { w with pend := [x] }
     (s.waveAt demoKey).life = .resident ∧ s.boundary (s.waveAt demoKey) = some x ∧ x.trap.code = 0x1A) ∧
    (let x : StorageCmd := { wave := demoKey, lane := 0, ctx := 1, lease := 0, first := 0, count := 1, write := false, addr := 0 }
     let s : State := { demoW (fun w => { w with sysWait := some (0x100, 4) }) with storage := [x] }
     s.storage.find? (fun x => x.wave = demoKey && decide (x.lane = 0)) = some x ∧
      (s.waveAt demoKey).sysWait.isSome = true ∧ s.revokes = [] ∧ x.aborted = false) ∧
    (3 : Nat) ≠ 0 := by
  decide +kernel

theorem witness_PreemptionAndBlocks :
    (let s := demoW fun w => { w with preq := some { deadline := 0, source := 0 } }
     ∃ v, tfind? s.waves demoKey = some v ∧ v.launch = 1 ∧ v.overdue s.cycle = true) ∧
    (let s := demoW fun w => { w with life := .parking }
     s.parkReady (s.waveAt demoKey) = true) ∧
    (let s := (demoB fun b => { b with st := .saved, nw := 1 }).setWave { demoWave with life := .saved }
     s.restorable demoBlk = true ∧ s.imageBad (s.blockAt demoBlk) = false ∧ demoKey ∈ (s.blockAt demoBlk).waveKeys ∧
      (s.waveAt demoKey).life = .saved) ∧
    (let s : State := { State.reset with launches := [(1, { ctx := 1, vregs := 8 })] }
     (s.placeable 1).isSome = true) ∧
    (let s := demoW fun w => { w with life := .exited }
     s.retirable demoBlk = true) ∧
    (demo.launchOn 0 = some 1 ∧ ∀ x ∈ demo.group 0, x ≠ 0 → demo.hasWork 1 x = false) ∧
    (let b : Block := { launch := 1, lin := 1, st := .resident, cores := [1], nw := 1 }
     let s : State := { demo with remap := tset demo.remap 1 (tget demo.remap 0 0)
                                  blocks := [(demoBlk, demoBlock), (demoBlk + 1, b)]
                                  cores := [(0, { qends := 5 })] }
     s.launchOn 0 = some 1 ∧ 1 ∈ s.group 0 ∧ s.hasWork 1 1 = true ∧ (s.coreAt 0).qends ≠ 0 ∧
      ∃ b ∈ s.blocks, b.2.cores.contains 0 = true ∧ b.2.st = .resident) := by
  refine ⟨⟨_, rfl, ?_⟩, ?_⟩ <;> decide +kernel

/-! ### Witnesses: commands -/

/-- The result of a command's accesses. -/
def hostOk : HostAccept → Option (State × List HostSpan)
  | .ok s ss => some (s, ss)
  | .fail _ _ _ | .wait _ | .nowhere _ _ => none

/-- A command of an op with three operand words. -/
def demoCmd (op a b c : Nat) : Cmd :=
  let e : List Byte := leBytes 8 op ++ leBytes 8 a ++ leBytes 8 b ++ leBytes 8 c ++ List.replicate 32 0
  { op := op, ent := e }

/-- The small state with a command in progress in queue 0 of context 1. -/
def demoQueue (x : Cmd) : State :=
  { demo with ctxs := [(1, { demoCtx with queues := [(0, { busy := some x, size := 16, ctl := 1, head := 1, tail := 1 })] })] }

theorem atWork_of {s : State} {op : Nat} {x : Cmd} (h : x.op = op ∧ (s.queueAt 1 0).busy = some x) : AtWork s 1 0 op s x :=
  ⟨h.1, .inl ⟨h.2, rfl⟩⟩

/-- A copy of 64 bytes from 0 to 128; a signal word at 0; ranges of 64 bytes. -/
theorem witness_MemoryCommands :
    (let x := demoCmd 2 0 128 64
     AtWork (demoQueue x) 1 0 2 (demoQueue x) x ∧
      ∃ y, hostOk ((demoQueue x).hostAccept 1 0 (hostParts (x.arg 0) (x.arg 2) false ++ hostParts (x.arg 1) (x.arg 2) true)) =
        some y) ∧
    (let x := demoCmd 3 0 5 0
     AtWork (demoQueue x) 1 0 3 (demoQueue x) x ∧
      ∃ y, hostOk ((demoQueue x).hostAccept 1 0 (hostParts (x.arg 0) 8 true)) = some y ∧
        ∀ z ∈ y.2, y.1.poisonAt z.tier z.pa = false) ∧
    (let x := demoCmd 4 0 5 0
     AtWork (demoQueue x) 1 0 4 (demoQueue x) x ∧
      ∃ y, hostOk ((demoQueue x).hostAccept 1 0 (hostParts (x.arg 0) 8 false)) = some y ∧
        leNat (y.1.spanBytes y.2) < x.arg 1 ∧ (demoCmd 4 0 0 0).arg 1 ≤ leNat (y.1.spanBytes y.2)) ∧
    (let x := demoCmd 5 0 64 0
     AtWork (demoQueue x) 1 0 5 (demoQueue x) x ∧ AtWork (demoQueue (demoCmd 6 0 64 0)) 1 0 6 (demoQueue (demoCmd 6 0 64 0))
        (demoCmd 6 0 64 0) ∧
      ∃ y, hostOk ((demoQueue x).hostAccept 1 0 (hostParts (x.arg 0) (x.arg 1) false)) = some y) := by
  refine ⟨⟨atWork_of ?_, _, rfl⟩, ⟨atWork_of ?_, _, rfl, ?_⟩, ⟨atWork_of ?_, _, rfl, ?_⟩, ⟨atWork_of ?_, atWork_of ?_, _, rfl⟩⟩ <;>
    decide +kernel

/-- A launch descriptor at 0x400: kernel record at 0x1000, one block of one wave, handler slot `hs`, `gx` blocks. -/
def demoLaunchCmd (gx hs : Nat) : State :=
  { demoQueue (demoCmd 1 0x400 0 0) with
    hbm := ([(0x401, 0x10), (0x418, BitVec.ofNat 8 gx), (0x41C, 1), (0x420, 1), (0x424, 1), (0x426, BitVec.ofNat 8 hs),
      (0x1004, 32), (0x1008, 8), (0x100A, 2), (0x1024, 4), (0x1034, 4), (0x1038, 2)].filter fun c => c.2 ≠ 0) ++ demoTables }

/-- The descriptor, kernel record and launch of a LAUNCH at work. -/
def launchParts (s : State) : Option (State × List Byte × Kernel) :=
  (hostOk (s.hostAccept 1 0 (hostParts 0x400 192 false))).bind fun y =>
    let d := y.1.spanBytes y.2
    (hostOk (y.1.hostAccept 1 0 (hostParts (fld d 0 8) 32 false))).bind fun h =>
      let head := h.1.spanBytes h.2
      (hostOk (h.1.hostAccept 1 0 (hostParts (fld d 0 8 + 32) (16 * fld head 10 2 + 8 * fld head 24 1) false))).map fun r =>
        (r.1, d, makeKernel head (r.1.spanBytes r.2))

theorem witness_Launches :
    (let x := demoCmd 1 0x400 0 0
     x.arg 0 = 0x400 ∧ AtWork (demoLaunchCmd 1 1) 1 0 1 (demoLaunchCmd 1 1) x ∧
      (∃ y, launchParts (demoLaunchCmd 1 1) = some y ∧ badDescriptor y.2.1 y.2.2 = none ∧
        bitmaps (makeLaunch 1 0 x y.2.1 y.2.2) y.2.1 y.2.2 = [] ∧ (makeLaunch 1 0 x y.2.1 y.2.2).gridOk = true ∧
        y.1.launchCheck (makeLaunch 1 0 x y.2.1 y.2.2) (bindings (makeLaunch 1 0 x y.2.1 y.2.2) y.2.1 y.2.2 []) = none) ∧
      (∃ y, launchParts (demoLaunchCmd 0 1) = some y ∧ badDescriptor y.2.1 y.2.2 = none ∧
        (makeLaunch 1 0 x y.2.1 y.2.2).gridOk = false) ∧
      (∃ y, launchParts (demoLaunchCmd 1 2) = some y ∧ badDescriptor y.2.1 y.2.2 = none ∧
        (makeLaunch 1 0 x y.2.1 y.2.2).gridOk = true ∧
        ((makeLaunch 1 0 x y.2.1 y.2.2).ovs.any fun o => o.2 = some (makeLaunch 1 0 x y.2.1 y.2.2).hs) = true) ∧
      ∃ y, launchParts (demoLaunchCmd 1 4) = some y ∧ badDescriptor y.2.1 y.2.2 = some 38) ∧
    (let s : State := { demo with launches := [(1, { demoLaunch with nretired := 1 })] }
     (s.launchAt 1).ended = true ∧ (s.launchAt 1).imageTag = none ∧ (s.launchAt 1).broken = [] ∧
      (s.launchAt 1).copyFail = none ∧ (s.launchAt 1).sigaddr = 0) ∧
    (let s : State := { demo with launches := [(1, { demoLaunch with nretired := 1, sigaddr := 8 })] }
     (s.launchAt 1).ended = true ∧ (s.launchAt 1).sigaddr ≠ 0 ∧
      ∃ y, hostOk (s.hostAccept 1 0 (hostParts (s.launchAt 1).sigaddr 8 true)) = some y ∧
        ∀ z ∈ y.2, y.1.poisonAt z.tier z.pa = false) := by
  refine ⟨⟨?_, atWork_of ?_, ⟨_, rfl, ?_⟩, ⟨_, rfl, ?_⟩, ⟨_, rfl, ?_⟩, _, rfl, ?_⟩, ?_, ?_, ?_, _, rfl, ?_⟩ <;> decide +kernel

/-- No owner, an open window, an owner with and without a handover pending, a lease that has run out at its last
clock. -/
theorem witness_Ownership :
    (State.reset.owned = false ∧ State.reset.openWin = false) ∧
    (let s : State := { State.reset with openWin := true, claims := [7, 3], winEnd := 14000, cycle := 14000 }
     (∃ w ∈ s.claims, ∀ x ∈ s.claims, w ≤ x) ∧ s.openWin = true ∧ s.winEnd ≤ s.cycle) ∧
    (let x := demoCmd 8 3 0 0
     let s : State := { demoQueue x with owned := true, owner := 7, target := 3, giver := some (1, 0), giveEnd := 140000000
                                         cycle := 1400000000 }
     (s.queueAt 1 0).busy = some x ∧ x.op = 8 ∧ 3 % 2 ^ 16 = s.target ∧ s.giveEnd ≤ s.cycle ∧ s.leaseMs ≠ 0 ∧
      s.beat + s.leaseMs * 1400000 ≤ s.cycle) ∧
    (let s : State := { State.reset with owned := true, owner := 7, cycle := 1400000000 }
     s.giver = none ∧ s.owner = 7 % 2 ^ 16 ∧ s.owner ≠ 8 % 2 ^ 16 ∧ s.leaseMs ≠ 0 ∧ s.beat + s.leaseMs * 1400000 ≤ s.cycle) ∧
    (let x := demoCmd 8 3 0 0
     AtWork (demoQueue x) 1 0 8 (demoQueue x) x ∧ (demoQueue x).giver = none ∧ (demoQueue x).owned = false) := by
  refine ⟨?_, ?_, ?_, ?_, atWork_of ?_, ?_⟩ <;> decide +kernel

/-- The owner moves TAIL by one less than the ring, and may not move it by the ring; CRHEAD up to what is written. -/
theorem witness_QueueRegisters :
    (let c : Ctx := { queues := [(0, { size := 16, written := 3 })] }
     let s : State := { demo with owned := true, owner := 7, ctxs := [(1, c)] }
     s.mayControl 1 7 = true ∧ s.mayControl 1 8 = false ∧ (s.queueAt 1 0).distance 15 < (s.queueAt 1 0).size ∧
      (s.queueAt 1 0).size ≤ (s.queueAt 1 0).distance 16 ∧ 3 < (s.queueAt 1 0).size ∧
      (s.queueAt 1 0).crhead + (3 + 16 - (s.queueAt 1 0).crhead % 16) % 16 ≤ (s.queueAt 1 0).written ∧
      (s.queueAt 1 0).written < (s.queueAt 1 0).crhead + (4 + 16 - (s.queueAt 1 0).crhead % 16) % 16) ∧
    (let l : Launch := { demoLaunch with cmd := { jrn := some (5, 0) } }
     let s : State := { demo with owned := true, owner := 7, launches := [(1, l)] }
     s.mayControl 1 7 = true ∧ s.launchByJournal 1 5 = some 1 ∧
      s.launches.find? (fun l => l.2.ctx = 1 && l.2.cmd.jrn.any fun j => j.1 = 5) = some (1, l)) := by
  decide +kernel

/-! ### Witnesses: administration -/

/-- A request of the administration page with its operands. -/
def demoAdm (op : Nat) (args : List Nat) (s : State) : State :=
  { s with admBusy := true, admNow := (0, BitVec.ofNat 32 op) :: (args.mapIdx fun i x =>
      [(2 + 2 * i, BitVec.ofNat 32 x), (3 + 2 * i, BitVec.ofNat 32 (x / 2 ^ 32))]).flatten }

/-- A descriptor at 0x1000: a report ring of 4,096 bytes, rank 0 of a job of one, quorum entries at 0x2000. -/
def demoDesc : State := { State.reset with hbm := [(0x1011, 0x20), (0x1021, 0x10), (0x1025, 1)] }

theorem witness_Administration :
    (Asked (demoAdm 1 [64] demo) 1 ∧ 64 ≤ (demoAdm 1 [64] demo).admArg 0 ∧ (demoAdm 1 [63] demo).admArg 0 < 64 ∧
      (tfind? demo.ctxs ((demoAdm 1 [1] demo).admArg 0)).isSome = true) ∧
    (let s := demoAdm 1 [2, 0x1000] demoDesc
     Asked s 1 ∧ s.admArg 0 < 64 ∧ tfind? s.ctxs (s.admArg 0) = none ∧
      ∃ d, s.deviceBytes (s.admArg 1) 64 = some d ∧ descriptorOk d = true ∧ fld d 14 1 % 2 = 0 ∧
        (s.deviceBytes (fld d 16 8) 2048).isSome = true) ∧
    (let s := demoAdm 2 [1] demo
     Asked s 2 ∧ (tfind? s.ctxs (s.admArg 0)).isSome = true ∧ s.admArg 0 ∉ s.dying) ∧
    (let s := demoAdm 2 [1] { State.reset with ctxs := [(1, {})], dying := [1] }
     Asked s 2 ∧ s.admArg 0 ∈ s.dying ∧ s.destroyed (s.admArg 0) = true) ∧
    (let s := demoAdm 3 [1, 254, 2] demo
     Asked s 3 ∧ s.admArg 1 < 255 ∧ s.admArg 2 < 2 ^ 42 ∧ ({ word := 2 } : Quorum).members ≤ 196608 ∧
      ({ word := 2 } : Quorum).home < 2) ∧
    (let s : State := { State.reset with ctxs := [(1, { conf := true, tdi := 4 })] }
     s.ctxs.find? (fun c => c.2.conf && decide (c.2.tdi = 4)) = some (1, { conf := true, tdi := 4 })) ∧
    (let s := demoAdm 4 [1, 31, 0x4000, 1, 2] demo
     Asked s 4 ∧ s.admArg 1 < 32 ∧ s.admArg 3 < 2 ^ 32 ∧ s.admArg 3 ≠ s.admArg 4 ∧
      (s.deviceBytes (s.admArg 2) 32).isSome = true ∧ Asked (demoAdm 5 [1, 31] demo) 5 ∧
      (demoAdm 5 [1, 31] demo).keyInUse 1 31 = false ∧ Asked (demoAdm 6 [1, 0, 4096] demo) 6) ∧
    (let s := demoAdm 7 [1, 63, 7, 1, 0, 8, 3] demo
     Asked s 7 ∧ s.admArg 1 < 64 ∧ s.admArg 2 < 8 ∧ s.admArg 6 < 4) ∧
    (let l : Lease := { drive := 0, nsid := 1, first := 0, count := 8, rights := 3 }
     let k : StorageCmd := { wave := demoKey, lane := 0, ctx := 1, lease := 0, first := 4, count := 1, write := false, addr := 0 }
     let v : Revocation := { ctx := 1, lease := 0, first := 0, count := 8, since := 0, adm := true }
     let s := demoAdm 8 [1, 0, 0, 8] { demo with ctxs := [(1, { demoCtx with leases := [(0, l)] })], storage := [k] }
     Asked s 8 ∧ s.revokes = [] ∧ tfind? (s.ctxAt 1).leases (s.admArg 1) = some l ∧ k ∈ s.storage ∧ v.covers k = true ∧
      ({ v with first := 5 } : Revocation).covers k = false ∧ v.phase = 0 ∧ v.since + 50 * 1400000 ≤ 70000000 ∧
      v.since + 1050 * 1400000 ≤ 1470000000) ∧
    (let s := demoAdm 9 [1, 0x4000, 0x8000] demo
     Asked s 9 ∧ (s.deviceBytes (s.admArg 1) 32).isSome = true ∧ exists? 0 (s.admArg 2) 16864 = true) ∧
    (let s : State := { State.reset with ctxs := [(1, { conf := true, tdi := 4 })] }
     s.ctxOfTdi 4 = some 1 ∧ tfind? (s.ctxAt 1).keys 31 = none) := by
  refine ⟨?_, ⟨?_, ?_, ?_, _, rfl, ?_⟩, ?_⟩
  all_goals (try unfold Asked); decide +kernel

/-! ### Witnesses: checkpoints -/

/-- A read of a command of queue 0 of context 1, by evaluation. -/
def readB (s : State) (a n : Nat) : Option (State × List Byte) :=
  (hostOk (s.hostAccept 1 0 (hostParts a n false))).map fun y => (y.1, y.1.spanBytes y.2)

theorem reads_of {s : State} {a n : Nat} {y : State × List Byte} (h : readB s a n = some y) :
    HostReads s 1 0 a n y.1 y.2 := by
  unfold readB at h
  unfold HostReads
  cases hs : s.hostAccept 1 0 (hostParts a n false) <;> simp_all [hostOk]
  subst h
  exact ⟨rfl, rfl⟩

/-- What `CheckpointRead` reads, by evaluation: descriptor, stripes, both manifests, the state after. -/
def ckptB (s : State) (x : Cmd) : Option (List Byte × List Stripe × List Byte × List Byte × State) :=
  (readB s (x.arg 0) 64).bind fun u =>
  let d := u.2
  if badCheckpoint d (u.1.ctxAt 1).conf = none ∧ fld d 24 8 ≠ 0 then
    (readB u.1 (fld d 24 8) (16 * fld d 32 4)).bind fun v =>
    (stripeTable v.2 (fld d 32 4)).bind fun xs =>
    (readB v.1 (fld d 0 8) 128).bind fun a =>
    (readB a.1 (fld d 0 8 + 128) (96 * manifestCount a.2)).bind fun b =>
    (readB b.1 (fld d 8 8) 128).bind fun c =>
    (readB c.1 (fld d 8 8 + 128) (96 * manifestCount c.2)).map fun e => (d, xs, a.2 ++ b.2, c.2 ++ e.2, e.1)
  else none

theorem ckpt_of {s : State} {x : Cmd} {P : List Byte → List Stripe → List Byte → List Byte → State → Bool}
    (hw : AtWork s 1 0 7 s x)
    (h : ((ckptB s x).any fun r => P r.1 r.2.1 r.2.2.1 r.2.2.2.1 r.2.2.2.2) = true) :
    ∃ d xs ma mb s1, CheckpointRead s 1 0 x d xs ma mb s1 ∧ P d xs ma mb s1 = true := by
  rw [Option.any_eq_true] at h
  obtain ⟨r, hr, hp⟩ := h
  unfold ckptB at hr
  simp only [Option.bind_eq_some_iff] at hr
  obtain ⟨u, hu, hr⟩ := hr
  split at hr
  · next hb =>
    simp only [Option.bind_eq_some_iff, Option.map_eq_some_iff] at hr
    obtain ⟨v, hv, xs, hx, a, ha, b, hb', c, hc, e, he, rfl⟩ := hr
    exact ⟨_, _, _, _, _, ⟨s, u.1, v.1, a.1, b.1, c.1, a.2, b.2, c.2, e.2, v.2, hw, reads_of hu, hb.1, hb.2,
      reads_of hv, hx, reads_of ha, reads_of hb', rfl, reads_of hc, reads_of he, rfl⟩, hp⟩
  · cases hr

/-- Bytes at an address as cells. -/
def placed (a : Nat) (bs : List Byte) : List Host.Cell :=
  ((bs.mapIdx fun i b => (a + i, b)).filter fun c => c.2 ≠ 0)

/-- A checkpoint descriptor at 0x400: areas at 0x2000 and 0x6000 of `size` bytes, the table of one stripe of 4 bytes at
0x800 at 0x500, no key. -/
def demoCkpt (mode size : Nat) (more : List Host.Cell) : State :=
  { demoQueue (demoCmd 7 0x400 0 0) with
    hbm := placed 0x400 (leBytes 8 0x2000 ++ leBytes 8 0x6000 ++ leBytes 8 size ++ leBytes 8 0x500 ++ leBytes 4 1 ++
      leBytes 1 mode ++ leBytes 1 255) ++ placed 0x500 (leBytes 8 0x800 ++ leBytes 4 4) ++ more ++ demoTables }

/-- A whole checkpoint in the first area. -/
def demoSaved : List Host.Cell :=
  placed 0x2000 (makeManifest false 1 0 1 255 0 0 [(0x1000, { addr := 0x800, len := 4, narrow := false })]
    [sha384 [1, 2, 3, 4]]) ++ placed 0x3000 (leBytes 4 0x04030201)

theorem witness_Checkpoints :
    (let x := demoCmd 7 0x400 0 0
     (∃ d xs ma mb s1, CheckpointRead (demoCkpt 0 4096 []) 1 0 x d xs ma mb s1 ∧
       (decide (fld d 36 1 = 0) && decide (fld d 16 8 < areaNeed (decide (fld d 37 1 ≠ 255)) xs)) = true) ∧
     (∃ d xs ma mb s1, CheckpointRead (demoCkpt 0 8192 []) 1 0 x d xs ma mb s1 ∧
       (decide (fld d 36 1 = 0) && decide (areaNeed (decide (fld d 37 1 ≠ 255)) xs ≤ fld d 16 8) &&
        decide (fld d 37 1 = 255) &&
        let base := fld d (8 * (saveTarget ma mb).2) 8
        let len := 128 + 96 * xs.length
        let stripes := (placeStripes false (up4k len) xs).flatMap fun p =>
          hostParts p.2.addr p.2.len false ++ hostParts (base + p.1) (p.2.stored false) true
        (hostOk (s1.hostAccept 1 0 (hostParts base 4 true ++ stripes ++ hostParts (base + 4) (len - 4) true ++
          hostParts base 4 true))).any fun y => y.2.all fun z =>
            z.part.2.2 || (List.range z.part.2.1).all fun i => !y.1.poisonAt z.tier (z.pa + i)) = true) ∧
     (∃ d xs ma mb s1, CheckpointRead (demoCkpt 1 8192 []) 1 0 x d xs ma mb s1 ∧
       (decide (fld d 36 1 = 1) && !manifestValid ma && !manifestValid mb) = true) ∧
     ∃ d xs ma mb s1, CheckpointRead (demoCkpt 1 8192 demoSaved) 1 0 x d xs ma mb s1 ∧
       (let c : Candidate := { area := 0, base := fld d 0 8, man := ma }
        decide (fld d 36 1 = 1) && manifestValid ma && !manifestValid mb && decide (layoutDiff 0 c.stripes xs = none) &&
        !c.enc && (hostOk (s1.hostAccept 1 0 c.parts.flatten)).any fun y =>
          (y.1.openStripes c none y.2).isRight &&
          (hostOk (y.1.hostAccept 1 0
            (List.zipWith (fun a (y : Stripe) => hostParts a y.len true) (xs.map Stripe.addr) c.stripes).flatten)).isSome)
          = true) := by
  refine ⟨ckpt_of (atWork_of ?_) ?_, ckpt_of (atWork_of ?_) ?_, ckpt_of (atWork_of ?_) ?_, ckpt_of (atWork_of ?_) ?_⟩ <;>
    decide +kernel
/-! ### Witnesses: stopping, scanning, restarting -/

/-- A frozen package with a request of ATTCTL. -/
def demoAtt (op size : Nat) (s : State) : State :=
  { s with frozen := true, rep := { s.rep with attctl := 8 + op, attBase := 4096, attSize := size } }

/-- The bytes of an image without sections, of a package whose firmware is `fw` (R462). -/
def atticImage (fw : List Nat) : List Byte :=
  let h := byteList [0x41, 0x54, 0x54, 0x43] ++ leBytes 2 1 ++ leBytes 26 0 ++ byteList (sha384 fw) ++ leBytes 16 0
  h ++ byteList (sha384 (natBytes h))

/-- A package with bytes in DDR-5 at 4096, frozen at a RESTART, whose firmware is empty. -/
def demoRestart (bytes : List Byte) : State :=
  let s : State := { demo with ddr := (bytes.mapIdx fun i b => (4096 + i, b)).filter fun c => c.2 ≠ 0, boot := { image := some [] } }
  demoAtt 3 4096 s

/-- The small state with firmware of its own: its domain is the same. -/
def demoTwin : State := { demo with boot := { image := some [] } }

/-- A stop at clock 9 that is due, one that has passed and one to come; a scan without and with room; what stands at
ATTBASE no image, one of other firmware, one to restart from; a session with one arrival left and with none. -/
theorem witness_Attic :
    (let s : State := { demo with owned := true, owner := 7 }
     s.isOwner 7 = true ∧ s.isOwner 8 = false) ∧
    (let s : State := { demo with cycle := 9, rep := { stopctl := 5, stopcyc := 9, stopped := true } }
     s.freezeDue = true ∧ s.stopsHere = true) ∧
    (∀ full : Bool, ((demoAtt (if full then 1 else 4) 0 demo).attBusy (if full then 1 else 4) = true)) ∧
    ((demoAtt 4 0 demo).rep.attSize < ((demoAtt 4 0 demo).imageNow false).length) ∧
    (((demoAtt 4 4096 demo).imageNow false).length ≤ (demoAtt 4 4096 demo).rep.attSize ∧
      exists? 1 (demoAtt 4 4096 demo).rep.attBase.toNat ((demoAtt 4 4096 demo).imageNow false).length = true) ∧
    (demo.toDomain = demoTwin.toDomain ∧ demo.gateHeld = demoTwin.gateHeld) ∧
    (demoAtt 2 0 demo).attBusy 2 = true ∧
    (∀ bs ∈ [[], atticImage [1], atticImage []], (demoRestart bs).attBusy 3 = true) ∧
    (demoRestart []).digestsHold = false ∧
    ((demoRestart (atticImage [1])).digestsHold = true ∧
      natBytes (((demoRestart (atticImage [1])).attHead.1.drop 32).take 48) ≠ sha384 (demoRestart (atticImage [1])).firmware) ∧
    (demoRestart (atticImage [])).restartCheck = 0 ∧
    (∀ now ∈ [4, 5], let e : LogEntry := { cycle := 5, gate := 16, ctx := 0, body := .arrival 0 (.event (.heartbeat none)) }
     let s : State := { demo with cycle := now, rep := { mode := 2, log := { entries := [e] } } }
     s.rep.mode = 2 ∧ s.rep.log.arrivals[s.rep.next]? = some (e, 0, .event (.heartbeat none)) ∧ e.held = none ∧
      (e.cycle ≤ s.cycle ∨ s.cycle < e.cycle)) ∧
    (let s : State := { demo with cycle := 5, rep := { mode := 2 } }
     s.rep.mode = 2 ∧ s.rep.log.arrivals.length ≤ s.rep.next) := by
  refine ⟨?_, ?_, fun full => ?_, ?_, ?_, ?_, ?_, ?_, ?_, ?_, ?_, ?_, ?_⟩
  case refine_3 => cases full <;> decide +kernel
  case refine_4 => rw [State.imageNow_digest_length, State.parts_length]; decide +kernel
  case refine_5 => rw [State.imageNow_digest_length, State.parts_length]; decide +kernel
  all_goals decide +kernel

/-! ### Witnesses: debugging, faults, errors -/

/-- The small state with an owner, its context debuggable and the wave's identity word 5. -/
def demoDbg : State :=
  let s : State := { demoW (fun w => { w with ident := 5 }) with owned := true, owner := 7 }
  s.updCtx 1 fun c => { c with debug := true }

theorem witness_DebugAndObservation :
    (demoDbg.mayDebug 1 7 = true ∧ demoDbg.waveByIdent 1 6 = none ∧ demoDbg.waveByIdent 1 5 = some demoKey ∧
      demoDbg.mayDebug 1 8 = false ∧ demoDbg.mayControl 1 8 = false) ∧
    (let s : State := { demo with owned := true, owner := 7 }
     s.mayDebug 1 7 = false ∧ s.mayControl 1 7 = true) ∧
    ((demoDbg.waveAt demoKey).debugReg 0x800605 = some (.vec 5 3) ∧ (demoDbg.waveAt demoKey).debugReg 24 = some (.sys 24) ∧
      sysWritable 24 = false) ∧
    (let c : Ctx := { debug := true, smpctl := 0x10A00#32, smpsize := 80#32 }
     let s : State := { State.reset with ctxs := [(1, c)], cycle := 1024 }
     s.sampleDue c = true ∧ (∀ p < 8, s.occupied 0 p = []) ∧ 1 ≤ (c.smpsize.toNat - 64) / 8) ∧
    (∀ c ∈ demoDbg.ctxs, demoDbg.sampleDue c.2 = false) ∧
    demo.findings = [] ∧
    demoDbg.images = [] := by
  decide +kernel

/-- An entry of the fault replay buffer that has been sent to the host, for page 3 of 4,096 bytes. -/
def demoAsk : FrbEntry := { party := .wave demoKey, core := 0, ctx := 1, page := 3, kind := .pri, sent := some 0 }

theorem witness_FaultAnswersAndErrors :
    (((demo.updCtx 1 fun c => { c with policy := true }).ctxAt 1).policy = true ∧ (demo.ctxAt 1).policy = false) ∧
    (let s : State := { demo with frb := [demoAsk], cycle := 14000000 }
     (∃ e ∈ s.frb, e.sentFor 1 (0x3008 / 4096) = true ∧ s.priExpired e = true) ∧ s.frb[0]? = some demoAsk) ∧
    demo.migration 1 (2 ^ 30) = none ∧
    ((demo.updCtx 1 fun c => { c with policy := true }).absentAt 1 0 4 0 (demo.ctxAt 1).ptbase.toNat = none ∧
      ((demo.updCtx 1 fun c => { c with policy := true }).absentAt 1 (2 ^ 30) 4 0 (demo.ctxAt 1).ptbase.toNat).isSome = true) ∧
    (State.reset.shoot = [] ∧ ∀ n ∈ [1, 2, 3],
      let x : Shoot := { ctx := 1, page := 2, step := n }
      ({ demo with shoot := [x] } : State).shoot = [x]) ∧
    (let s := demoB fun b => { b with shelf := [(0, {})] }
     ∀ e ∈ [ErrLoc.vreg demoKey 63 3, .vreg demoKey 1024 0, .sreg demoKey 127, .fpc demoKey 0, .tile demoKey 7 1023,
        .shelf demoBlk 0 1023, .scratch demoBlk 8191, .line demoBlk 63, .imem 47 3 16383, .granule 0 (576 * 2 ^ 30 - 1),
        .granule 1 0, .tags 0 32, .cache 0 0 0], s.struck e = true) ∧
    (demo.errSize = 0 ∧ ({ demo with errSize := 16 } : State).errSize ≠ 0) := by
  decide +kernel

/-- Page tables in the frame `root`, which map the page at 0 to the frame `leaf` of HBM4. -/
def movable (root leaf : Nat) : State :=
  let c : Ctx := { ptbase := BitVec.ofNat 64 (root * 2 ^ 16) }
  { State.reset with ctxs := [(1, c)], hbm := (List.range 5).flatMap fun k =>
      ((leBytes 8 (1 + if k < 4 then root * 2 ^ 16 + 4096 * (k + 1) else leaf * 2 ^ 16)).mapIdx fun i b =>
        (root * 2 ^ 16 + 4096 * k + i, b)).filter fun c => c.2 ≠ 0 }

/-- Whichever frame the policy picks, some page can move there. -/
theorem witness_MigrationMoves : ∃ s m, State.migration s 1 0 = some m := by
  have walk : ∀ root ∈ [0, 1], ∀ leaf ∈ [2, 3],
      (movable root leaf).walk ((movable root leaf).anyHostPage 1) 0 4 0 ((movable root leaf).ctxAt 1).ptbase.toNat = .leaf 0 (leaf * 2 ^ 16 + 1) ∧
      entryTier (leaf * 2 ^ 16 + 1) = 0 ∧ entryAddr (leaf * 2 ^ 16 + 1) / 2 ^ 16 * 2 ^ 16 = leaf * 2 ^ 16 ∧
      (∀ c ∈ (movable root leaf).hbm, root * 2 ^ 16 ≤ c.1 ∧ c.1 < (root + 1) * 2 ^ 16) := by decide +kernel
  generalize hx : Config.migTarget 0 = x
  obtain ⟨root, hr, hr'⟩ : ∃ root ∈ [0, 1], x.2 % (Config.hbmBytes / 2 ^ 16) ≠ root := by
    by_cases h : x.2 % (Config.hbmBytes / 2 ^ 16) = 0
    · exact ⟨1, by simp, by omega⟩
    · exact ⟨0, by simp, h⟩
  obtain ⟨leaf, hl, hl'⟩ : ∃ leaf ∈ [2, 3], x.2 % (Config.hbmBytes / 2 ^ 16) ≠ leaf := by
    by_cases h : x.2 % (Config.hbmBytes / 2 ^ 16) = 2
    · exact ⟨3, by simp, by omega⟩
    · exact ⟨2, by simp, h⟩
  obtain ⟨h1, h2, h3, h4⟩ := walk root hr leaf hl
  have hf : (movable root leaf).fresh = 0 := rfl
  have hd : (movable root leaf).ddr = [] := rfl
  have hp : (movable root leaf).poison = [] := rfl
  have ht : (movable root leaf).tags = [] := rfl
  refine ⟨movable root leaf, Option.isSome_iff_exists.mp ?_⟩
  simp only [State.migration, h1, hf, hx, h2, h3, State.frameFree, hd, hp, ht, List.all_nil, Bool.and_true, pageShift]
  rw [if_pos]
  · rfl
  simp only [Bool.and_eq_true, decide_eq_true_eq, ne_eq, Prod.mk.injEq, not_and]
  by_cases hz : x.1 % 2 = 0
  · simp only [hz, if_true, List.all_eq_true, Bool.or_eq_true, decide_eq_true_eq]
    exact ⟨⟨fun c hc => by have := h4 c hc; omega, by omega⟩, fun _ => by omega⟩
  · simp [hz]
    omega

/-! ### Witnesses: links, resets, power -/

theorem witness_Links :
    (let s : State := { State.reset with ctxs := [(1, { rank := 1, jobSize := 3 })], cycle := 2 ^ 21, linksDown := [0] }
     s.beatDue = true ∧ s.silent 0 = true ∧ s.isPeer 0 = true ∧ 2 ∉ s.linksDown ∧ 0 ∈ s.linksDown ∧ s.detour 0 = some 2 ∧
      s.isPeer 1 = false ∧ s.isOwn 1 = true ∧ ({ s with resends := [(0, 0)] } : State).resendDue.contains 0 = true ∧
      0 ∉ s.ports ∧ s.alignDue = true ∧ s.aligns = true) := by
  decide +kernel

/-- A package that waits for an image of 4,096 or 4,095 bytes, a fetch under way or not. -/
def demoWaits (len : Nat) (busy : Bool) : State :=
  { State.reset with boot :=
      { stage := 2, rcvstat := if busy then 0xC0000000#32 else 0x80000000#32, rcvlen := BitVec.ofNat 32 len } }

theorem witness_Resets :
    State.reset.boot.stage = 6 ∧ State.reset.waitsImage = false ∧
    ((demoWaits 4096 false).waitsImage = true ∧ (demoWaits 4096 false).fetching = false) ∧
    (∀ len ∈ [4095, 4096, 2 ^ 25, 2 ^ 25 + 1],
      (demoWaits len true).waitsImage = true ∧ (demoWaits len true).fetching = true ∧
        (demoWaits len true).boot.rcvlen.toNat = len) := by
  decide +kernel

theorem witness_PowerAndRegisters :
    ((∀ t ∈ [800], t ≤ 800) ∧ ((2400 :: State.reset.boot.powers.take 99).take 100).sum ≤ 100 * State.reset.pwrcap) ∧
    (let s : State := { demo with owned := true, owner := 7, admReq := [(0, 9#32)], rep := { mode := 1 } }
     s.isOwner 7 = true ∧ s.isOwner 8 = false ∧ s.admBusy = false ∧ 1 ≤ (tget s.admReq 0 0).toNat % 256 ∧
      (tget s.admReq 0 0).toNat % 256 ≤ 9 ∧ s.mayControl 1 7 = true ∧ s.mayControl 1 8 = false ∧
      (s.queueAt 1 15).ctl % 2 = 0 ∧ s.boot.stage = 6) ∧
    (let s : State := { demo with ctxs := [(1, { demoCtx with conf := true, tdi := 4 })] }
     s.boot.stage = 6 ∧ (s.ctxAt 1).conf = true ∧ onStream 7 4 = false) ∧
    (demoWaits 4096 false).waitsImage = true := by
  decide +kernel
/-! ### Witnesses: words and steps -/

theorem witness_RoundTrip : (Instr.sadd 3 4 5).wf = true ∧ encode (.sadd 3 4 5) = some 0x1800C205 := by decide +kernel

theorem witness_ImmediateShiftWords : ((127 : Nat) < 128 ∧ (127 : Nat) < 128 ∧ (511 : Nat) < 512) ∧
    (∀ n ∈ [31, 32], (decode (4 * 2 ^ 27 + 4 * 2 ^ 23 + n)).isSome = decide (n < 32)) ∧
    ∀ n ∈ [63, 64], (decode (8 * 2 ^ 27 + 4 * 2 ^ 23 + 3 * 2 ^ 21 + n)).isSome = decide (n < 64) := by
  decide +kernel

/-- What `Issuing` asks, by evaluation. -/
noncomputable def issuingB (s : State) : Bool :=
  s.boot.power && decide (s.boot.stage = 6) && !s.frozen && !s.freezeDue && s.admitted.isEmpty && !s.loggedDue &&
    s.nextArrival.isNone && s.punctual.isNone && !s.turn && !s.candidates.isEmpty

theorem issuing_of {s : State} (h : issuingB s = true) : Issuing s := by
  simp only [issuingB, Bool.and_eq_true, decide_eq_true_eq, Bool.not_eq_true', List.isEmpty_iff, List.isEmpty_eq_false_iff,
    Option.isNone_iff_eq_none] at h
  obtain ⟨⟨⟨⟨⟨⟨⟨⟨⟨h1, h2⟩, h3⟩, h4⟩, h5⟩, h6⟩, h7⟩, hp⟩, h8⟩, h9⟩ := h
  exact ⟨h1, h2, h3, h4, h5, h6, h7, hp, .inl ⟨h8, h9⟩⟩

/-- A wave at an instruction, at a word that is none, at a poisoned word and with a trap to take; a wave that is halted;
an event that has its turn. -/
theorem witness_StepRuns :
    (∀ n ∈ [0x1800C205, 0xF8000000], let s := State.reset.withFetchWord 32 n
      Issuing s ∧ tfind? s.waves fetchWave = some State.fetcher ∧ s.runnable State.fetcher = true ∧
        s.boundary State.fetcher = none ∧ s.fetchPoisoned State.fetcher = false ∧
        (decode ((s.coreAt State.fetcher.core).fetch State.fetcher.regs.pc).toNat).isSome = decide (n = 0x1800C205)) ∧
    (let s := (State.reset.withFetchWord 32 0).updCore 0 fun c => { c with slots := [(0, { ov := some 0, pois := [0] })] }
     Issuing s ∧ s.runnable State.fetcher = true ∧ s.fetchPoisoned State.fetcher = true) ∧
    (let w : Wave := { State.fetcher with pend := [{ trap := State.fetcher.watchdogTrap }] }
     let s : State := { State.reset.withFetchWord 32 0 with waves := [(fetchWave, w)] }
     Issuing s ∧ s.runnable w = true ∧ s.fetchPoisoned w = false ∧ s.boundary w ≠ none) ∧
    (let w : Wave := { State.fetcher with halted := true }
     let s : State := { State.reset.withFetchWord 32 0 with waves := [(fetchWave, w)] }
     s.runnable w = false) ∧
    (let w : Wave := { State.fetcher with stores := [{}] }
     let s : State := { State.reset.withFetchWord 32 0 with waves := [(fetchWave, w)], turn := true }
     s.boot.power = true ∧ s.boot.stage = 6 ∧ s.frozen = false ∧ s.freezeDue = false ∧ s.admitted = [] ∧
      s.loggedDue = false ∧ s.nextArrival = none ∧ s.punctual = none ∧
      s.dueEvent = some (.storePerformed { w := fetchWave })) ∧
    (let s : State := { State.reset.withFetchWord 32 0 with cycle := 2 ^ 21 }
     s.boot.power = true ∧ s.boot.stage = 6 ∧ s.frozen = false ∧ s.freezeDue = false ∧ s.admitted = [] ∧
      s.loggedDue = false ∧ s.nextArrival = none ∧ s.punctual = some .waitForReading) := by
  refine ⟨fun n hn => ⟨issuing_of ?_, ?_⟩, ⟨issuing_of ?_, ?_⟩, ⟨issuing_of ?_, ?_⟩, ?_, ?_, ?_⟩
  · revert n; decide +kernel
  · revert n; decide +kernel
  all_goals decide +kernel

/-- SADD of R119's first step: the wave of `State.withFetchWord` in the state after reset. -/
theorem witness_StepKeepsMemory :
    State.reset.MemWf ∧ ∃ t, step (State.reset.withFetchWord 32 0x18004102) = .next t :=
  ⟨by unfold State.MemWf; decide +kernel, _, rfl⟩
/-! ### Single steps with the results of the spec's worked examples -/

/-- The registers after the instruction of a word, by the wave of the small state with these registers. -/
noncomputable def ran (word width : Nat) (em : Mask) (sregs : Tbl Word) (vregs : Tbl Lanes) : Option WaveRegs :=
  match decode word with
  | some i => match exec i (demoW fun w => { w with width := width, regs := { w.regs with em := em, sregs := sregs, vregs := vregs } }) with
    | .next t => some t.regs
    | .fault _ | .refused _ => none
  | none => none

/-- A scalar register, and lane 0 of a vector register with the lane's fpc, after it. -/
def sOf (r : Option WaveRegs) (k : Nat) : Option Word := r.map fun r => tget r.sregs k 0
def vOf (r : Option WaveRegs) (k : Nat) : Option (Word × Word) := r.map fun r => (lane (tget r.vregs k []) 0, lane r.fpc 0)

/-- spec/04_integer.md, after R112: sbfx s1, s2, s3 is 0x1B204103; sbfi is the next opcode, s1 = 0, s4 = 0xFF. -/
theorem test_sbfx :
    sOf (ran 0x1B204103 4 1 [(2, 0x89ABCDEF), (3, 0x808)] []) 1 = some 0xCD ∧
    sOf (ran 0x1B204103 4 1 [(2, 0x89ABCDEF), (3, 0x10808)] []) 1 = some 0xFFFFFFCD ∧
    sOf (ran 0x1B204103 4 1 [(2, 0x89ABCDEF), (3, 0x1081C)] []) 1 = some 0xFFFFFFF8 ∧
    sOf (ran 0x1B404203 4 1 [(4, 0xFF), (3, 0x81C)] []) 1 = some 0xF0000000 := by decide +kernel

/-- spec/04_integer.md, after R118. -/
theorem test_vmad : vOf (ran 0x37A10286 4 1 [] [(5, [0x0003FFFF]), (6, [0x00020002]), (4, [0x00010005])]) 4 =
    some (0x00070003, 0) := by decide +kernel

/-- spec/05_float.md, after R152: fmin.f32, fminn.f32 and fmul.bf16 v1, v2, v3. -/
theorem test_float :
    vOf (ran 0x4A404103 4 1 [] [(2, [0x80000000]), (3, [0])]) 1 = some (0x80000000, 0) ∧
    vOf (ran 0x4A404103 4 1 [] [(2, [0x7F800001]), (3, [0x3F800000])]) 1 = some (0x7FC00001, 0x100) ∧
    vOf (ran 0x4B404103 4 1 [] [(2, [0x7F800001]), (3, [0x3F800000])]) 1 = some (0x3F800000, 0x100) ∧
    vOf (ran 0x49204103 4 1 [] [(2, [0x0040]), (3, [0x4000])]) 1 = some (0, 0x2000) ∧
    vOf (ran 0x49204103 4 1 [] [(2, [0x0080]), (3, [0x3F00])]) 1 = some (0, 0x1800) := by decide +kernel

/-- spec/05_float.md, after R153: ffma.f32 v4, v5, v6. -/
theorem test_ffma :
    vOf (ran 0x58410286 4 1 [] [(5, [0x3F800001]), (6, [0x3F7FFFFE]), (4, [0xBF800000])]) 4 = some (0xA8800000, 0) := by
  decide +kernel

/-- spec/05_float.md, after R162: frsq.f32 v7, v8. -/
theorem test_frsq :
    vOf (ran 0x68C1C400 4 1 [] [(8, [0x40800000])]) 7 = some (0x3F000000, 0) ∧
    vOf (ran 0x68C1C400 4 1 [] [(8, [0x40000000])]) 7 = some (0x3F3504F3, 0x1000) ∧
    vOf (ran 0x68C1C400 4 1 [] [(8, [0x80000000])]) 7 = some (0xFF800000, 0x200) := by decide +kernel

/-- spec/05_float.md, after R159: the third of four conversions to e4m3. -/
theorem test_vcvt : vOf (ran 0x6200C612 4 1 [] [(3, [0x0000C238]), (12, [0x43E80000])]) 3 = some (0x007EC238, 0x1000) := by
  decide +kernel

/-- spec/04_integer.md, after R137: vmatch.f32 v8, v9 in lanes 0 to 7 of 16. -/
theorem test_vmatch :
    (ran 0x79020481 16 0xFF [] [(9, [0x3F800000, 0, 0x80000000, 0x7FC00000, 0x3F800000, 0xFFC00001, 0, 0x7F800001, 0x3F800000])]).map
      (fun r => (tget r.vregs 8 []).take 8) =
    some [0x00020000, 0x00030001, 0x00030101, 0x00030003, 0x80020100, 0x00030103, 0x80030201, 0x80030203] := by
  decide +kernel

/-- The word of the spec's table of encodings, numbered as the opcode table numbers it (R42). -/
theorem test_decodeTableWord : decodeTableWord 32 0x1800C205 = some (.sadd 3 4 5) := by decide +kernel

/-! ### Witnesses: speculation and faults of accesses -/

/-- At an instruction with a lower wait of its own, at the limits with and without a load of v4 outstanding, past a trap. -/
theorem witness_SpeculationWaits :
    (let s := (demoSpec id).setWave { (demoSpec id).wave with loads := [{ dests := [(4, [])], mask := 1 }] }
     (∃ sp, s.wave.spec = some sp ∧ sp.deferred = none) ∧ ¬ s.wave.loads.length ≤ 0 ∧ s.wave.loads.length ≤ 1) ∧
    (∀ n ∈ [47, 48], (demoSpec fun sp => { sp with instrs := n }).wave.spec.isSome = true) ∧
    (let s := demoSpec fun sp => { sp with instrs := 48 }
     firstBad s (planSSS 1 2 3).ops = none ∧ (∀ sz, firstBad s (planVVV (regsOf sz) 2 4 6).ops = none ∧
      ∀ o ∈ (planVVV (regsOf sz) 2 4 6).ops, o.busy s.wave = false)) ∧
    (let s := (demoSpec fun sp => { sp with writes := 32 }).setWave
       { (demoSpec fun sp => { sp with writes := 32 }).wave with loads := [{ dests := [(4, [])], mask := 1 }] }
     ∀ sz, firstBad s (planVVV (regsOf sz) 2 4 6).ops = none ∧
      ∃ o ∈ (planVVV (regsOf sz) 2 4 6).ops, o.busy s.wave = true) := by
  refine ⟨?_, ?_, ⟨?_, fun sz => ?_⟩, fun sz => ?_⟩
  all_goals first | (cases sz <;> decide +kernel) | decide +kernel

/-- A store at address 2, at 2^57 and at an address without a page; a misaligned lane comes before one out of range. -/
theorem witness_StoreFaults :
    (let s := demoR fun r => { r with sregs := [(6, 2)] }
     Clear s { ops := [.v 2 1 true, .v 4 1 true, .s 6 2 true] } ∧
      ((globalReqs s.regs 4 6 4).filter fun q => q.va % 4 ≠ 0) ≠ []) ∧
    (let s := demoR fun r => { r with sregs := [(7, 0x2000000#32)] }
     Clear s { ops := [.v 2 1 true, .v 4 1 true, .s 6 2 true] } ∧
      ((globalReqs s.regs 4 6 4).filter fun q => q.va % 4 ≠ 0) = [] ∧
      ((globalReqs s.regs 4 6 4).filter fun q => 2 ^ 57 ≤ q.va) ≠ []) ∧
    (let s : State := demo.setWave { demo.wave with regs := { demo.regs with sregs := [(6, 0x10000#32)] } }
     Clear s { ops := [.v 2 1 true, .v 4 1 true, .s 6 2 true] } ∧ s.wave.spec = none ∧ s.wave.stores.length < 31 ∧
      ∃ s1 qs resp, s.accept (.wave s.cur) s.wave.core s.launch.ctx true false (globalReqs s.regs 4 6 4) =
       .fail s1 0x09 qs resp) := by
  refine ⟨⟨clear_of ?_, ?_⟩, ⟨clear_of ?_, ?_⟩, clear_of ?_, ?_, ?_, ⟨_, _, _, rfl⟩⟩ <;> decide +kernel

/-- A pair of words of private memory below the limit, held; one whose second word is at it. -/
theorem witness_PrivatePairs :
    (let s := demoSpec id
     Clear s { ops := [.v 2 2 true, .v 4 1 true, .s 6 1 true] } ∧ s.wave.privAll 4 6 2 ≠ [] ∧
      privStage s.regs 4 6 2 = none ∧ s.regs.wdctl.toNat / 64 % 2 = 0 ∧
      ∃ y, okPlaces (s.accept (.wave s.cur) s.wave.core s.launch.ctx true true (s.wave.privAll 4 6 2)) = some y ∧ Room s y.2) ∧
    ∀ n ∈ [1, 2],
     let s := demoR fun r => { r with sregs := [(6, BitVec.ofNat 32 (65 - n))] }
     Clear s { ops := [.v 2 n false, .v 4 1 true, .s 6 1 true], writes := n } ∧
      Clear s { ops := [.v 2 n true, .v 4 1 true, .s 6 1 true] } ∧
      ((lanesOf s.regs.em).filter fun l => decide ((s.regs.ctxS 16).toNat ≤
        (lane (s.regs.v 4) l).toNat + (s.regs.s 6).toNat + (n - 1))) ≠ [] := by
  unfold Room
  refine ⟨⟨clear_of ?_, ?_, ?_, ?_, ⟨_, rfl, ?_⟩⟩, fun n hn => ⟨clear_of ?_, clear_of ?_, ?_⟩⟩
  all_goals first | decide +kernel | (revert n; decide +kernel)

/-- On a speculated path, line 1 OPEN and line 0 FULL. -/
def demoSpecPad (a : Nat) : State :=
  (demoSpec id).updRegs fun r => { r with sregs := [(6, BitVec.ofNat 32 a)] }

theorem witness_SpeculatedScratch :
    ∀ sz, let n := regsOf sz
      let s := demoSpecPad 128
      let rs := padReqs s.regs 4 6 (bytesOf sz)
      rs ≠ [] ∧ s.wave.loads.length < 63 ∧ s.regs.wdctl.toNat / 64 % 2 = 0 ∧
      Clear s { ops := [.v 2 n false, .v 4 1 true, .s 6 1 true], writes := n } ∧
      Clear s { ops := [.v 8 (2 * n) false, .v 4 1 true, .s 6 1 true], writes := n + 1 } ∧
      Clear s { ops := [.v 2 n true, .v 4 1 true, .s 6 1 true] } ∧
      padStage s.regs rs true 0 = none ∧ padStage s.regs rs true 1 = none ∧ s.openFoes .r rs = [] ∧
      (∃ sp, s.wave.spec = some sp ∧ sp.held.length < 16) ∧ s.allOpen (linesOf rs) = true ∧
      (demoSpecPad 0).allOpen (linesOf (padReqs (demoSpecPad 0).regs 4 6 (bytesOf sz))) = false := by
  intro sz
  refine ⟨?_, ?_, ?_, clear_of ?_, clear_of ?_, clear_of ?_, ?_, ?_, ?_, ⟨_, rfl, ?_⟩, ?_, ?_⟩ <;>
    cases sz <;> decide +kernel

/-- Two waves of a block that have waited at barrier 3; a poisoned signal word. -/
theorem witness_BarrierTurnAndPoisonedSignal :
    (let s := (demoB fun b => { b with nw := 2 }).setWave { demo.wave with stall := 16, stallObj := 3, since := 0 }
     Clear s { spec := false } ∧ s.barTurn 3 = false ∧ s.hasArrived 3 = false) ∧
    (let s : State := { demo with poison := [0] }
     Clear s { ops := [.s 2 2 true, .s 6 2 true], spec := false } ∧ s.poisonAt 0 0 = true ∧ s.regs.priv = false ∧
      MaySync s ∧ ∃ s1 ps, Reached s 3 false false [{ lane := 0, va := 0, n := 8 }] s1 ps) := by
  refine ⟨⟨clear_of ?_, ?_, ?_⟩, clear_of ?_, ?_, ?_, mayLog ?_, reached_of ?_⟩ <;> decide +kernel

/-! ### Witnesses: the service of copies -/

theorem got_ok {α : Type} {x : Got α} {y : State × α} (h : gotOk x = some y) : x = .ok y.1 y.2 := by
  cases x with
  | ok s a => cases h; rfl
  | stall | fail | nowhere => cases h

/-- A block's one copy, which its core's engine serves next. -/
def copyOf (e : CopyEntry) : State :=
  { demo with cores := [(0, { copyq := [(0, { e with blk := demoBlk, busy := true, wave := demoKey })] })] }

/-- What a copy's read of global memory gives, by evaluation. -/
def readGot (s : State) (a len : Nat) : Option (State × List Byte) :=
  (gotOk (s.engineCheck (s.copyActor 0 0) 5 false (granReqs a len))).bind fun y =>
    if y.2.all fun x => !y.1.poisonAt x.tier x.pa then
      some (y.1.engineTouch (s.copyActor 0 0) 5 y.2, s.placeBytes y.2)
    else none

theorem source_of {s : State} {a len : Nat} {y : State × List Byte} (hs : (s.entryAt 0 0).sspace ≠ 1)
    (h : readGot s a len = some y) : CopySource s 0 0 a len y.1 y.2 := by
  unfold readGot at h
  rw [Option.bind_eq_some_iff] at h
  obtain ⟨z, hz, h⟩ := h
  split at h
  · rename_i hp
    cases h
    simp only [CopySource, if_neg hs]
    exact ⟨z.1, z.2, got_ok hz, by simpa using hp, rfl, rfl⟩
  · cases h

/-- A copy of global memory that reads all its ranges, makes `out` of them, and finds its place for it, by evaluation. -/
def pieceB (s : State) (reads : List (Nat × Nat)) (a : Nat) (f : List Byte → Option (List Byte × Nat)) : Bool :=
  match reads with
  | [(x, len)] =>
    decide ((s.coreAt 0).nextEntry = some 0) && !(s.entryAt 0 0).waiting && !s.copyRemote 0 0 &&
      decide ((s.entryAt 0 0).held = none) && decide (((serving s 0 0).entryAt 0 0).sspace ≠ 1) &&
      (readGot (serving s 0 0) x len).any fun y => (f y.2).any fun z =>
        decide (z.1 ≠ []) && decide (a % 128 + z.1.length ≤ 128) &&
          (decide ((s.entryAt 0 0).dspace = 1) ||
            (gotOk ((y.1.updEntry 0 0 fun e => { e with held := some z.1, flags := e.flags ||| z.2 }).engineCheck
              (s.copyActor 0 0) 6 true (granReqs a z.1.length))).isSome)
  | _ => false

/-- The hypotheses of `PieceMoved` together. -/
theorem piece_of {s : State} {x len a : Nat} {f : List Byte → Option (List Byte × Nat)}
    (h : pieceB s [(x, len)] a f = true) :
    Serves s 0 0 ∧ (s.entryAt 0 0).held = none ∧ s.copyRemote 0 0 = false ∧
      ∃ s1 bs out flags, CopySources (serving s 0 0) 0 0 [(x, len)] s1 bs ∧ f bs = some (out, flags) ∧ out ≠ [] ∧
        a % 128 + out.length ≤ 128 ∧ ((s.entryAt 0 0).dspace ≠ 1 → ∃ s3 qs,
          (s1.updEntry 0 0 fun e => { e with held := some out, flags := e.flags ||| flags }).engineCheck
            (s.copyActor 0 0) 6 true (granReqs a out.length) = .ok s3 qs) := by
  simp only [pieceB, Bool.and_eq_true, decide_eq_true_eq, Bool.not_eq_true', Option.any_eq_true, Bool.or_eq_true,
    Option.isSome_iff_exists] at h
  obtain ⟨⟨⟨⟨⟨h1, h2⟩, h3⟩, h4⟩, h5⟩, y, hy, z, hz, ⟨h6, h7⟩, h8⟩ := h
  refine ⟨⟨h1, h2⟩, h4, h3, y.1, y.2, z.1, z.2, ⟨y.1, y.2, [], source_of h5 hy, ⟨rfl, rfl⟩, by simp⟩, hz, h6, h7, fun hd => ?_⟩
  rcases h8 with h8 | ⟨w, hw⟩
  · exact absurd h8 hd
  · exact ⟨_, _, got_ok hw⟩

/-- `dcp` of 64 bytes from 0 to 128; the second of two rows of `dcp2`; a gathered row; a part of a copy for rank 1. -/
theorem witness_CopyService :
    pieceB (copyOf { words := [0, 0, 128, 0, 64, 0, 0, 0] }) [(0, 64)] 128 (fun bs => some (bs, 0)) = true ∧
    pieceB (copyOf { kind := .dcp2, words := [0, 0, 1024, 0, 64, 256, 128, 2], done := 64 }) [(256, 64)] 1152
      (fun bs => some (bs, 0)) = true ∧
    pieceB (copyOf { kind := .dcpg, words := [0, 0, 1024, 0, 64, 128, 0, 0], ctl := 0xE0000000#32, rows := [512] })
      [(512, 64)] 1024 (fun bs => some (bs, 0)) = true ∧
    (let e : CopyEntry := { kind := .dcpg, words := [0, 0, 1024, 0, 64, 128, 0, 0], ctl := 0xE0000000#32, rows := [512] }
     e.op = 7 ∧ rowFrom e 0 = 512 ∧ rowTo e 0 = 1024 ∧ e.nrows = 1) ∧
    (let e : CopyEntry := { kind := .dcp2, words := [0, 0, 1024, 0, 64, 256, 128, 2] }
     rowFrom e 1 = 256 ∧ rowTo e 1 = 1152 ∧ e.nrows = 2) ∧
    (let s := copyOf { words := [0, 0, 128, 0, 64, 0, 0, 0x02100000], held := some (List.replicate 64 0) }
     (s.coreAt 0).nextEntry = some 0 ∧ (s.entryAt 0 0).waiting = false ∧ s.copyRemote 0 0 = true ∧
      (s.entryAt 0 0).crypts = false ∧ s.reaches (s.copyActor 0 0).ctx 1 = true ∧
      ({ s with lostRanks := [1] } : State).reaches (s.copyActor 0 0).ctx 1 = false) ∧
    (let s := copyOf { words := [0, 0, 128, 0, 64, 0, 0, 0x02100000], done := 64 }
     (s.coreAt 0).nextEntry = some 0 ∧ (s.entryAt 0 0).waiting = false ∧ s.copyRemote 0 0 = true ∧
      (s.entryAt 0 0).nrows * (s.entryAt 0 0).rowDst ≤ (s.entryAt 0 0).done) ∧
    (let s : State := { copyOf { words := [0, 0, 128, 0, 64, 0, 0, 0x02100000], done := 64, waiting := true
                                 closing := some (0, 0), ident := 0x80, id := 5 } with
       answers := [{ rank := 1, ident := 0x80, seq := 5 }] }
     (s.coreAt 0).nextEntry = some 0 ∧ (s.entryAt 0 0).waiting = true ∧
      ∃ x, takeAnswer (s.entryAt 0 0).peer (s.entryAt 0 0).ident.toNat (s.entryAt 0 0).id s.answers = some x) := by
  refine ⟨?_, ?_, ?_, ?_, ?_, ?_, ?_, ?_, ?_, _, rfl⟩ <;> decide +kernel

/-- A copy from a page that does not translate fails; from and into the scratchpad, lines FULL, OPEN, EMPTY and FILLING. -/
theorem witness_CopyLines :
    (let s := copyOf { words := [0x10000, 0, 128, 0, 64, 0, 0, 0] }
     ∃ s1 err other, (serving s 0 0).engineCheck (s.copyActor 0 0) 5 false (granReqs 0x10000 64) = .fail s1 err other ∧
      err ≠ 0) ∧
    (let s := serving (copyOf { words := [0, 0, 256, 0, 64, 0, 0, 0x11000000] }) 0 0
     (s.entryAt 0 0).sspace = 1 ∧ (s.entryAt 0 0).dspace = 1 ∧ FirstAt s 0 0 [0] ∧ FirstAt s 0 0 [2] ∧
      ((s.blockAt demoBlk).line 0).st = .full ∧ ((s.blockAt demoBlk).line 2).st = .opened ∧ (s.blockAt demoBlk).spois = []) ∧
    (let s := (copyOf { words := [0, 0, 256, 0, 64, 0, 0, 0x01000000] }).updBlock demoBlk fun b => { b with lines := [] }
     ((s.blockAt demoBlk).line 2).st = .empty) ∧
    (let l : Line := { st := .filling, owner := .xfer (copyXfer demo 0 0) }
     l.fillingBy (.xfer (copyXfer demo 0 0)) = true ∧ { l with owner := .wave 7 }.fillingBy (.xfer (copyXfer demo 0 0)) = false) := by
  refine ⟨⟨_, _, _, rfl, ?_⟩, ⟨?_, ?_, ?_, ?_, ?_, ?_, ?_⟩, ?_, ?_, ?_⟩
  all_goals first | decide +kernel | (unfold FirstAt; decide +kernel)

/-- A conversion of four f32 to f16, aligned and misaligned; an expansion of one group of 16-bit elements, whose metadata
says places 1 and 3, or is wrong. -/
theorem witness_CopyConversions :
    (let e : CopyEntry := { kind := .dcpx, words := [0, 0, 128, 0, 4, 0, 0, 0], ctl := 0 }
     e.op = 0 ∧ pieceB (copyOf e) [(rowFrom e 0, (4 * e.bits.1 + 7) / 8)] (rowTo e 0) (fun bs => some (converted e 4 bs)) = true) ∧
    (let e : CopyEntry := { kind := .dcpx, words := [1, 0, 128, 0, 4, 0, 0, 0], ctl := 0 }
     32 ≤ e.bits.1 → rowFrom e 0 % (e.bits.1 / 8) ≠ 0) ∧
    (let e : CopyEntry := { kind := .dcpx, words := [0, 0, 128, 0, 1, 0, 0, 0x01000000], ctl := 0x20000400#32 }
     e.op = 1 ∧ e.ew = 2 ∧ e.dspace = 1 ∧ 4 * e.ew * e.word 4 > e.done ∧
      (expanded 2 1 ([1, 0, 2, 0, 13] : List Byte)).length = 8 ∧ expanded 2 1 ([1, 0, 2, 0, 5] : List Byte) = [] ∧
      (let s := copyOf e
       ((readGot (serving s 0 0) (e.src + 2 * 0 * e.ew) (2 * 1 * e.ew)).any fun y =>
        (readGot y.1 (e.src + 2 * e.word 4 * e.ew + 0) 1).isSome) = true)) := by
  refine ⟨?_, ?_, ?_⟩ <;> decide +kernel

/-- The small state's context with a key of zeros in slot 0. -/
def keyed (s : State) : State :=
  s.updCtx 1 fun c => { c with keys := [(0, { key := List.replicate 32 0, rsalt := 1, ssalt := 2 })] }

/-- Encryption of 16 bytes with none read yet and with all read; decryption of what does not match its tag; a destination
of the context's own. -/
theorem witness_CopyCrypto :
    (let s := keyed (copyOf { kind := .dcpx, words := [0, 0, 128, 0, 16, 0, 0, 0], ctl := 0x60000000#32 })
     (s.coreAt 0).nextEntry = some 0 ∧ (s.entryAt 0 0).waiting = false ∧ (s.entryAt 0 0).op = 3 ∧ (s.entryAt 0 0).held = none ∧
      s.copyRemote 0 0 = false ∧ (tfind? (s.ctxAt (s.copyActor 0 0).ctx).keys (s.entryAt 0 0).slot).isSome = true ∧
      (s.entryAt 0 0).buf.length < 16 ∧ OwnedDst (serving s 0 0) 0 0 (serving s 0 0) ∧
      (readGot (serving s 0 0) 0 16).isSome = true) ∧
    (let s := keyed (copyOf { kind := .dcpx, words := [0, 0, 128, 0, 16, 0, 0, 0], ctl := 0x60000000#32
                              buf := List.replicate 16 0 })
     (s.entryAt 0 0).buf.length = 16 ∧
      (gotOk (((serving s 0 0).updEntry 0 0 fun e => { e with held := some (List.replicate 32 0) }).engineCheck
        (s.copyActor 0 0) 6 true (granReqs 128 32))).isSome = true) ∧
    (let s := keyed (copyOf { kind := .dcpx, words := [0, 0, 128, 0, 16, 0, 0, 0], ctl := 0x40000000#32
                              buf := List.replicate 32 0 })
     (s.entryAt 0 0).op = 2 ∧ (serving s 0 0).decryptTurn 0 0 = true ∧ (s.entryAt 0 0).buf.length = 32 ∧
      (match (serving s 0 0).accept (s.copyActor 0 0).party (s.copyActor 0 0).core (s.copyActor 0 0).ctx true false
          (granReqs 128 16) with
        | .ok s1 ps => ps.all fun x => decide (x.tier ≠ 2) && s1.ctxs.all fun c => decide (c.1 = 1)
        | _ => false) = true ∧
      gcmOpen (List.replicate 32 0) (gcmIv 1 0) (List.replicate 16 0) (List.replicate 16 0) = none) := by
  refine ⟨⟨?_, ?_, ?_, ?_, ?_, ?_, ?_, ?_, ?_⟩, ?_, ?_⟩
  case refine_8 => unfold OwnedDst; exact rfl
  all_goals decide +kernel

/-- A contribution of one word with none and with all of it read, at its own rank and for rank 1; a misaligned source. -/
theorem witness_CopyReductions :
    (let s := copyOf { kind := .dcpr, words := [0, 0, 128, 0, 1, 0, 0, 0] }
     (s.coreAt 0).nextEntry = some 0 ∧ (s.entryAt 0 0).waiting = false ∧ (s.entryAt 0 0).src % 4 = 0 ∧
      (s.entryAt 0 0).dst % 4 = 0 ∧ (s.entryAt 0 0).buf.length < 4 ∧ (readGot (serving s 0 0) 0 4).isSome = true) ∧
    (let s := copyOf { kind := .dcpr, words := [0, 0, 128, 0, 1, 0, 0, 0], buf := [7, 0, 0, 0] }
     (s.entryAt 0 0).buf.length = 4 ∧ s.copyRemote 0 0 = false ∧ (tget (s.ctxAt 1).regions 0 {}).waiting = []) ∧
    (let s := copyOf { kind := .dcpr, words := [0, 0, 128, 0, 1, 0, 0, 0x02100000], buf := [7, 0, 0, 0] }
     s.copyRemote 0 0 = true ∧ s.reaches 1 (s.entryAt 0 0).peer = true) ∧
    (copyOf { kind := .dcpr, words := [2, 0, 128, 0, 1, 0, 0, 0] } |>.entryAt 0 0).src % 4 ≠ 0 := by
  decide +kernel

/-- `ratom` with its lane at rank 1, which has agreed; `rput` of a word for the OPEN line 1 of block 0. -/
theorem witness_RemoteAtomicsAndTransfers :
    (let s0 := demoW fun w => { w with ask := some (5, [1]), regs := { w.regs with vregs := [(6, [1])] } }
     let s : State := { s0 with answers := [{ rank := 1, ident := 0, seq := 5 }] }
     let xs := s.regs.atomLanes 4 6
     Clear s { ops := [.v 8 4 false, .v 4 2 true, .v 6 1 true], spec := false } ∧ xs ≠ [] ∧ s.cutLanes xs = [] ∧
      remoteFirst xs (s.regs.ctxS 10).toNat 2 true = none ∧ s.regs.atomPoison 8 xs = none ∧ s.otherRanks xs = [1] ∧
      s.wave.performedAt .job = true ∧ MaySync s ∧ ∃ s1 ps rest, PeersAgree s 2 true xs s1 ps rest) ∧
    (let s : State := { demoR (fun r => { r with vregs := [(4, [128])] }) with launches := [(1, { demoLaunch with scratch := 8192 })] }
     let xs := s.regs.plainLanes 4 6
     let items := s.regs.passItems true 2 xs
     Clear s { ops := [.v 2 1 true, .v 4 2 true, .v 6 1 true], spec := false } ∧ xs ≠ [] ∧ (∀ x ∈ xs, x.peer = s.ownRank) ∧
      remoteFirst xs (s.regs.ctxS 10).toNat 7 false = none ∧ s.wave.stores.length < 31 ∧ s.transfers = [] ∧
      (∀ i ∈ items, i.2.1 = 0 ∧ i.2.2.1 / 128 = 1 ∧ s.targetOf s.launch.ctx s.launch.jtag 0 i.2.2.1 true = .at demoBlk) ∧
      tfind? s.blocks demoBlk ≠ none ∧ s.lineTurn demoBlk s.cycle [1] = false ∧
      ∃ b', (s.blockAt demoBlk).arrive { issuer := s.wave.ident.toNat, kind := 1, word := (s.wave.ident + 0x80#32).toNat, id := s.fresh } 1
        (items.flatMap fun i => cellsAt i.2.2.1 i.2.2.2) = .ok b') := by
  refine ⟨⟨clear_of ?_, ?_, ?_, ?_, ?_, ?_, ?_, mayLog ?_, agree_of ?_⟩, clear_of ?_, ?_, ?_, ?_, ?_, ?_, ?_, ?_, ?_, _, rfl⟩ <;>
    decide +kernel

/-- A check without another rank's atomic in its way; a part of a copy of rank 1 for address 0. -/
theorem witness_RemoteRequests :
    (let l : RemoteLane := { lane := 0, addr := 0, data := 7, swap := 0, op := 0, wide := false, ret := false }
     let q : RemoteReq := { stage := .ask, ctx := 1, kind := .rst, ident := 0x10000000, lanes := [l] }
     let p := Party.remote q.ident 0
     ((okPlaces ((({ demo with waitReqs := demo.waitReqs.erase q } : State).unreserve p).accept p 48 q.ctx true false
        (reqLanes q))).any fun y => !y.1.contends p q.ctx (reqKind q) y.2) = true) ∧
    (let l : RemoteLane := { lane := 0, addr := 0, data := 0, swap := 0, op := 0, wide := false, ret := false }
     let q : RemoteReq := { stage := .go, ctx := 1, kind := .write, ident := 0x10000000, lanes := [l], bytes := [7] }
     (gotOk (({ demo with waitReqs := demo.waitReqs.erase q } : State).engineCheck
        { party := .remote q.ident 0, ident := BitVec.ofNat 32 q.ident, core := 48, ctx := q.ctx } 6 true
        (granReqs ((q.lanes.map RemoteLane.addr).headD 0) 1))).isSome = true) := by
  decide +kernel

/-- A contribution of the region 0 of the small state's context. -/
def contr (mode word5 total : Nat) (elems : List Nat) : Contribution :=
  { ctx := 1, region := 0, op := 0, mode := mode, word5 := word5, total := total, dst := 0, elems := elems, rank := 1
    index := false, core := 0, entry := 64 }

/-- ELEM contributions 32,767 and 32,768 places ahead; of SUM, one that overlaps, one of two halves, and the other. -/
theorem witness_Reductions :
    (∀ n ∈ [1, 32767], 0 < (n % 2 ^ 16 + 2 ^ 16 - (tget (demo.ctxAt 1).regions 0 {}).expect) % 2 ^ 16 ∧
      (n % 2 ^ 16 + 2 ^ 16 - (tget (demo.ctxAt 1).regions 0 {}).expect) % 2 ^ 16 < 32768 ∧
      contr 0 n 0 [7] ∉ demo.waitContrs ∧ demo.earlyHeld (controllerOf (contr 0 n 0 [7])) < 512) ∧
    32768 ≤ (32768 % 2 ^ 16 + 2 ^ 16 - (tget (demo.ctxAt 1).regions 0 {}).expect) % 2 ^ 16 ∧
    (let s := demo.updCtx 1 fun c => { c with regions := [(0, { parts := [contr 1 0 4 [1, 2]] })] }
     (∃ k, 0 ≤ k ∧ k < 2 ∧ (1 : Nat) ≤ k ∧ k < 1 + 2) ∧ (¬∃ k, 0 ≤ k ∧ k < 2 ∧ (2 : Nat) ≤ k ∧ k < 2 + 2) ∧
      (tget (s.ctxAt 1).regions 0 {}).waiting = [] ∧ 2 + min 1 (4 - 2) < 4 ∧ 4 ≤ 2 + min 2 (4 - 2) ∧
      (sumResult (([contr 1 0 4 [1, 2]] ++ [contr 1 2 4 [3, 4]]).map withinTotal)).isSome = true ∧
      (gotOk (s.engineCheck (s.contrActor (contr 1 2 4 [3, 4])) 2 true
        (granReqs 0 (redBytes 0) ++ granReqs 8 8))).isSome = true) := by
  refine ⟨?_, ?_, ⟨1, by omega⟩, fun ⟨k, hk⟩ => by omega, ?_⟩
  · intro n hn
    refine ⟨?_, ?_, ?_, ?_⟩
    case refine_4 =>
      have h : demo.earlyHeld (controllerOf (contr 0 n 0 [7])) = 0 := rfl
      omega
    all_goals (revert n; decide +kernel)
  all_goals decide +kernel

/-! ### Witnesses: the matrix engine, votes, blocks -/

/-- A line of a tile's image that is EMPTY, FULL and FILLING. -/
theorem witness_TileLines :
    ∀ st ∈ [LineSt.empty, .full, .filling],
      let o : TileOp := { kind := .mst, lines := [(1, List.replicate 128 0, [])] }
      let s := (demoW fun w => { w with tileOps := [o] }).updBlock demoBlk fun b => { b with lines := [(1, { st := st })] }
      s.engineHung (s.waveAt demoKey) = false ∧ (s.waveAt demoKey).tileOps = [o] ∧ o.done = false ∧
        ((s.blockAt (s.waveAt demoKey).blk).line 1).st = st ∧ s.lineTurn (s.waveAt demoKey).blk o.since [1] = false := by
  decide +kernel

/-- A member here that has cast at an ordinal whose timer has run out; votes gathered for a home at rank 1. -/
theorem witness_Timeouts :
    (let o : Ordinal := { votes := [(demo.memberOf demoKey, 0, true, false)], deadline := 5 }
     let s : State := { demoMember { cast := true } with
       cycle := 5, ctxs := [(1, { demoCtx with quorums := [(0, { word := 2, ords := [(0, o)] })] })] }
     (s.quorumAt 1 0).ords = [(0, o)] ∧ (s.quorumAt 1 0).due = [] ∧ o.deadline ≠ 0 ∧ o.deadline ≤ s.cycle ∧
      ∃ x ∈ s.waves, x.2.alive = true ∧ (s.launchAt x.2.launch).ctx = 1 ∧
        ∃ i < 4, x.2.slotByte i = 0 ∧ (tget x.2.quor i {}).ord = 0 ∧ (tget x.2.quor i {}).cast = true) ∧
    (let v : Vote := { ctx := 1, entry := 0, ordinal := 0, kind := .cast, member := 7, site := 0, value := true, code := 0 }
     let s : State := { demo with
       cycle := 5, ctxs := [(1, { demoCtx with quorums := [(0, { word := 2, gather := [(0, [v])], due := [(0, 5)] })] })] }
     (s.quorumAt 1 0).ords = [] ∧ (s.quorumAt 1 0).due = [(0, 5)] ∧ 5 ≤ s.cycle) := by
  decide +kernel

/-- A saved block without an image and with one; a block that a new core's overlays wait for; the watchdog at its limit, or
on, on a speculated path. -/
theorem witness_RestorePlaceAndWatchdog :
    (let s := (demoB fun b => { b with st := .saved, nw := 1 }).setWave { demoWave with life := .saved }
     s.restorable demoBlk = true ∧ s.frbWaits (imageParty (s.blockAt demoBlk).launch) = false ∧
      s.imageWaits 1 ((s.blockAt demoBlk).img.toList.map fun x => (x.1, s.imageSize (s.blockAt demoBlk)))
        ((s.blockAt demoBlk).kept.flatMap Prod.snd).eraseDups = []) ∧
    (let s : State := { demo with launches := [(1, { ctx := 1, vregs := 8 })], waves := [], blocks := [] }
     (s.placeable 1).isSome = true ∧ s.frbWaits (imageParty 1) = false ∧ s.imageWaits 1 [] (s.launchAt 1).preloads = []) ∧
    (let s := demoR fun r => { r with wdctl := 0x50#32, progcnt := 0xFFFF }
     Clear s {} ∧ s.regs.wdctl.toNat / 64 % 2 = 1 ∧ s.wave.spec = none ∧ s.wave.pend = []) ∧
    (let s := (demoSpec id).updRegs fun r => { r with wdctl := 0x50#32, progcnt := 0xFFFF }
     Clear s {} ∧ s.regs.wdctl.toNat / 64 % 2 = 1 ∧ ∃ sp, s.wave.spec = some sp ∧ sp.deferred = none) := by
  refine ⟨?_, ?_, ⟨clear_of ?_, ?_⟩, clear_of ?_, ?_, _, rfl, ?_⟩ <;> decide +kernel

/-! ### Witnesses: replies, commands, administration -/

/-- A wave that waits for service 5, which is installed, or for the storage service, which has answered lane 0. -/
theorem witness_SysReply :
    (let s : State := { demoW (fun w => { w with sysWait := some (5, 4) }) with ctxs := [(1, { demoCtx with services := [5] })] }
     (s.waveAt demoKey).sysWait = some (5, 4) ∧ 4 % 4 = 0 ∧ (s.ctxAt 1).serves 5 = true ∧
      bitOf (s.waveAt demoKey).regs.em 0 = true) ∧
    (let s : State := { demoW (fun w => { w with sysWait := some (0x100, 4), sysRes := [(0, 0, 8)] }) with
       ctxs := [(1, { demoCtx with services := [0x100] })] }
     (s.waveAt demoKey).sysWait = some (0x100, 4) ∧ (s.ctxAt 1).serves 0x100 = true ∧
      (s.waveAt demoKey).sysRes.find? (fun x => x.1 = 0) = some (0, 0, 8)) := by decide +kernel

/-- The word at 0 is poisoned: for a SIGNAL, a WAITSIG and a launch that ends. -/
theorem witness_PoisonedSignals :
    (∀ op ∈ [3, 4], let x := demoCmd op 0 5 0
     let s : State := { demoQueue x with poison := [0] }
     x.op = op ∧ (s.queueAt 1 0).busy = some x ∧
      ((hostOk (s.hostAccept 1 0 (hostParts (x.arg 0) 8 (decide (op = 3))))).any fun y =>
        y.2.any fun z => y.1.poisonAt z.tier z.pa) = true) ∧
    (let s : State := { demo with launches := [(1, { demoLaunch with nretired := 1, sigaddr := 8 })], poison := [0] }
     (s.launchAt 1).ended = true ∧ (s.launchAt 1).imageTag = none ∧ (s.launchAt 1).broken = [] ∧
      (s.launchAt 1).copyFail = none ∧ (s.launchAt 1).sigaddr ≠ 0 ∧
      ((hostOk (s.hostAccept 1 0 (hostParts (s.launchAt 1).sigaddr 8 true))).any fun y =>
        y.2.any fun z => y.1.poisonAt z.tier z.pa) = true) := by decide +kernel

/-- An entry at the head of a ring whose bytes 2 and 3 are not 0, of each op. -/
theorem witness_MalformedEntry :
    ∀ op ∈ [0, 1, 2, 3, 4, 5, 6, 7, 8, 9],
      let s : State := { demo with
        launches := [], waves := [], blocks := []
        hbm := ([(0x800, BitVec.ofNat 8 op), (0x802, 1), (0x804, 1), (0x83F, 1)].filter fun c => c.2 ≠ 0) ++ demoTables
        ctxs := [(1, { demoCtx with queues := [(0, { base := 0x800, size := 16, ctl := 1, head := 0, tail := 1 })] })] }
      (s.queueAt 1 0).busy = none ∧ s.entryWaits 1 0 = true ∧
      ((hostOk (s.hostAccept 1 0 (hostParts (s.queueAt 1 0).entry 64 false))).any fun y =>
        y.1.mayStart 1 0 (y.1.headEntry 1 0) && (badEntry (y.1.headEntry 1 0)).isSome &&
          decide (fld (y.1.headEntry 1 0) 0 1 = op)) = true := by decide +kernel

/-- A write of the package to a page that translates, behind another, and to one that is absent. -/
theorem witness_Posts :
    (let p : Post := { ctx := 1, addr := 0x100, bytes := [1, 2] }
     p.addr % 4096 + 2 ≤ 4096 ∧ demo.posts = [] ∧ demo.frbWaits (.remote 1 1) = false ∧
      (demo.look (.remote 1 1) 1 p.addr true).place.isSome = true ∧
      ∃ x ∈ ({ demo with posts := [p] } : State).posts, x.ctx = p.ctx) ∧
    (let s := demo.updCtx 1 fun c => { c with policy := true }
     (s.look (.remote 1 1) 1 (2 ^ 32) true).waits.isSome = true) := by decide +kernel

/-- A confidential descriptor with its TDI in RUN and not; a TDI's error before and after its context is being destroyed; a
revocation by request in its last phase. -/
theorem witness_Tdis :
    (∀ t ∈ [TdiState.run, .locked],
      let s := demoAdm 1 [2, 0x1000] { State.reset with
        hbm := [(0x100E, 1), (0x100F, 4), (0x1011, 0x20), (0x1021, 0x10), (0x1025, 1)], tdis := [(4, t)] }
      Asked s 1 ∧ tfind? s.ctxs (s.admArg 0) = none ∧ s.tdiAt 4 = t ∧
        ((s.deviceBytes (s.admArg 1) 64).any fun d => descriptorOk d && decide (fld d 14 1 % 2 = 1) && decide (fld d 15 1 = 4) &&
          (s.deviceBytes (fld d 16 8) 2048).isSome) = true) ∧
    (let s : State := { State.reset with ctxs := [(1, { conf := true, tdi := 4 })], tdis := [(4, .run)] }
     1 ∉ s.dying ∧ s.tdiAt 4 ≠ .error) ∧
    (let s : State := { State.reset with ctxs := [(1, { conf := true, tdi := 4 })], tdis := [(4, .error)], dying := [1] }
     1 ∈ s.dying ∧ s.tdiAt 4 = .error ∧ s.destroyed 1 = true) := by
  refine ⟨?_, ?_⟩
  · intro t ht
    unfold Asked
    revert t
    decide +kernel
  · decide +kernel

/-- A save under key slot 0, which holds a key, and under one that holds none. -/
theorem witness_KeyedSave :
    ∀ slot ∈ [0, 1],
      let x := demoCmd 7 0x400 0 0
      let s0 := keyed (demoCkpt 0 0x3000 [])
      let s : State := { s0 with hbm := placed 0x400 (leBytes 8 0x2000 ++ leBytes 8 0x6000 ++ leBytes 8 0x3000 ++ leBytes 8 0x500 ++
        leBytes 4 1 ++ leBytes 1 0 ++ leBytes 1 slot) ++ placed 0x500 (leBytes 8 0x800 ++ leBytes 4 4) ++ demoTables }
      (s.queueAt 1 0).busy = some x ∧
      ((ckptB s x).any fun r => decide (fld r.1 36 1 = 0) && decide (fld r.1 37 1 = slot) &&
        decide (areaNeed true r.2.1 ≤ fld r.1 16 8) &&
        decide (((r.2.2.2.2.ctxAt 1).ckptKey slot).isSome = decide (slot = 0)) && decide (0 + r.2.1.length < 2 ^ 64)) = true := by
  decide +kernel

/-! ### Witnesses: faults, findings, power -/

/-- An access of the small state's wave that waits for the host's translation of page 3, and for a migration; an
invalidation over a held store, and over none. -/
theorem witness_AtsAnswers :
    (let e : FrbEntry := { party := .wave demoKey, core := 0, ctx := 1, page := 3, kind := .ats }
     let s : State := { demo with frb := [e] }
     s.posts = [] ∧ (∃ e ∈ s.frb, e.asks .ats 1 (0x3008 / 4096) = true) ∧ s.frb[0]? = some e ∧ e.write = false) ∧
    (let p : Place := { req := { lane := 0, va := 0x3008, n := 4 }, tier := 2, pa := 0, w := true, io := 3 }
     let v : Inval := { pasid := 0, base := 0x3000, len := 4096 }
     let s := demoSpec fun sp => { sp with held := [{ before := demoRegs, cells := [], places := [p] }] }
     demo.invals = [] ∧ demo.invalOver v = true ∧ s.invalOver v = false) := by decide +kernel

/-- Two waves that wait for one another at barriers 3 and 4; a barrier that expects a third; a wave in a service call; a
Pending block. -/
def demoStuck (expect : Nat) : State :=
  let b : Block := { demoBlock with nw := 2, bars := [(3, { arrived := [demoKey], expect := some expect }), (4, { arrived := [demoKey + 1], expect := some 2 })] }
  let w : Wave := { demoWave with stall := 16, stallObj := 3 }
  { demo with cycle := 2 ^ 40, blocks := [(demoBlk, b)], waves := [(demoKey, w), (demoKey + 1, { w with index := 1, stallObj := 4 })] }

def demoCalls : State := { demoW (fun w => { w with stall := 22, sysWait := some (5, 4) }) with cycle := 2 ^ 40 }

def demoPending : State :=
  { demo with cycle := 2 ^ 40, waves := [], blocks := [], launches := [(1, { ctx := 1, blocks := 1 })] }

theorem stuck_edges : ∃ a b, StalledEdge (demoStuck 2) a b ∧ StalledEdge (demoStuck 2) b a := by
  have h : ∃ a ∈ stalledNodes (demoStuck 2), ∃ b ∈ stalledNodes (demoStuck 2), some b.id ∈ a.edges ∧ some a.id ∈ b.edges := by
    unfold stalledNodes readingNodes
    decide +kernel
  obtain ⟨a, ha, b, hb, h1, h2⟩ := h
  exact ⟨a, b, ⟨ha, hb, h1⟩, hb, ha, h2⟩

theorem witness_Findings :
    (∃ n, Relation.TransGen (StalledEdge (demoStuck 2)) n n) ∧
    (let b := (demoStuck 3).blockAt demoBlk
     (demoBlk, b) ∈ (demoStuck 3).blocks ∧ (3, { arrived := [demoKey], expect := some 3 }) ∈ b.bars ∧ b.st = .resident ∧
      [demoKey].length + (((demoStuck 3).unfinished b).filter fun k => !([demoKey].contains k)).length < 3) ∧
    ((stalledNodes demoPending).any fun n => decide (n.id % 2 = 1) &&
      (stalledNodes demoPending).all fun m => !n.edges.contains (some m.id)) = true ∧
    (((stalledNodes demoCalls).any fun n => decide (n.id % 2 = 0) && n.edges.all fun e => decide (e = none)) = true ∧
      (∀ f ∈ demoCalls.findings, f.type = 4 ∧ f.ctxs = [1] ∧ (f.type, f.key) ∉ (demoCalls.ctxAt 1).findings) ∧
      demoCalls.findings.length = 1) ∧
    (let s := demoCalls.updCtx 1 fun c => { c with findings := demoCalls.findings.map fun f => (f.type, f.key) }
     ∀ f ∈ s.findings, (f.type, f.key) ∈ (s.ctxAt 1).findings) := by
  obtain ⟨a, b, h1, h2⟩ := stuck_edges
  refine ⟨⟨a, .tail (.single h1) h2⟩, ?_, ?_, ?_, ?_⟩
  all_goals (try unfold stalledNodes readingNodes); decide +kernel

/-- What a partition's wave did in the last clock; an image that has been taken. -/
theorem witness_Observation :
    (let s : State := { demo with acted := some (demoKey, 8, false) }
     ∃ pc entered, s.acted = some (demoKey, pc, entered)) ∧
    (∀ pc entered, demo.acted ≠ some (demoKey, pc, entered)) ∧ demo.wave.core < 64 ∧ demo.wave.slot < 32 ∧
    (let s : State := { demoDbg with images := [{ base := 0, bytes := [], mode := 0, next := 0, taken := [], session := 0, domain := demoDbg.toDomain }] }
     s.mayDebug 1 7 = true ∧ (s.lastSections 1).isSome = true) := by
  refine ⟨⟨8, false, rfl⟩, ?_, ?_, ?_, ?_, rfl⟩
  · intro pc entered h
    exact absurd (show demo.acted = none by decide +kernel) (by rw [h]; exact Option.some_ne_none _)
  all_goals decide +kernel

/-- Over the cap, and at 80.1, 91.9 and 92 °C; held by bit 4 and by the group's skip. -/
theorem witness_Power :
    100 * State.reset.pwrcap < ((240001 :: State.reset.boot.powers.take 99).take 100).sum ∧
    (∀ t ∈ [801, 919], t < 920 ∧ 800 < t) ∧ State.reset.boot.stage = 6 ∧ (∃ t ∈ [(920 : Nat)], 920 ≤ t) ∧
    ({ State.reset with thrctl := 16#32 } : State).throttled = true ∧
    ({ State.reset with thrLive := 1#32 } : State).throttled = true ∧ State.reset.throttled = false := by decide +kernel

/-- The management interface's writer, and another. -/
theorem witness_RegisterWriters : 0x1FFFF % 2 ^ 16 = 0xFFFF ∧ (7 : Nat) % 2 ^ 16 ≠ 0xFFFF := by decide
end Sys2Proof.Machine
end

section
/-! PROOFS. Addresses within an overlay slot (spec/02_encoding.md R42, R44): a pc's bits 17:16 name the slot
and bits 15:0 the address in it, so `nextPc` and `target` keep the quotient by 2^16 and replace the remainder. -/

namespace Sys2Proof.Machine

/-! ### A pc made of the slot of one and the address of another -/

/-- Keeping bits 17:16 is shifting the address out and back. -/
theorem slotBits_eq_shift (x : Pc) : x &&& 0x30000#18 = (x >>> 16) <<< 16 := by
  ext i hi
  interval_cases i <;> simp

theorem toNat_slotBits (x : Pc) : (x &&& 0x30000#18).toNat = (x.toNat / 2 ^ 16) <<< 16 := by
  rw [slotBits_eq_shift, BitVec.toNat_shiftLeft, BitVec.toNat_ushiftRight, Nat.shiftRight_eq_div_pow,
    Nat.shiftLeft_eq]
  omega

theorem toNat_addressBits (y : Pc) : (y &&& 0xFFFF#18).toNat = y.toNat % 2 ^ 16 :=
  Nat.and_two_pow_sub_one_eq_mod y.toNat 16

/-- The two masks share no bit, so joining the parts adds their values. -/
theorem toNat_slotBits_or_addressBits (x y : Pc) :
    ((x &&& 0x30000#18) ||| (y &&& 0xFFFF#18)).toNat =
      x.toNat / 2 ^ 16 * 2 ^ 16 + y.toNat % 2 ^ 16 := by
  rw [BitVec.toNat_or, toNat_slotBits, toNat_addressBits,
    ← Nat.shiftLeft_add_eq_or_of_lt (Nat.mod_lt _ (by decide)), Nat.shiftLeft_eq]

/-! ### The next instruction and the target of a branch -/

theorem nextPc_toNat (pc : Pc) :
    (nextPc pc).toNat = pc.toNat / 2 ^ 16 * 2 ^ 16 + (pc.toNat + 4) % 2 ^ 16 := by
  have hadd : (pc + 4).toNat % 2 ^ 16 = (pc.toNat + 4) % 2 ^ 16 := by
    rw [BitVec.toNat_add]
    exact Nat.mod_mod_of_dvd _ (by decide)
  rw [← hadd]
  exact toNat_slotBits_or_addressBits pc (pc + 4)

theorem target_toNat (pc : Pc) (off : Nat) :
    (target pc off).toNat = pc.toNat / 2 ^ 16 * 2 ^ 16 +
      (pc + ((BitVec.ofNat 16 off).signExtend 18 <<< 2)).toNat % 2 ^ 16 :=
  toNat_slotBits_or_addressBits _ _

/-- A sign-extended word offset, shifted to bytes, adds four times its signed value: sign extension keeps the
value modulo 2^18, and so do the shift and the sum. -/
theorem toNat_add_wordOffset (pc : Pc) (x : BitVec 16) :
    ((pc + (x.signExtend 18 <<< 2)).toNat : Int) = (pc.toNat + 4 * x.toInt) % 2 ^ 18 := by
  have hext : ((x.signExtend 18).toNat : Int) = x.toInt % 2 ^ 18 := by
    rw [BitVec.signExtend, BitVec.toNat_ofInt]
    omega
  rw [BitVec.toNat_add, BitVec.toNat_shiftLeft, Nat.shiftLeft_eq]
  omega

theorem target_slot (pc : Pc) (off : Nat) :
    (target pc off).toNat / 2 ^ 16 = pc.toNat / 2 ^ 16 := by
  rw [target_toNat]
  omega

theorem target_address (pc : Pc) (off : Nat) :
    ((target pc off).toNat % 2 ^ 16 : Int) =
      ((pc.toNat % 2 ^ 16 : Nat) + 4 * (BitVec.ofNat 16 off).toInt) % 2 ^ 16 := by
  have hsum := toNat_add_wordOffset pc (BitVec.ofNat 16 off)
  rw [target_toNat]
  omega

/-- Settles O11: the target keeps the slot of the pc, and the sum with the offset is taken in the address. -/
theorem branchTarget : Obligations.BranchTarget := fun pc off =>
  ⟨target_slot pc off, target_address pc off, nextPc_toNat pc⟩

end Sys2Proof.Machine
end

section
/-! PROOFS. What instructions that change registers alone complete with, by the form of their write: one scalar
register, a scalar pair, or lanes of a vector register; and the scalar shifts, bit fields and pairs of
spec/04_integer.md R108 to R113. -/

namespace Sys2Proof.Machine

/-! ### Completion by the form of the write -/

theorem completes_putS {s : State} {p : Plan} {i : Instr} {d : Nat} (x : WaveRegs → Word) (h : Clear s p)
    (he : exec i s = s.runRegs p fun r => r.putS d (x r)) :
    Completes i s p.writes (nextPc s.regs.pc) (GivesS s.regs d (x s.regs)) :=
  completes_runRegs h he rfl fun _ _ _ => givesS_putS _ _ _ _ _ _

theorem completes_putS2 {s : State} {p : Plan} {i : Instr} {d : Nat} (x : WaveRegs → DWord) (h : Clear s p)
    (he : exec i s = s.runRegs p fun r => r.putS2 d (x r)) :
    Completes i s p.writes (nextPc s.regs.pc) (GivesS2 s.regs d (x s.regs)) :=
  completes_runRegs h he rfl fun _ _ _ => givesS2_putS2 _ _ _ _ _ _

theorem completes_setV {s : State} {p : Plan} {i : Instr} {d : Nat} (m : WaveRegs → Mask)
    (f : WaveRegs → Nat → Word) (h : Clear s p) (he : exec i s = s.runRegs p fun r => r.setV d (m r) (f r)) :
    Completes i s p.writes (nextPc s.regs.pc) (GivesV s.regs d (m s.regs) (f s.regs)) :=
  completes_runRegs h he rfl fun _ _ _ => givesV_setV _ _ _ _ _ _ _

theorem completes_putV {s : State} {p : Plan} {i : Instr} {d : Nat} (f : WaveRegs → Nat → Word) (h : Clear s p)
    (he : exec i s = s.runRegs p fun r => r.putV d (f r)) :
    Completes i s p.writes (nextPc s.regs.pc) (GivesV s.regs d s.regs.em (f s.regs)) :=
  completes_setV WaveRegs.em f h he

/-! ### SALU3 -/

/-- A SALU3 instruction of three words computes the function it is given. -/
theorem scalar3_of_salu {i : Nat → Nat → Nat → Instr} {f : Word → Word → Word}
    (he : ∀ s d a b, exec (i d a b) s = s.salu f d a b) : Scalar3 i f :=
  fun s d a b h => completes_putS (fun r => f (r.s a) (r.s b)) h (he s d a b)

theorem scalar2_of_runRegs {i : Nat → Nat → Nat → Instr} {f : Word → Nat → Word}
    (he : ∀ s d a imm, exec (i d a imm) s = s.runRegs (planSS d a) fun r => r.putS d (f (r.s a) imm)) :
    Scalar2 i f :=
  fun s d a imm h => completes_putS (fun r => f (r.s a) imm) h (he s d a imm)

/-- An arithmetic shift by the width or more leaves copies of the sign (R109). -/
theorem sra_word (a b : Word) :
    sra a b = if 32 ≤ b.toNat then (if a.msb then 0xFFFFFFFF#32 else 0) else a.sshiftRight b.toNat := by
  unfold sra
  split
  · next h =>
    rw [Nat.min_eq_right h]
    ext i hi
    cases ha : a.msb with
    | false => simp [BitVec.getElem_sshiftRight, ha]
    | true =>
      have hones : (0xFFFFFFFF#32)[i] = true := BitVec.getElem_allOnes i hi
      simp [BitVec.getElem_sshiftRight, ha, hones]
  · next h => rw [Nat.min_eq_left (by omega)]

theorem scalarShiftsAndFieldsRule : ScalarShiftsAndFieldsRule := by
  refine ⟨scalar3_of_salu fun _ _ _ _ => rfl, scalar3_of_salu fun _ _ _ _ => rfl, ?_,
    scalar2_of_runRegs fun _ _ _ _ => rfl, scalar2_of_runRegs fun _ _ _ _ => rfl,
    scalar2_of_runRegs fun _ _ _ _ => rfl, scalar3_of_salu fun _ _ _ _ => rfl, fun s d a b h => ?_⟩
  · simp only [← sra_word]
    exact scalar3_of_salu fun _ _ _ _ => rfl
  · exact completes_putS (fun r => bfi (r.s d) (r.s a) (r.s b)) h rfl

/-! ### Pairs -/

theorem scalarPairsRule : ScalarPairsRule := by
  refine ⟨fun s d a b h => ⟨?_, ?_⟩, fun s d a b h => ?_, fun s d a n h => ?_⟩
  · exact completes_putS2 (fun r => r.s2 a + r.s2 b) h rfl
  · exact completes_putS2 (fun r => r.s2 a - r.s2 b) h rfl
  · have hcount : ((s.regs.s b).setWidth 64).toNat = (s.regs.s b).toNat := BitVec.toNat_setWidth_of_le (by decide)
    have hq := completes_putS2 (fun r => shl (r.s2 a) ((r.s b).setWidth 64)) h
      (i := .sshlq d a b) (d := d) rfl
    simpa only [shl, hcount] using hq
  · exact completes_putS2 (fun r => r.s2 a + (BitVec.ofNat 9 n).signExtend 64) h rfl

/-- Settles O2: each instruction changes registers alone, by one write of a scalar or of a pair. -/
theorem scalarShiftsFieldsAndPairs : Obligations.ScalarShiftsFieldsAndPairs :=
  ⟨scalarShiftsAndFieldsRule, scalarPairsRule⟩

end Sys2Proof.Machine
end

section
/-! PROOFS. Moves between registers and what is no operand, and the moves of one lane (spec/04_integer.md R126 to
R130). -/

namespace Sys2Proof.Machine

/-! ### Changes of what is no operand -/

/-- An instruction that gives new registers which leave every scalar and vector register completes with them. -/
theorem completes_sameRegs {s : State} {p : Plan} {i : Instr} (f : WaveRegs → WaveRegs) (h : Clear s p)
    (he : exec i s = s.runRegs p f) (hr : (f s.regs).retired = s.regs.retired) :
    Completes i s p.writes (nextPc s.regs.pc) (SameRegs (f s.regs)) :=
  completes_runRegs h he hr fun _ _ _ => ⟨rfl, ⟨rfl, rfl⟩, rfl, rfl⟩

/-- `fpc` as the active lanes change it. -/
theorem mapFpc_lane (r : WaveRegs) (f : Nat → Word → Word) {l : Nat} (h : l < 64) :
    lane (r.mapFpc f).fpc l = if bitOf r.em l then f l (lane r.fpc l) else lane r.fpc l := by
  simp [WaveRegs.mapFpc, h]

theorem completes_fpcset {s : State} {a : Nat} (h : Clear s { ops := [.v a 1 true], writes := 1 }) :
    Completes (.fpcset a) s 1 (nextPc s.regs.pc) fun u =>
      (∀ l < 64, lane u.fpc l = if bitOf s.regs.em l then fpcStore (lane (s.regs.v a) l) else lane s.regs.fpc l) ∧
      SameSystem { s.regs with fpc := u.fpc } u ∧ u.vregs = s.regs.vregs ∧ SameScalars s.regs u ∧
      ∀ k, k / 64 ≠ fpcKey → tfind? u.vpois k = tfind? s.regs.vpois k := by
  refine completes_runRegs h rfl rfl fun pc n c =>
    ⟨fun l hl => mapFpc_lane s.regs (fun l _ => fpcStore (lane (s.regs.v a) l)) hl,
      rfl, rfl, ⟨rfl, rfl⟩, fun k hk => ?_⟩
  have hcleared := tfind?_filter s.regs.vpois
    (fun e => !(decide (e / 64 = fpcKey) && bitOf s.regs.em (e % 64))) k
  exact hcleared.trans (by simp [hk])

theorem completes_fpcclr {s : State} (h : Clear s { writes := 1 }) :
    Completes .fpcclr s 1 (nextPc s.regs.pc) fun u =>
      (∀ l < 64, lane u.fpc l = if bitOf s.regs.em l then lane s.regs.fpc l &&& 7#32 else lane s.regs.fpc l) ∧
      SameRegs { s.regs with fpc := u.fpc } u :=
  completes_runRegs h rfl rfl fun _ _ _ =>
    ⟨fun _ hl => mapFpc_lane s.regs (fun _ x => x &&& 7#32) hl, rfl, ⟨rfl, rfl⟩, rfl, rfl⟩

theorem movesRule : MovesRule := by
  refine ⟨fun s d a h => ?vmov, fun s d a b h => ?vsel, fun s d a h => ?vmovs, fun s d h => ?vlaneid,
    fun s d a h => ?smov, fun s d n h => ⟨?smovx, ?lcget⟩, fun s d h => ⟨?emget, ?rdcyc⟩, fun s a h => ?emset,
    fun s a h => ?lcset, fun s d h => ?fpcget, fun s a h => completes_fpcset h, fun s h => completes_fpcclr h⟩
  case vmov => exact completes_putV (fun r l => lane (r.v a) l) h rfl
  case vsel => exact completes_setV (fun r => r.em &&& r.s2 b) (fun r l => lane (r.v a) l) h rfl
  case vmovs => exact completes_putV (fun r _ => r.s a) h rfl
  case vlaneid => exact completes_putV (fun _ l => BitVec.ofNat 32 l) h rfl
  case smov => exact completes_putS (fun r => r.s a) h rfl
  case smovx => exact completes_putS (fun r => r.ctxS n) h rfl
  case lcget => exact completes_putS (fun r => r.lc) h rfl
  case emget => exact completes_putS2 (fun r => r.em &&& widthMask s.wave.width) h rfl
  case rdcyc => exact completes_putS2 (fun _ => BitVec.ofNat 64 s.cycle) h rfl
  case emset =>
    rw [BitVec.and_assoc]
    exact completes_sameRegs (fun r => { r with em := r.s2 a &&& s.wave.live }) h rfl rfl
  case lcset => exact completes_sameRegs (fun r => { r with lc := r.s a }) h rfl rfl
  case fpcget => exact completes_putV (fun r l => lane r.fpc l &&& 0x3F07#32) h rfl

/-! ### One lane -/

/-- An instruction that reads no poisoned lane goes on to its change of registers. -/
theorem State.runLanes_clean {s : State} {a : Nat} {src : Mask} (h : CleanLanes s a src) (p : Plan)
    (f : WaveRegs → WaveRegs) : s.runLanes p a src f = s.runRegs p f := by
  unfold CleanLanes at h
  rw [State.runLanes, h]
  rfl

/-- A write of no lane gives the registers as they are. -/
theorem givesV_noLane (r : WaveRegs) (d : Nat) (f : Nat → Word) (pc : Pc) (n : DWord) (c : Nat) :
    GivesV r d 0 f { r with pc := pc, retired := n, progcnt := c } :=
  ⟨fun l _ hm => absurd hm (by simp [bitOf]), fun _ _ _ _ => ⟨rfl, rfl⟩, ⟨rfl, rfl⟩, rfl⟩

theorem singleLanesRule : SingleLanesRule := by
  refine ⟨fun s d a b h hc => ?vread, fun s d a b h => ?vwrite⟩
  case vread =>
    have hr := completes_putS (i := .vread d a b) (d := d)
      (fun r => if s.wave.width ≤ (r.s b).toNat then 0 else lane (r.v a) (r.s b).toNat) h
      (State.runLanes_clean hc _ _)
    simpa only [← Nat.not_lt, ite_not] using hr
  case vwrite =>
    refine completes_runRegs h rfl ?_ fun pc n c => ?_
    · split <;> rfl
    · by_cases hk : s.wave.width ≤ (s.regs.s b).toNat
      · rw [if_pos hk, if_neg (Nat.not_lt.mpr hk)]
        exact givesV_noLane _ _ _ _ _ _
      · rw [if_neg hk, if_pos (Nat.not_le.mp hk)]
        exact givesV_setV _ _ _ _ _ _ _

/-- Settles O8: a move changes registers alone; the lane that `vread` and `vwrite` name is taken whatever `em` holds. -/
theorem movesAndSingleLanes : Obligations.MovesAndSingleLanes := ⟨movesRule, singleLanesRule⟩

end Sys2Proof.Machine
end

section
/-! PROOFS. Masks as sets of lanes; the lane-moving forms, votes, ballots and matches of XLANE (spec/04_integer.md R132
to R137). -/

namespace Sys2Proof.Machine

/-! ### Masks -/

theorem getLsbD_maskBelow (f : Nat → Bool) (n : Nat) {l : Nat} (h : l < 64) :
    (maskBelow f n).getLsbD l = (decide (l < n) && f l) := by
  induction n with
  | zero => simp [maskBelow]
  | succ n ih =>
    have hbit : (if f n then 1#64 <<< n else 0).getLsbD l = (decide (l = n) && f l) := by
      by_cases hl : l = n
      · subst hl
        cases f l <;> simp [h]
      · cases f n <;> simp [hl, h]
        omega
    rw [maskBelow, BitVec.getLsbD_or, ih, hbit, ← Bool.and_or_distrib_right, ← Bool.decide_or]
    exact congrArg (· && f l) (decide_eq_decide.mpr (by omega))

@[simp] theorem bitOf_mkMask (f : Nat → Bool) {l : Nat} (h : l < 64) : bitOf (mkMask f) l = f l := by
  rw [bitOf, mkMask, getLsbD_maskBelow f 64 h, decide_eq_true h, Bool.true_and]

theorem mem_lanesOf {m : Mask} {l : Nat} : l ∈ lanesOf m ↔ l < 64 ∧ bitOf m l = true := by
  simp [lanesOf]

theorem nodup_lanesOf (m : Mask) : (lanesOf m).Nodup := List.nodup_range.filter _

/-- Masks are equal when they agree in every lane. -/
theorem mask_ext {m n : Mask} (h : ∀ l < 64, bitOf m l = bitOf n l) : m = n := BitVec.eq_of_getLsbD_eq h

/-! ### Lane-moving forms (R132, R133, R137) -/

theorem movesLanes_of_exec {i : Instr} {s : State} {ops : List Opnd} {d a : Nat} {src : Nat → Nat}
    (he : exec i s = s.moveLanes ops d a src) : MovesLanes i s ops d a src := fun h hc =>
  completes_putV (fun r l => if src l < s.wave.width then lane (r.v a) (src l) else 0) h
    (he.trans (State.runLanes_clean hc _ _))

theorem completes_vcompact {s : State} {d a b : Nat}
    (h : Clear s { ops := [.v d 1 false, .v a 1 false, .s b 2 true], writes := 1 })
    (hc : CleanLanes s a (s.regs.s2 b)) :
    Completes (.vcompact d a b) s 1 (nextPc s.regs.pc) (GivesV s.regs d
      (mkMask fun j => decide (j < (lanesOf (s.regs.em &&& s.regs.s2 b)).length))
      fun j => lane (s.regs.v a) ((lanesOf (s.regs.em &&& s.regs.s2 b)).getD j 0)) :=
  completes_setV (fun r => mkMask fun j => decide (j < (lanesOf (r.em &&& r.s2 b)).length))
    (fun r j => lane (r.v a) ((lanesOf (r.em &&& r.s2 b)).getD j 0)) h (State.runLanes_clean hc _ _)

theorem laneMovesRule : LaneMovesRule := by
  refine fun s d a b => ⟨movesLanes_of_exec rfl, movesLanes_of_exec rfl, ?up, ?down, movesLanes_of_exec rfl,
    completes_vcompact⟩
  case up =>
    simp only [← Nat.not_lt, ite_not]
    exact movesLanes_of_exec rfl
  case down =>
    simp only [← Nat.not_le, ite_not]
    exact movesLanes_of_exec rfl

/-! ### Votes and ballots (R134) -/

theorem bitOf_ballot (r : WaveRegs) (a : Nat) {l : Nat} (h : l < 64) :
    bitOf (r.ballot a) l = (bitOf r.em l && decide (lane (r.v a) l ≠ 0)) := bitOf_mkMask _ h

/-- The ballot is empty when no active lane has a nonzero element. -/
theorem ballot_eq_zero_iff (r : WaveRegs) (a : Nat) :
    r.ballot a = 0 ↔ ¬ ((lanesOf r.em).any fun l => lane (r.v a) l ≠ 0) = true := by
  have hbits : r.ballot a = 0 ↔ ∀ l < 64, bitOf (r.ballot a) l = false :=
    ⟨fun h l _ => by simp [h, bitOf], fun h => mask_ext fun l hl => (h l hl).trans (by simp [bitOf])⟩
  rw [hbits]
  simp +contextual [bitOf_ballot, mem_lanesOf]

/-- The ballot is `em` when every active lane has a nonzero element. -/
theorem ballot_eq_em_iff (r : WaveRegs) (a : Nat) :
    r.ballot a = r.em ↔ ((lanesOf r.em).all fun l => lane (r.v a) l ≠ 0) = true := by
  have hbits : r.ballot a = r.em ↔ ∀ l < 64, bitOf (r.ballot a) l = bitOf r.em l :=
    ⟨fun h l _ => by rw [h], mask_ext⟩
  rw [hbits]
  simp +contextual [bitOf_ballot, mem_lanesOf]

theorem completes_votes {s : State} {d a : Nat} (h : Clear s { ops := [.s d 1 false, .v a 1 true], writes := 1 }) :
    Completes (.vvoteAny d a) s 1 (nextPc s.regs.pc) (GivesS s.regs d
      (if (lanesOf s.regs.em).any fun l => lane (s.regs.v a) l ≠ 0 then 1 else 0)) ∧
    Completes (.vvoteAll d a) s 1 (nextPc s.regs.pc) (GivesS s.regs d
      (if (lanesOf s.regs.em).all fun l => lane (s.regs.v a) l ≠ 0 then 1 else 0)) := by
  have hany := completes_putS (i := .vvoteAny d a) (d := d) (fun r => if r.ballot a = 0 then 0 else 1) h rfl
  have hall := completes_putS (i := .vvoteAll d a) (d := d) (fun r => if r.ballot a = r.em then 1 else 0) h rfl
  simp only [ballot_eq_zero_iff, ite_not] at hany
  simp only [ballot_eq_em_iff] at hall
  exact ⟨hany, hall⟩

/-! ### Matches (R135, R136) -/

/-- In a list without repetition, the elements up to one of its own are that one and those below it. -/
theorem length_filter_le_eq {g : List Nat} {l : Nat} (hn : g.Nodup) (hl : l ∈ g) :
    (g.filter fun k => decide (k ≤ l)).length = (g.filter fun k => decide (k < l)).length + 1 := by
  have hsplit : ∀ g : List Nat, (g.filter fun k => decide (k ≤ l)).length =
      (g.filter fun k => decide (k < l)).length + g.count l := by
    intro g
    induction g with
    | nil => rfl
    | cons k g ih =>
      rcases Nat.lt_trichotomy k l with h | h | h
      · simp [h, h.le, h.ne, ih]; omega
      · simp [h, ih]; omega
      · simp [h.not_gt, h.not_ge, h.ne', ih]
  rw [hsplit, List.count_eq_one_of_mem hn hl]

/-- The last of a list without repetition has all the others below it. -/
theorem all_le_iff_length {g : List Nat} {l : Nat} (hn : g.Nodup) (hl : l ∈ g) :
    (g.all fun k => decide (k ≤ l)) = true ↔ (g.filter fun k => decide (k < l)).length + 1 = g.length := by
  rw [← length_filter_le_eq hn hl, List.length_filter_eq_length_iff, List.all_eq_true]

/-- The word of a match in an active lane: whether the lane is the last of its group, the group's size, the lane's
place and the first lane. -/
theorem matchWord_eq {eqv : Word → Word → Bool} (hrefl : ∀ x, eqv x x = true) (m : Mask) (v : Lanes) {l : Nat}
    (hl : l < 64) (hm : bitOf m l = true) :
    let grp := (lanesOf m).filter fun k => eqv (lane v k) (lane v l)
    let below := (grp.filter fun k => decide (k < l)).length
    matchWord eqv m v l = BitVec.ofNat 32 ((if below + 1 = grp.length then 2 ^ 31 else 0) + grp.length * 2 ^ 16 +
      below * 2 ^ 8 + grp.headD l) := by
  intro grp below
  have hmem : l ∈ grp := List.mem_filter.mpr ⟨mem_lanesOf.mpr ⟨hl, hm⟩, hrefl _⟩
  have hlast : (grp.all fun k => decide (k ≤ l)).toNat * 2 ^ 31 = if below + 1 = grp.length then 2 ^ 31 else 0 := by
    have hiff := all_le_iff_length ((nodup_lanesOf m).filter _) hmem
    by_cases h : below + 1 = grp.length
    · rw [if_pos h, hiff.mpr h]
      rfl
    · rw [if_neg h, Bool.eq_false_iff.mpr (mt hiff.mp h)]
      rfl
  rw [← hlast]
  rfl

theorem matchF32_refl (x : Word) : matchF32 x x = true := by simp [matchF32]

/-- Values that agree in the written lanes are given alike. -/
theorem GivesV.congr {r u : WaveRegs} {d : Nat} {m : Mask} {f g : Nat → Word} (h : GivesV r d m f u)
    (hfg : ∀ l < 64, bitOf m l = true → f l = g l) : GivesV r d m g u := by
  obtain ⟨hval, hframe⟩ := h
  exact ⟨fun l hl hm => (hval l hl hm).trans (hfg l hl hm), hframe⟩

theorem Completes.mono {i : Instr} {s : State} {writes : Nat} {pc : Pc} {post post' : WaveRegs → Prop}
    (h : Completes i s writes pc post) (hpost : ∀ u, post u → post' u) : Completes i s writes pc post' := by
  obtain ⟨t, hexec, hissued, hpc, hretired, ht⟩ := h
  exact ⟨t, hexec, hissued, hpc, hretired, hpost _ ht⟩

/-- A match by a reflexive test gives each active lane its word. -/
theorem completes_match {s : State} {i : Instr} {d a : Nat} {eqv : Word → Word → Bool}
    (hrefl : ∀ x, eqv x x = true) (h : Clear s (planVV 1 d a))
    (he : exec i s = s.runRegs (planVV 1 d a) fun r => r.putV d (matchWord eqv r.em (r.v a))) :
    Completes i s 1 (nextPc s.regs.pc) (GivesV s.regs d s.regs.em fun l =>
      let grp := (lanesOf s.regs.em).filter fun k => eqv (lane (s.regs.v a) k) (lane (s.regs.v a) l)
      let below := (grp.filter fun k => decide (k < l)).length
      BitVec.ofNat 32 ((if below + 1 = grp.length then 2 ^ 31 else 0) + grp.length * 2 ^ 16 + below * 2 ^ 8 +
        grp.headD l)) :=
  (completes_putV (fun r => matchWord eqv r.em (r.v a)) h he).mono fun _ hu =>
    hu.congr fun _ hl hm => matchWord_eq hrefl _ _ hl hm

theorem votesAndMatchesRule : VotesAndMatchesRule := by
  refine ⟨fun s d a h => completes_votes h, fun s d a h => ?ballot, fun s d a h => ⟨?b32, ?f32⟩⟩
  case ballot => exact completes_putS2 (fun r => r.ballot a) h rfl
  case b32 => exact completes_match (eqv := fun x y => decide (x = y)) (fun _ => decide_eq_true rfl) h rfl
  case f32 => exact completes_match matchF32_refl h rfl

/-- Settles O9: each form writes one register from the lanes as they are before it; a group is a list of lanes without
repetition, so that its last lane is the one with all the others below it. -/
theorem laneMovesVotesAndMatches : Obligations.LaneMovesVotesAndMatches := ⟨laneMovesRule, votesAndMatchesRule⟩

end Sys2Proof.Machine
end

section
/-! PROOFS. The words of the immediate shifts (spec/04_integer.md R114, R120; spec/02_encoding.md R50, R54): the
immediate's field of a scalar shift must be a count below 32, which the decoder sees by the upper bits of the field, and
that of a vector shift one below the width of the element, which the checks of the fields see. -/

namespace Sys2Proof.Machine

theorem decode_of_salui {w : Nat} (hw : w < 2 ^ 32) (h : bits w 27 5 = 4) :
    decode w = (decSalui w).filter Instr.wf := by
  simp only [decode, if_pos hw, decRaw, h]

theorem decode_of_vinti {w : Nat} (hw : w < 2 ^ 32) (h : bits w 27 5 = 8) :
    decode w = (decVinti w).filter Instr.wf := by
  simp only [decode, if_pos hw, decRaw, h]

/-! ### Scalars -/

/-- A word of SALUI (R50). -/
def saluiWord (f4 d a n : Nat) : Nat := 4 * 2 ^ 27 + f4 * 2 ^ 23 + d * 2 ^ 16 + a * 2 ^ 9 + n

section
variable {f4 d a n : Nat} (hf : f4 < 16) (hd : d < 128) (ha : a < 128) (hn : n < 512)
include hf hd ha hn

theorem decode_saluiWord : decode (saluiWord f4 d a n) = (decSalui (saluiWord f4 d a n)).filter Instr.wf := by
  refine decode_of_salui ?_ ?_
  · unfold saluiWord
    omega
  · unfold bits saluiWord
    omega

theorem bits_saluiWord :
    bits (saluiWord f4 d a n) 23 4 = f4 ∧ bits (saluiWord f4 d a n) 16 7 = d ∧ bits (saluiWord f4 d a n) 9 7 = a ∧
    bits (saluiWord f4 d a n) 5 4 = n / 32 ∧ bits (saluiWord f4 d a n) 0 5 = n % 32 := by
  unfold bits saluiWord
  omega

/-- A shift of a scalar, in whose row of the decoder the upper bits of the field are 0, decodes below 32 alone. -/
theorem decode_scalarShift {i : Nat → Nat → Nat → Instr}
    (hrow : ∀ w, bits w 23 4 = f4 →
      decSalui w = if bits w 5 4 = 0 then some (i (bits w 16 7) (bits w 9 7) (bits w 0 5)) else none)
    (hwf : ∀ k, (i d a k).wf = (decide (d < 128) && decide (a < 128) && decide (k < 32))) :
    decode (saluiWord f4 d a n) = if n < 32 then some (i d a n) else none := by
  obtain ⟨hop, hbd, hba, hupper, hlower⟩ := bits_saluiWord hf hd ha hn
  rw [decode_saluiWord hf hd ha hn, hrow _ hop, hbd, hba, hupper, hlower]
  by_cases h : n < 32
  · rw [if_pos (Nat.div_eq_of_lt h), if_pos h, Nat.mod_eq_of_lt h]
    simp [hwf, hd, ha, h]
  · rw [if_neg (by omega), if_neg h]
    rfl

end

theorem decode_scalarShifts {d a n : Nat} (hd : d < 128) (ha : a < 128) (hn : n < 512) :
    decode (saluiWord 4 d a n) = (if n < 32 then some (.sshli d a n) else none) ∧
    decode (saluiWord 5 d a n) = (if n < 32 then some (.sshri d a n) else none) ∧
    decode (saluiWord 6 d a n) = if n < 32 then some (.ssrai d a n) else none := by
  refine ⟨decode_scalarShift (by decide) hd ha hn (fun w h => ?_) fun _ => rfl,
    decode_scalarShift (by decide) hd ha hn (fun w h => ?_) fun _ => rfl,
    decode_scalarShift (by decide) hd ha hn (fun w h => ?_) fun _ => rfl⟩
  all_goals simp only [decSalui, h]

/-! ### Vectors -/

/-- A word of VINTI (R50). -/
def vintiWord (f4 c d a n : Nat) : Nat := 8 * 2 ^ 27 + f4 * 2 ^ 23 + c * 2 ^ 21 + d * 2 ^ 14 + a * 2 ^ 7 + n

section
variable {f4 c d a n : Nat} (hf : f4 < 16) (hc : c < 4) (hd : d < 128) (ha : a < 128) (hn : n < 128)
include hf hc hd ha hn

theorem decode_vintiWord : decode (vintiWord f4 c d a n) = (decVinti (vintiWord f4 c d a n)).filter Instr.wf := by
  refine decode_of_vinti ?_ ?_
  · unfold vintiWord
    omega
  · unfold bits vintiWord
    omega

theorem bits_vintiWord :
    bits (vintiWord f4 c d a n) 23 4 = f4 ∧ bits (vintiWord f4 c d a n) 21 2 = c ∧
    bits (vintiWord f4 c d a n) 14 7 = d ∧ bits (vintiWord f4 c d a n) 7 7 = a ∧
    bits (vintiWord f4 c d a n) 0 7 = n := by
  unfold bits vintiWord
  omega

/-- A shift of a vector, whose checks bound the count by the width of the element, decodes below the width alone. -/
theorem decode_vectorShift {i : ESize → Nat → Nat → Nat → Instr}
    (hrow : ∀ w, bits w 23 4 = f4 →
      decVinti w = some (i (ESize.ofCode (bits w 21 2)) (bits w 14 7) (bits w 7 7) (bits w 0 7)))
    (hwf : ∀ sz, (i sz d a n).wf =
      (decide (d < 128) && decide (a < 128) && decide (n < 128) && decide (n < sz.bits))) :
    decode (vintiWord f4 c d a n) =
      if n < (ESize.ofCode c).bits then some (i (ESize.ofCode c) d a n) else none := by
  obtain ⟨hop, hsize, hbd, hba, hbn⟩ := bits_vintiWord hf hc hd ha hn
  rw [decode_vintiWord hf hc hd ha hn, hrow _ hop, hsize, hbd, hba, hbn, Option.filter_some, hwf]
  simp only [hd, ha, hn, decide_true, Bool.true_and, decide_eq_true_eq]

end

theorem decode_vectorShifts {c d a n : Nat} (hc : c < 4) (hd : d < 128) (ha : a < 128) (hn : n < 128) :
    let sz := ESize.ofCode c
    decode (vintiWord 4 c d a n) = (if n < sz.bits then some (.vshli sz d a n) else none) ∧
    decode (vintiWord 5 c d a n) = (if n < sz.bits then some (.vshri sz d a n) else none) ∧
    decode (vintiWord 6 c d a n) = if n < sz.bits then some (.vsrai sz d a n) else none := by
  refine ⟨decode_vectorShift (by decide) hc hd ha hn (fun w h => ?_) fun _ => rfl,
    decode_vectorShift (by decide) hc hd ha hn (fun w h => ?_) fun _ => rfl,
    decode_vectorShift (by decide) hc hd ha hn (fun w h => ?_) fun _ => rfl⟩
  all_goals simp only [decVinti, h]

/-- Settles O57: the fields of a word read back, and the count passes the decoder and the checks below the width. -/
theorem immediateShiftWords : Obligations.ImmediateShiftWords := by
  refine fun d a hd ha => ⟨fun n hn => decode_scalarShifts hd ha hn, fun n hn sz hsz => ?_⟩
  have hcode : ∀ sz ∈ [(0, ESize.b8, 8), (1, .b16, 16), (2, .b32, 32), (3, .b64, 64)],
      sz.1 < 4 ∧ sz.2 = (ESize.ofCode sz.1, (ESize.ofCode sz.1).bits) := by decide
  obtain ⟨hc, hsize⟩ := hcode sz hsz
  simp only [hsize]
  exact decode_vectorShifts hc hd ha hn

end Sys2Proof.Machine
end

section
/-! PROOFS. The MASK instructions (spec/12_control.md R291, R292, R297 to R300): the depth of the stack is checked
before the operands, and an instruction that finds the entries and the room it needs changes registers alone. -/

namespace Sys2Proof.Machine

/-! ### The check of the depth (R292) -/

theorem depthTrap_fits {n room need : Nat} (hroom : n + room ≤ 16) (hneed : need ≤ n) :
    depthTrap n room need = none := by
  rw [depthTrap, if_neg (Nat.not_lt.mpr hroom), if_neg (Nat.not_lt.mpr hneed)]

theorem depthTrap_overflow {n room need : Nat} (h : 16 < n + room) :
    depthTrap n room need = some { code := 0x18, info := [0, 0, BitVec.ofNat 32 n] } := if_pos h

theorem depthTrap_underflow {n room need : Nat} (hroom : n + room ≤ 16) (hneed : n < need) :
    depthTrap n room need = some { code := 0x19, info := [0, 0, BitVec.ofNat 32 n] } := by
  rw [depthTrap, if_neg (Nat.not_lt.mpr hroom), if_pos hneed]
  rfl

section
variable {s : State} {p : Plan} (h : Clear s p)
include h

theorem Clear.fault? (word : Word) : p.fault? s.wave word = none := by
  have hhold := h.hold? word
  cases hfault : p.fault? s.wave word with
  | none => rfl
  | some t =>
    rw [Plan.hold?, hfault] at hhold
    cases hhold

/-- A clear instruction stays within the limits of speculation (R317). -/
theorem Clear.stop? : (s.wave.spec.bind fun sp => (p.stop? sp).map fun c => (c, sp.slot)) = none := by
  have hblock := h.block? 0
  cases hstop : s.wave.spec.bind fun sp => (p.stop? sp).map fun c => (c, sp.slot) with
  | none => rfl
  | some x =>
    rw [Plan.block?, hstop] at hblock
    cases hblock

variable (t : TrapRec)

/-- What its own checks find is all that keeps an instruction that is clear but for them. -/
theorem Clear.block?_own (word : Word) : Plan.block? { p with own := some t } s.wave word = some (.trap t) := by
  have hkeys : s.wave.awaits p.keys = none := s.wave.awaits_none p.keys h.keys
  have hfault : Plan.fault? { p with own := some t } s.wave word = none := h.fault? word
  have hstop : (s.wave.spec.bind fun sp => (Plan.stop? { p with own := some t } sp).map fun c => (c, sp.slot)) = none :=
    h.stop?
  simp [Plan.block?, hstop, Plan.hold?, hfault, hkeys]

/-- What an instruction's own checks find is raised, on a speculated path as well, and nothing of its effect shows. -/
theorem State.run_own (body : Res) : s.run { p with own := some t } body = .next (s.takeTrap t) := by
  simp [State.run, State.blocked, h.block?_own, State.settle]

end

/-- A jump with new registers which leave every scalar and vector register completes with them. -/
theorem completes_jump_sameRegs {s : State} {p : Plan} {i : Instr} {r : WaveRegs} {pc : Pc} (h : Clear s p)
    (he : exec i s = s.run p (.jump (s.setRegs r) pc)) (hr : r.retired = s.regs.retired) :
    Completes i s p.writes pc (SameRegs r) :=
  completes_jump h he hr fun _ _ _ => ⟨rfl, ⟨rfl, rfl⟩, rfl, rfl⟩

/-! ### A MASK instruction by its need and its room -/

section
variable {s : State} {p : Plan} {i : Instr} {room need : Nat} {body : Res}
  (h : Clear s p) (he : exec i s = s.run { p with own := depthTrap s.regs.stack.length room need } body)
include h he

theorem traps_overflow (hroom : 16 < s.regs.stack.length + room) :
    Traps i s { code := 0x18, info := [0, 0, BitVec.ofNat 32 s.regs.stack.length] } := by
  rw [Traps, he, depthTrap_overflow hroom, State.run_own h]

theorem traps_underflow (hroom : s.regs.stack.length + room ≤ 16) (hneed : s.regs.stack.length < need) :
    Traps i s { code := 0x19, info := [0, 0, BitVec.ofNat 32 s.regs.stack.length] } := by
  rw [Traps, he, depthTrap_underflow hroom hneed, State.run_own h]

variable (hroom : s.regs.stack.length + room ≤ 16) (hneed : need ≤ s.regs.stack.length)
include hroom hneed

theorem exec_mask_fits : exec i s = s.run p body := by
  rw [he, depthTrap_fits hroom hneed, ← h.own]

variable {r : WaveRegs}

theorem completes_maskDone (hbody : body = .done (s.setRegs r)) (hr : r.retired = s.regs.retired) :
    Completes i s p.writes (nextPc s.regs.pc) (SameRegs r) :=
  completes_sameRegs (fun _ => r) h (by rw [exec_mask_fits h he hroom hneed, hbody]; rfl) hr

theorem completes_maskJump {pc : Pc} (hbody : body = .jump (s.setRegs r) pc) (hr : r.retired = s.regs.retired) :
    Completes i s p.writes pc (SameRegs r) :=
  completes_jump_sameRegs h (by rw [exec_mask_fits h he hroom hneed, hbody]) hr

/-- An instruction that jumps when it leaves no lane active goes where its new mask says (R298). -/
theorem completes_unlessActive {off : Nat} {em : Mask} {st : List (Mask × Pc)}
    (hbody : body = s.unlessActive off { s.regs with em := em, stack := st }) :
    Completes i s p.writes (unlessEmpty s em off) (SameRegs { s.regs with em := em, stack := st }) := by
  unfold State.unlessActive at hbody
  unfold unlessEmpty
  split
  · next hem => exact completes_maskJump h he hroom hneed (hbody.trans (if_pos hem)) rfl
  · next hem => exact completes_maskDone h he hroom hneed (hbody.trans (if_neg hem)) rfl

end

/-! ### The entries of the stack (R291) -/

section
variable {r : WaveRegs} {m : Mask} {pc : Pc} {st : List (Mask × Pc)} (h : r.stack = (m, pc) :: st)
include h

theorem WaveRegs.entry_zero : r.entry 0 = m := by simp [WaveRegs.entry, h]

theorem WaveRegs.entry_succ (n : Nat) : r.entry (n + 1) = (st.getD n (0, 0)).1 := by simp [WaveRegs.entry, h]

theorem WaveRegs.setEntry_zero (x : Mask) : r.setEntry 0 x = { r with stack := (x, r.pc) :: st } := by
  simp [WaveRegs.setEntry, h]

theorem WaveRegs.drop_succ (n : Nat) : r.drop (n + 1) = { r with stack := st.drop n } := by simp [WaveRegs.drop, h]

end

/-! ### Instructions that push (R298) -/

section
variable {s : State} {a : Nat} (h : Clear s { ops := [.s a 2 true], writes := 3 })
include h

theorem completes_maskIf (off : Nat) (hst : s.regs.stack.length ≤ 15) :
    Completes (.maskIf a off) s 3 (unlessEmpty s (s.regs.em &&& s.regs.s2 a) off)
      (SameRegs { s.regs with
        em := s.regs.em &&& s.regs.s2 a, stack := (s.regs.em &&& ~~~(s.regs.s2 a), s.regs.pc) :: s.regs.stack }) :=
  completes_unlessActive h rfl (Nat.succ_le_succ hst) (Nat.zero_le _) rfl

theorem completes_mpush (hst : s.regs.stack.length ≤ 15) :
    Completes (.mpush a) s 3 (nextPc s.regs.pc)
      (SameRegs { s.regs with
        em := s.regs.em &&& s.regs.s2 a, stack := (s.regs.em, s.regs.pc) :: s.regs.stack }) :=
  completes_maskDone h rfl (Nat.succ_le_succ hst) (Nat.zero_le _) rfl rfl

end

/-! ### Instructions at the top entry (R298) -/

section
variable {s : State} {m : Mask} {pc : Pc} {st : List (Mask × Pc)} (hs : s.regs.stack = (m, pc) :: st)
  (hst : st.length ≤ 15)
include hs hst

/-- A stack with an entry on top of at most 15 is within its depth. -/
theorem depth_of_top : s.regs.stack.length + 0 ≤ 16 ∧ 1 ≤ s.regs.stack.length := by
  rw [hs, List.length_cons]
  omega

theorem completes_maskElse (off : Nat) (h : Clear s { writes := 2 }) :
    Completes (.maskElse off) s 2 (unlessEmpty s (m &&& liveLanes s) off)
      (SameRegs { s.regs with em := m &&& liveLanes s, stack := (s.regs.em, s.regs.pc) :: st }) := by
  obtain ⟨hroom, hneed⟩ := depth_of_top hs hst
  refine completes_unlessActive h rfl hroom hneed ?_
  beta_reduce
  rw [WaveRegs.entry_zero hs, WaveRegs.setEntry_zero hs]
  rfl

theorem completes_maskEndif (h : Clear s { writes := 3 }) :
    Completes .maskEndif s 3 (nextPc s.regs.pc)
      (SameRegs { s.regs with em := (s.regs.em ||| m) &&& liveLanes s, stack := st }) := by
  obtain ⟨hroom, hneed⟩ := depth_of_top hs hst
  refine completes_maskDone h rfl hroom hneed ?_ rfl
  beta_reduce
  rw [WaveRegs.entry_zero hs, WaveRegs.drop_succ hs]
  rfl

theorem completes_mpop (h : Clear s { writes := 3 }) :
    Completes .mpop s 3 (nextPc s.regs.pc) (SameRegs { s.regs with em := m &&& liveLanes s, stack := st }) := by
  obtain ⟨hroom, hneed⟩ := depth_of_top hs hst
  refine completes_maskDone h rfl hroom hneed ?_ rfl
  beta_reduce
  rw [WaveRegs.entry_zero hs, WaveRegs.drop_succ hs]
  rfl

end

/-! ### Loops (R299) -/

/-- A jump that changes no register is one with the registers as they are. -/
theorem State.run_jump_self {s : State} {p : Plan} (h : Clear s p) (pc : Pc) :
    s.run p (.jump s pc) = s.run p (.jump (s.setRegs s.regs) pc) := by
  have hwave : (s.setRegs s.regs).wave = s.wave := State.setWave_wave s s.wave
  have hretire : (s.setRegs s.regs).retire s.regs p.writes pc = s.retire s.regs p.writes pc := by
    rw [State.retire, hwave]
    exact State.setWave_setWave s _ _
  rw [State.run_clear h, State.run_clear h]
  exact congrArg Host.Outcome.next hretire.symm

theorem exec_maskLoop_enter {s : State} (off : Nat) (hlc : s.regs.lc ≠ 0) (hem : s.regs.em ≠ 0) :
    exec (.maskLoop off) s =
      s.maskRun { writes := 4 } 2 0 fun r => .done (s.setRegs ((r.push 0).push 0)) :=
  if_neg (by simpa using ⟨hlc, hem⟩)

section
variable {s : State} (h : Clear s { writes := 4 })
include h

/-- A loop without iterations or lanes skips its body and pushes nothing. -/
theorem completes_maskLoop_skip (off : Nat) (hskip : s.regs.lc = 0 ∨ s.regs.em = 0) :
    Completes (.maskLoop off) s 4 (target s.regs.pc off) (SameRegs s.regs) := by
  have hexec : exec (.maskLoop off) s = s.run { writes := 4 } (.jump s (target s.regs.pc off)) :=
    if_pos (by simpa using hskip)
  exact completes_jump_sameRegs h (hexec.trans (State.run_jump_self h _)) rfl

theorem completes_maskLoop_enter (off : Nat) (hlc : s.regs.lc ≠ 0) (hem : s.regs.em ≠ 0)
    (hst : s.regs.stack.length ≤ 14) :
    Completes (.maskLoop off) s 4 (nextPc s.regs.pc)
      (SameRegs { s.regs with
        em := s.regs.em, stack := (0, s.regs.pc) :: (0, s.regs.pc) :: s.regs.stack }) :=
  completes_maskDone h (exec_maskLoop_enter off hlc hem) (Nat.add_le_add_right hst 2) (Nat.zero_le _) rfl rfl

end

section
variable {s : State} {m m' : Mask} {pc pc' : Pc} {st : List (Mask × Pc)}
  (hs : s.regs.stack = (m, pc) :: (m', pc') :: st) (hst : st.length ≤ 14)
include hs hst

/-- A stack with a loop's two entries on top of at most 14 is within its depth. -/
theorem depth_of_loop : s.regs.stack.length + 0 ≤ 16 ∧ 2 ≤ s.regs.stack.length := by
  rw [hs, List.length_cons, List.length_cons]
  omega

variable (h : Clear s { writes := 6 })
include h

/-- After the last iteration, or with no lane left for another, the loop's two entries are popped and the lanes that
left it are active again. -/
theorem completes_endl_last (off : Nat) (hlast : s.regs.lc.toNat ≤ 1 ∨ (s.regs.em ||| m) &&& liveLanes s = 0) :
    Completes (.endl off) s 6 (nextPc s.regs.pc)
      (SameRegs { s.regs with
        em := (((s.regs.em ||| m) &&& liveLanes s) ||| m') &&& liveLanes s, stack := st
        lc := if s.regs.lc.toNat ≤ 1 then 0 else s.regs.lc }) := by
  obtain ⟨hroom, hneed⟩ := depth_of_loop hs hst
  refine completes_maskDone h rfl hroom hneed ?_ rfl
  beta_reduce
  rw [WaveRegs.entry_zero hs, WaveRegs.entry_succ hs, WaveRegs.drop_succ hs]
  exact if_pos ((Bool.or_eq_true _ _).mpr (hlast.imp decide_eq_true decide_eq_true))

theorem completes_endl_again (off : Nat) (hlc : 1 < s.regs.lc.toNat) (hem : (s.regs.em ||| m) &&& liveLanes s ≠ 0) :
    Completes (.endl off) s 6 (target s.regs.pc off)
      (SameRegs { s.regs with
        em := (s.regs.em ||| m) &&& liveLanes s, stack := (0, s.regs.pc) :: (m', pc') :: st
        lc := s.regs.lc - 1 }) := by
  obtain ⟨hroom, hneed⟩ := depth_of_loop hs hst
  refine completes_maskJump h rfl hroom hneed ?_ rfl
  beta_reduce
  rw [WaveRegs.entry_zero hs, WaveRegs.setEntry_zero hs]
  exact if_neg fun hends => ((Bool.or_eq_true _ _).mp hends).elim
    (fun hle => Nat.not_le.mpr hlc (of_decide_eq_true hle)) fun hzero => hem (of_decide_eq_true hzero)

end

theorem maskInstructionsRule : MaskInstructionsRule := fun _ off =>
  ⟨fun _ h hst => ⟨completes_maskIf h off hst, completes_mpush h hst⟩,
    fun _ _ _ hs hst => ⟨completes_maskElse hs hst off,
      fun h => ⟨completes_maskEndif hs hst h, completes_mpop hs hst h⟩⟩,
    fun h => ⟨completes_maskLoop_skip h off, completes_maskLoop_enter h off⟩,
    fun _ _ _ _ _ hs hst h => ⟨completes_endl_last hs hst h off, completes_endl_again hs hst h off⟩⟩

/-! ### Leaving a loop's body (R300) -/

/-- `brk` and `cont` jump with the inner entries popped when all of these are empty. -/
theorem completes_leaveBody {s : State} {i : Instr} {n k off : Nat} (h : Clear s { writes := 2 + 2 * n })
    (he : exec i s = s.leaveBody n k off) (hneed : n + 2 ≤ s.regs.stack.length) (hroom : s.regs.stack.length ≤ 16) :
    let left := s.regs.stack.set k ((s.regs.stack.getD k (0, 0)).1 ||| s.regs.em, s.regs.pc)
    let empty : Prop := ∀ j < n, (s.regs.stack.getD j (0, 0)).1 = 0
    (empty → Completes i s (2 + 2 * n) (target s.regs.pc off)
      (SameRegs { s.regs with em := 0, stack := left.drop n })) ∧
    (¬ empty → Completes i s (2 + 2 * n) (nextPc s.regs.pc) (SameRegs { s.regs with em := 0, stack := left })) := by
  intro left empty
  have hempty : ((List.range n).all fun j => decide (s.regs.entry j = 0)) = true ↔ empty := by
    simp [empty, WaveRegs.entry]
  exact ⟨fun hj => completes_maskJump h he hroom hneed (if_pos (hempty.mpr hj)) rfl,
    fun hj => completes_maskDone h he hroom hneed (if_neg (mt hempty.mp hj)) rfl⟩

theorem loopExitsRule : LoopExitsRule := fun _ _ _ h hneed hroom =>
  ⟨completes_leaveBody h rfl hneed hroom, completes_leaveBody h rfl hneed hroom⟩

/-! ### Overflow and underflow (R292) -/

theorem maskStackTrapsRule : MaskStackTrapsRule := by
  intro s off n ovf unf
  refine ⟨fun a h hn => ?push, fun h hlc hem hn => ?loop, fun hn => ?top, fun hn h => ?endl, fun k hk hn h => ?leave⟩
  case push => exact ⟨traps_overflow h rfl (Nat.lt_succ_of_le hn), traps_overflow h rfl (Nat.lt_succ_of_le hn)⟩
  case loop => exact traps_overflow h (exec_maskLoop_enter off hlc hem) (Nat.add_le_add_right hn 2)
  case top =>
    have hroom : n + 0 ≤ 16 := by omega
    have hneed : n < 1 := by omega
    exact ⟨fun h => traps_underflow h rfl hroom hneed,
      fun h => ⟨traps_underflow h rfl hroom hneed, traps_underflow h rfl hroom hneed⟩⟩
  case endl => exact traps_underflow h rfl (Nat.le_trans hn.le (by decide)) hn
  case leave => exact ⟨traps_underflow h rfl hn hk, traps_underflow h rfl hn hk⟩

/-- Settles O13: each instruction is a check of the stack's depth and then a change of registers, so that it traps by
the check with nothing changed, or completes with the registers of its pseudocode. -/
theorem maskStack : Obligations.MaskStack := ⟨maskInstructionsRule, loopExitsRule, maskStackTrapsRule⟩

end Sys2Proof.Machine
end

section
/-! PROOFS. What a write of the package to memory leaves unchanged, what a byte reads as after it, and what stands in a
context's space after a record has been posted (spec/16_contexts.md R369; spec/17_host.md R403). -/

namespace Sys2Proof.Machine

/-! ### What a write changes -/

/-- The state `t` differs from `s` in memory, the poison of it, and what waits for translations or for the L2. -/
def WritesOnly (s t : State) : Prop :=
  t = { s with hbm := t.hbm, ddr := t.ddr, hostMem := t.hostMem, hostLive := t.hostLive, poison := t.poison
               l2reqs := t.l2reqs, frb := t.frb, outbox := t.outbox, posts := t.posts }

theorem WritesOnly.trans {s t u : State} (h1 : WritesOnly s t) (h2 : WritesOnly t u) : WritesOnly s u :=
  Eq.trans h2 (by rw [h1])

theorem WritesOnly.queueAt {s t : State} (h : WritesOnly s t) (ctx q : Nat) : t.queueAt ctx q = s.queueAt ctx q :=
  Eq.trans (congrArg (State.queueAt · ctx q) h) rfl

theorem writesOnly_writeTier (s : State) (tier a : Nat) (bs : List Byte) : WritesOnly s (s.writeTier tier a bs) := by
  unfold State.writeTier
  split <;> rfl

theorem writesOnly_writeCells (s : State) (cells : List (Nat × Nat × Byte)) : WritesOnly s (s.writeCells cells) := by
  suffices h : WritesOnly s (cells.foldl (fun s c => s.writeTier c.1 c.2.1 [c.2.2]) s) from h.trans rfl
  induction cells using List.reverseRecOn with
  | nil => rfl
  | append_singleton cs c ih =>
    rw [List.foldl_append]
    exact ih.trans (writesOnly_writeTier _ _ _ _)

theorem writesOnly_writeDevice (s : State) (a : Nat) (bs : List Byte) : WritesOnly s (s.writeDevice a bs) := by
  unfold State.writeDevice
  split
  · exact writesOnly_writeCells _ _
  · rfl

theorem writesOnly_takeFrb (s : State) (p : Party) (core ctx : Nat) (write : Bool) (xs : List (FrbKind × Nat)) :
    WritesOnly s (s.takeFrb p core ctx write xs) := by
  unfold State.takeFrb
  extract_lets
  split <;> rfl

theorem writesOnly_postNow (s : State) (p : Post) : WritesOnly s (s.postNow p) := by
  unfold State.postNow
  split
  · exact writesOnly_writeDevice _ _ _
  · split
    · rfl
    · split
      · exact .trans (.trans (t := s.l2Touch 48 p.ctx true (s.postPlaces p)) rfl (writesOnly_writeCells _ _)) rfl
      · exact (writesOnly_takeFrb _ _ _ _ _ _).trans rfl

theorem writesOnly_post (s : State) (p : Post) : WritesOnly s (s.post p) := by
  unfold State.post
  split
  · rfl
  · exact writesOnly_postNow s p

/-! ### What a byte reads as after cells are written -/

theorem Memory.read_write (m : Memory) (a c : Nat) (b : Byte) :
    (m.write a b).read c = if a = c then b else m.read c := by
  split
  · next h => rw [h, Memory.read_write_same]
  · next h => exact Memory.read_write_ne m a c b (Ne.symm h)

/-- Two numbers of tiers name one memory: all from 2 on are the host's. -/
theorem byteAt_writeTier (s : State) (tier a tr c : Nat) (b : Byte) :
    byteAt (s.writeTier tier a [b]) tr c = if min tier 2 = min tr 2 ∧ a = c then b else byteAt s tr c := by
  rcases tier with _ | _ | tier <;> rcases tr with _ | _ | tr <;>
    simp [byteAt, State.writeTier, Memory.writeList, Memory.read_write]

theorem afterCells_concat (cs : List (Nat × Nat × Byte)) (x : Nat × Nat × Byte) (tr c : Nat) (old : Byte) :
    afterCells (cs ++ [x]) tr c old = if min x.1 2 = min tr 2 ∧ x.2.1 = c then x.2.2 else afterCells cs tr c old := by
  by_cases h : min x.1 2 = min tr 2 ∧ x.2.1 = c
  · simp [afterCells, h]
  · simp [afterCells, h]

theorem byteAt_writeCells (s : State) (cells : List (Nat × Nat × Byte)) (tr c : Nat) :
    byteAt (s.writeCells cells) tr c = afterCells cells tr c (byteAt s tr c) := by
  suffices h : byteAt (cells.foldl (fun s c => s.writeTier c.1 c.2.1 [c.2.2]) s) tr c =
    afterCells cells tr c (byteAt s tr c) from h
  induction cells using List.reverseRecOn with
  | nil => rfl
  | append_singleton cs x ih => rw [List.foldl_append, afterCells_concat, ← ih]; exact byteAt_writeTier _ _ _ _ _ _

/-- The cells of bytes at consecutive addresses. -/
theorem afterCells_mapIdx (bs : List Byte) (tier pa tr c : Nat) (old : Byte) :
    afterCells (bs.mapIdx fun i b => (tier, pa + i, b)) tr c old =
      if min tier 2 = min tr 2 ∧ pa ≤ c ∧ c < pa + bs.length then bs.getD (c - pa) 0 else old := by
  induction bs using List.reverseRecOn with
  | nil => simp [afterCells]
  | append_singleton bs b ih =>
    rw [List.mapIdx_concat, afterCells_concat, ih]
    by_cases ht : min tier 2 = min tr 2
    · by_cases hc : pa + bs.length = c
      · simp [ht, ← hc]
      · by_cases hin : pa ≤ c ∧ c < pa + bs.length
        · have hlt : c - pa < bs.length := by omega
          simp [ht, hc, hin, List.getD, List.getElem?_append_left hlt, Nat.lt_succ_of_lt hin.2, ← Nat.add_assoc]
        · have hout : ¬(pa ≤ c ∧ c < pa + (bs.length + 1)) := by omega
          simp [ht, hc, hin, hout]
    · simp [ht]

/-! ### Translation and another party's entries -/

section
variable {p p' : Party} (h : p ≠ p')
include h

theorem State.filterMap_dropFrb {α : Type} (s : State) {f : FrbEntry → Option α} (hf : ∀ e, e.party ≠ p → f e = none) :
    (s.dropFrb p').frb.filterMap f = s.frb.filterMap f := by
  rw [State.dropFrb, List.filterMap_filter]
  congr 1
  funext e
  by_cases he : e.party = p
  · simp [he, h]
  · simp [hf e he]

theorem State.hostPage_dropFrb (s : State) : (s.dropFrb p').hostPage p = s.hostPage p := by
  funext ctx write page
  unfold State.hostPage
  simp only [← List.head?_filterMap]
  rw [s.filterMap_dropFrb h fun e he => by simp [he]]
  rfl

theorem State.waitOr_dropFrb (s : State) : (s.dropFrb p').waitOr p = s.waitOr p := by
  funext kind page
  rw [State.waitOr, s.filterMap_dropFrb h fun e he => by simp [he]]
  rfl

theorem State.translate_dropFrb (s : State) : (s.dropFrb p').translate p = s.translate p := by
  funext ctx va write priv
  have hwalk (look : Nat → Option Nat) (l tier base : Nat) :
      (s.dropFrb p').walk look va l tier base = s.walk look va l tier base := by
    induction l generalizing tier base with
    | zero => unfold State.walk; rfl
    | succ l ih => unfold State.walk; simp only [ih]; rfl
  have hleaf : (s.dropFrb p').findLeaf p ctx va = s.findLeaf p ctx va := by
    simp only [State.findLeaf, hwalk, s.hostPage_dropFrb h]
    rfl
  simp only [State.translate, hleaf, s.waitOr_dropFrb h, s.hostPage_dropFrb h]
  rfl

theorem State.look_dropFrb (s : State) : (s.dropFrb p').look p = s.look p := by
  unfold State.look
  rw [s.translate_dropFrb h]

end

/-- Dropping by a weaker test leaves no more. -/
theorem mem_dropWhile_of_imp {α : Type} {f g : α → Bool} (h : ∀ x, f x = true → g x = true) {l : List α} {x : α}
    (hx : x ∈ l.dropWhile g) : x ∈ l.dropWhile f := by
  induction l with
  | nil => exact hx
  | cons a l ih =>
    by_cases hf : f a = true
    · rw [List.dropWhile_cons_of_pos hf]
      rw [List.dropWhile_cons_of_pos (h a hf)] at hx
      exact ih hx
    · rw [List.dropWhile_cons_of_neg hf]
      exact (List.dropWhile_sublist g).mem hx

theorem State.mem_frbTail_of_dropFrb {s : State} {p' : Party} {core : Nat} {e : FrbEntry}
    (h : e ∈ (s.dropFrb p').frbTail core) : e ∈ s.frbTail core := by
  unfold State.frbTail State.dropFrb at h
  rw [List.filter_comm, List.dropWhile_filter] at h
  exact mem_dropWhile_of_imp (fun x hx => by simp [hx]) (List.mem_of_mem_filter h)

/-- With fewer entries in the buffer a party does not wait for more of them. -/
theorem State.frbWaits_dropFrb {s : State} {p : Party} (p' : Party) (h : s.frbWaits p = false) :
    (s.dropFrb p').frbWaits p = false := by
  unfold State.frbWaits at h ⊢
  rw [List.any_eq_false] at h ⊢
  intro e he hwait
  refine h e (List.mem_of_mem_filter he) ?_
  simp only [Bool.and_eq_true, Bool.or_eq_true, List.any_eq_true] at hwait ⊢
  obtain ⟨hp, hopen | ⟨hcore, x, hx, hxp⟩⟩ := hwait
  · exact ⟨hp, .inl hopen⟩
  · exact ⟨hp, .inr ⟨hcore, x, State.mem_frbTail_of_dropFrb hx, hxp⟩⟩

/-! ### What has been posted (R369) -/

theorem pieces_onePage {a n : Nat} (hpage : a % 4096 + n ≤ 4096) (hn : 0 < n) : pieces a n = [(a, n)] := by
  have hlast : (a + n - 1) / 4096 = a / 4096 := by omega
  have hlen : min (a + n) ((a / 4096 + 1) * 4096) - a = n := by omega
  simp [pieces, Nat.pos_iff_ne_zero.mp hn, hlast, hlen]

theorem waitsFor_onePage {s : State} {p : Party} {ctx a n : Nat} {write : Bool} (hpage : a % 4096 + n ≤ 4096)
    (hn : 0 < n) : s.waitsFor p ctx write [(a, n)] = (s.look p ctx a write).waits.toList := by
  cases h : (s.look p ctx a write).waits <;> simp [State.waitsFor, pieces_onePage hpage hn, h, List.eraseDups_cons]

theorem XOut.waits_of_place {x : XOut} {y : Nat × Nat} (h : x.place = some y) : x.waits = none := by
  cases x <;> simp_all [XOut.place, XOut.waits]

theorem State.post_later {s : State} {p : Post} (h : ∃ x ∈ s.posts, x.ctx = p.ctx) :
    s.post p = { s with posts := s.posts ++ [p] } :=
  if_pos (by simpa using h)

theorem State.post_first {s : State} {p : Post} (h : ∀ x ∈ s.posts, x.ctx ≠ p.ctx) : s.post p = s.postNow p :=
  if_neg (by simpa using h)

section
variable {s : State} {p : Post} (hpage : p.addr % 4096 + p.bytes.length ≤ 4096) (hn : 0 < p.bytes.length)
  (hdev : p.dev = false) (hfree : s.frbWaits (postParty p.ctx) = false)
include hpage hn hdev hfree

/-- A write whose page translates is done. -/
theorem State.byteAt_postNow {tier pa : Nat}
    (h : (s.look (postParty p.ctx) p.ctx p.addr true).place = some (tier, pa)) (tr c : Nat) :
    byteAt (s.postNow p) tr c =
      if min tier 2 = min tr 2 ∧ pa ≤ c ∧ c < pa + p.bytes.length then p.bytes.getD (c - pa) 0 else byteAt s tr c := by
  have hcells : s.postCells p = p.bytes.mapIdx fun i b => (tier, pa + i, b) := by
    simp [State.postCells, pieces_onePage hpage hn, h]
  have hnow : s.postNow p =
      ((s.l2Touch 48 p.ctx true (s.postPlaces p)).writeCells (s.postCells p)).dropFrb (postParty p.ctx) := by
    simp [State.postNow, hdev, hfree, waitsFor_onePage hpage hn, XOut.waits_of_place h]
  rw [hnow, ← afterCells_mapIdx, ← hcells]
  exact byteAt_writeCells _ _ _ _

/-- A write whose page is still to be found waits. -/
theorem State.postNow_waits {y : FrbKind × Nat}
    (h : (s.look (postParty p.ctx) p.ctx p.addr true).waits = some y) :
    s.postNow p = { s.takeFrb (postParty p.ctx) 48 p.ctx true [y] with posts := s.posts ++ [p] } := by
  simp [State.postNow, hdev, hfree, waitsFor_onePage hpage hn, h]

end

theorem State.byteAt_takeFrb (s : State) (p : Party) (core ctx : Nat) (write : Bool) (xs : List (FrbKind × Nat)) :
    byteAt (s.takeFrb p core ctx write xs) = byteAt s := by
  unfold State.takeFrb
  extract_lets
  split <;> rfl

theorem postDone_post (s : State) (p : Post) : PostDone s (s.post p) p := by
  intro hpage hn hdev
  refine ⟨fun hfirst hfree => ?first, fun hlater => ?later⟩
  case later =>
    rw [State.post_later hlater]
    exact ⟨rfl, fun _ _ => rfl⟩
  case first =>
    rw [State.post_first hfirst]
    refine ⟨fun tier pa hplace => ?done, fun hwaits => ?waits⟩
    case done =>
      have hbyte := State.byteAt_postNow hpage hn hdev hfree hplace
      exact ⟨fun i hi => by simp [hbyte, hi], fun tr a h => by rw [hbyte, if_neg]; omega⟩
    case waits =>
      obtain ⟨y, hy⟩ := Option.isSome_iff_exists.mp hwaits
      rw [State.postNow_waits hpage hn hdev hfree hy]
      exact ⟨by simp, fun tr a => congrFun (congrFun (s.byteAt_takeFrb (postParty p.ctx) 48 p.ctx true [y]) tr) a⟩

/-- What a party that is not the context's own has in the buffer does not matter to a write of the context. -/
theorem PostDone.of_dropFrb {s t : State} {p : Post} {p' : Party} (hp : postParty p.ctx ≠ p')
    (h : PostDone (s.dropFrb p') t p) : PostDone s t p := by
  intro hpage hn hdev
  obtain ⟨hfirst, hlater⟩ := h hpage hn hdev
  rw [State.look_dropFrb (p := Party.remote p.ctx 1) hp] at hfirst
  exact ⟨fun h hfree => hfirst h (State.frbWaits_dropFrb p' hfree), hlater⟩

theorem PostDone.congr {s t t' : State} {p : Post} (h : PostDone s t p) (hposts : t'.posts = t.posts)
    (hbyte : byteAt t' = byteAt t) : PostDone s t' p := by
  simpa only [PostDone, hposts, hbyte] using h

/-! ### The end of a command (R403) -/

@[simp] theorem State.queueAt_updQueue_same (s : State) (ctx q : Nat) (f : Queue → Queue) :
    (s.updQueue ctx q f).queueAt ctx q = f (s.queueAt ctx q) := by
  simp [State.queueAt, State.updQueue, State.updCtx, State.ctxAt]

theorem writesOnly_endJournal (s : State) (ctx q : Nat) (x : Cmd) (st : Nat) :
    WritesOnly s (s.endJournal ctx q x st) := by
  unfold State.endJournal
  split
  · rfl
  · exact writesOnly_post _ _

section
variable (s : State) (ctx q : Nat) (x : Cmd) (st d0 d1 : Nat)

/-- The completion record of a command, for the next slot of its queue's ring. -/
def State.completionPost : Post :=
  let k := s.queueAt ctx q
  { ctx := ctx, queue := some q, addr := k.crbase.toNat + 32 * (k.written % k.size), bytes := x.record st d0 d1 }

/-- The state with a completion record posted and counted, before the journal's last record. -/
def State.recorded : State :=
  ((s.dropFrb (queueParty ctx q)).post (s.completionPost ctx q x st d0 d1)).updQueue ctx q fun k =>
    { k with written := k.written + 1, busy := if k.busy = some x then none else k.busy }

theorem State.complete_eq : s.complete ctx q x st d0 d1 = (s.recorded ctx q x st d0 d1).endJournal ctx q x st := rfl

theorem writesOnly_postRecord :
    WritesOnly s ((s.dropFrb (queueParty ctx q)).post (s.completionPost ctx q x st d0 d1)) :=
  .trans (t := s.dropFrb (queueParty ctx q)) rfl (writesOnly_post _ _)

theorem State.queueAt_complete :
    (s.complete ctx q x st d0 d1).queueAt ctx q =
      { s.queueAt ctx q with
        written := (s.queueAt ctx q).written + 1
        busy := if (s.queueAt ctx q).busy = some x then none else (s.queueAt ctx q).busy } := by
  rw [State.complete_eq, (writesOnly_endJournal _ _ _ _ _).queueAt, State.recorded, State.queueAt_updQueue_same,
    (writesOnly_postRecord s ctx q x st d0 d1).queueAt]

theorem State.complete_owner :
    let t := s.complete ctx q x st d0 d1
    t.owned = s.owned ∧ t.owner = s.owner ∧ t.giver = s.giver ∧ t.cycle = s.cycle := by
  intro t
  have hjournal : WritesOnly (s.recorded ctx q x st d0 d1) t := writesOnly_endJournal _ _ _ _ _
  rw [hjournal, State.recorded, State.updQueue, State.updCtx, writesOnly_postRecord s ctx q x st d0 d1]
  exact ⟨rfl, rfl, rfl, rfl⟩

theorem finished_complete : Finished s (s.complete ctx q x st d0 d1) ctx q x st d0 d1 := by
  refine ⟨?written, fun hbusy => ?busy, fun hjrn => ?record⟩
  case written => rw [State.queueAt_complete]
  case busy => rw [State.queueAt_complete, if_pos hbusy]
  case record =>
    have hparty : postParty ctx ≠ queueParty ctx q := by simp [postParty, queueParty]; omega
    have hpost : PostDone s _ (s.completionPost ctx q x st d0 d1) := .of_dropFrb hparty (postDone_post _ _)
    have hrecorded : s.complete ctx q x st d0 d1 = s.recorded ctx q x st d0 d1 := by
      rw [State.complete_eq, State.endJournal, hjrn]
    rw [hrecorded]
    exact hpost.congr rfl rfl

end

/-- What a finished command has left stands in memory, in the writes that wait and in the queues alone. -/
theorem Finished.congr {u t t' : State} {ctx q : Nat} {x : Cmd} {st d0 d1 : Nat} (h : Finished u t ctx q x st d0 d1)
    (hctxs : t'.ctxs = t.ctxs) (hposts : t'.posts = t.posts) (hbyte : byteAt t' = byteAt t) :
    Finished u t' ctx q x st d0 d1 := by
  have hqueue : t'.queueAt ctx q = t.queueAt ctx q := by simp only [State.queueAt, State.ctxAt, hctxs]
  obtain ⟨hwritten, hbusy, hrecord⟩ := h
  exact ⟨hqueue ▸ hwritten, hqueue ▸ hbusy, fun hjrn => (hrecord hjrn).congr hposts hbyte⟩

/-- A command at work goes on on its own state (R333, R399). -/
theorem AtWork.command {s y : State} {ctx q op : Nat} {x : Cmd} (h : AtWork s ctx q op y x)
    {mine : Nat → Bool} (hmine : mine op = true) (go : State → Cmd → Out) : s.command ctx q mine go = go y x := by
  obtain ⟨rfl, ⟨hbusy, rfl⟩ | ⟨hbusy, hentry, s1, ss, haccept, hstart, hop, hgood, rfl, rfl⟩⟩ := h
  · simp [State.command, hbusy, hmine]
  · simp [State.command, hbusy, hentry, haccept, hstart, hop, hgood, hmine]

end Sys2Proof.Machine
end

section
/-! PROOFS. The ownership of the package (spec/17_host.md R395 to R398, R419): an event changes the ownership registers,
and ends a pending handover by completing its command. -/

namespace Sys2Proof.Machine

/-! ### Claims and the election (R396) -/

section
variable {s : State} (m : Nat)

theorem exec_ownclaim_opens (howned : s.owned = false) (hclosed : s.openWin = false) :
    exec (.ownclaim m) s = .next
      { s with openWin := true, claims := [requester m], winEnd := s.cycle + 14000 } := by
  change execOwnclaim m s = _
  simp [execOwnclaim, howned, hclosed]

theorem exec_ownclaim_joins (howned : s.owned = false) (hopen : s.openWin = true) :
    exec (.ownclaim m) s = .next { s with claims := s.claims ++ [requester m] } := by
  change execOwnclaim m s = _
  simp [execOwnclaim, howned, hopen]

theorem exec_ownclaim_ignored (howned : s.owned = true) (hgiver : s.giver = none) :
    exec (.ownclaim m) s = .next s := by
  change execOwnclaim m s = _
  simp [execOwnclaim, howned, hgiver]

end

theorem lowest_eq_min? (l : List Nat) : lowest l = l.min? := by
  induction l with
  | nil => rfl
  | cons x l ih => rw [lowest, ih, List.min?_cons]

theorem exec_electionWindowEnd {s : State} {w : Nat} (hclaim : w ∈ s.claims) (hleast : ∀ x ∈ s.claims, w ≤ x)
    (hopen : s.openWin = true) (hend : s.winEnd ≤ s.cycle) :
    exec .electionWindowEnd s = .next
      { s with owned := true, owner := w, openWin := false, claims := [], beat := s.cycle } := by
  have hlow : lowest s.claims = some w := by rw [lowest_eq_min?, List.min?_eq_some_iff]; exact ⟨hclaim, hleast⟩
  change execElectionWindowEnd s = _
  simp [execElectionWindowEnd, State.windowOver, hopen, hend, hlow, State.setOwner]

/-! ### The lease (R397) -/

theorem exec_ownbeat_owner {s : State} {m : Nat} (howned : s.owned = true) (howner : s.owner = requester m) :
    exec (.ownbeat m) s = .next { s with beat := s.cycle } := by
  change execOwnbeat m s = _
  simp [execOwnbeat, State.isOwner, howned, howner]

theorem dropped_ownbeat {s : State} {m : Nat} (h : s.owned = false ∨ s.owner ≠ requester m) :
    Dropped (.ownbeat m) s := by
  have hother : s.isOwner m = false := by simpa [State.isOwner, or_iff_not_imp_left] using h
  change execOwnbeat m s = _
  simp [execOwnbeat, State.drop, hother]

theorem exec_ownershipLapse {s : State} (howned : s.owned = true) (hms : s.leaseMs ≠ 0)
    (hend : s.beat + s.leaseMs * 1400000 ≤ s.cycle) :
    exec .ownershipLapse s = .next { s.endHandover .handoverLapsed s.target with owned := false } := by
  change execOwnershipLapse s = _
  simp [execOwnershipLapse, State.leaseOver, clocksPerMs, howned, hms, hend]

theorem State.endHandover_none {s : State} (hgiver : s.giver = none) (st : CmdStatus) (d0 : Nat) :
    s.endHandover st d0 = s := by
  simp [State.endHandover, hgiver]

/-! ### The end of a pending handover (R398) -/

/-- The state without its pending handover. -/
def State.noGiver (s : State) : State := { s with giver := none }

theorem sameMemory_noGiver (s : State) : SameMemory s s.noGiver := fun _ => ⟨rfl, rfl, rfl, fun _ => rfl⟩

section
variable {s : State} {c q : Nat} (hgiver : s.giver = some (c, q))
include hgiver

theorem exec_ownclaim_target {m : Nat} (howned : s.owned = true) (htarget : requester m = s.target) :
    exec (.ownclaim m) s = .next ((s.endHandover .ok 0).setOwner (requester m)) := by
  change execOwnclaim m s = _
  simp [execOwnclaim, howned, hgiver, htarget]

theorem exec_handoverLapsed (hend : s.giveEnd ≤ s.cycle) :
    exec .handoverLapsed s = .next (s.endHandover .handoverLapsed s.target) := by
  change execHandoverLapsed s = _
  simp [execHandoverLapsed, State.handoverOver, hgiver, hend]

variable {x : Cmd} (hbusy : (s.queueAt c q).busy = some x) (hop : x.op = 8)
include hbusy hop

theorem State.endHandover_complete (st : CmdStatus) (d0 : Nat) :
    s.endHandover st d0 = s.noGiver.complete c q x st.code d0 0 := by
  simp [State.endHandover, State.noGiver, hgiver, hbusy, hop]

theorem endHandover_finished (st : CmdStatus) (d0 : Nat) :
    Finished s.noGiver (s.endHandover st d0) c q x st.code d0 0 := by
  rw [State.endHandover_complete hgiver hbusy hop]
  exact finished_complete _ _ _ _ _ _ _

theorem endHandover_owner (st : CmdStatus) (d0 : Nat) :
    let t := s.endHandover st d0
    t.owned = s.owned ∧ t.owner = s.owner ∧ t.giver = none ∧ t.cycle = s.cycle := by
  rw [State.endHandover_complete hgiver hbusy hop]
  exact State.complete_owner _ _ _ _ _ _ _

end

/-- A pending handover of an owned package ends by its target's claim, by its time, or with the owner's lease. -/
theorem handover_ends {s : State} {c q : Nat} {x : Cmd} (m : Nat) (howned : s.owned = true)
    (hgiver : s.giver = some (c, q)) (hbusy : (s.queueAt c q).busy = some x) (hop : x.op = 8) :
    let like := fun u : State => SameMemory s u ∧ u.queueAt c q = s.queueAt c q
    (requester m = s.target → ∃ t u, exec (.ownclaim m) s = .next t ∧ like u ∧ Finished u t c q x 0 0 0 ∧
      t.owner = requester m ∧ t.owned = true ∧ t.giver = none ∧ t.beat = s.cycle) ∧
    (s.giveEnd ≤ s.cycle → ∃ t u, exec .handoverLapsed s = .next t ∧ like u ∧ Finished u t c q x 15 s.target 0 ∧
      t.giver = none ∧ t.owner = s.owner ∧ t.owned = true) ∧
    (s.leaseMs ≠ 0 → s.beat + s.leaseMs * 1400000 ≤ s.cycle → ∃ t u, exec .ownershipLapse s = .next t ∧ like u ∧
      Finished u t c q x 15 s.target 0 ∧ t.giver = none ∧ t.owned = false) := by
  intro like
  have hlike : like s.noGiver := ⟨sameMemory_noGiver s, rfl⟩
  have hok := endHandover_finished hgiver hbusy hop .ok 0
  have hlapsed := endHandover_finished hgiver hbusy hop .handoverLapsed s.target
  obtain ⟨-, -, hokGiver, hokCycle⟩ := endHandover_owner hgiver hbusy hop .ok 0
  obtain ⟨hsameOwned, hsameOwner, hgone, -⟩ := endHandover_owner hgiver hbusy hop .handoverLapsed s.target
  refine ⟨fun htarget => ?claim, fun hend => ?time, fun hms hend => ?lease⟩
  case claim =>
    exact ⟨_, _, exec_ownclaim_target hgiver howned htarget, hlike, hok.congr rfl rfl rfl, rfl, rfl, hokGiver, hokCycle⟩
  case time =>
    exact ⟨_, _, exec_handoverLapsed hgiver hend, hlike, hlapsed, hgone, hsameOwner, hsameOwned.trans howned⟩
  case lease =>
    exact ⟨_, _, exec_ownershipLapse howned hms hend, hlike, hlapsed.congr rfl rfl rfl, hgone, rfl⟩

/-! ### OWNERSHIP (R398, R419) -/

section
variable {s y : State} {ctx q : Nat} {x : Cmd} (h : AtWork s ctx q 8 y x) (hgiver : y.giver = none)
include h hgiver

theorem exec_ownership_gives (howned : y.owned = true) :
    exec (.ownership ctx q) s = .next
      { y with giver := some (ctx, q), target := fld x.ent 8 2, giveEnd := y.cycle + 100 * 1400000 } := by
  change execOwnership ctx q s = _
  rw [execOwnership, h.command (by simp)]
  simp [hgiver, howned, clocksPerMs]

theorem exec_ownership_noOwner (howned : y.owned = false) :
    exec (.ownership ctx q) s = .next (y.complete ctx q x 15 (fld x.ent 8 2) 0) := by
  change execOwnership ctx q s = _
  rw [execOwnership, h.command (by simp)]
  simp [hgiver, howned, CmdStatus.code]

end

/-- Settles O45: a claim, a beat and the end of the window or of the lease write the ownership registers; a handover
ends, in each of its three ways, with its command's completion on the state without it. -/
theorem ownership : Obligations.Ownership := by
  intro s m id claim like
  refine ⟨exec_ownclaim_opens m, exec_ownclaim_joins m, exec_ownclaim_ignored m, fun c q x => handover_ends m,
    exec_ownbeat_owner, dropped_ownbeat, fun w => exec_electionWindowEnd, fun howned hgiver hms hend => ?lapse,
    fun ctx q y x hwork hgiver => ⟨exec_ownership_gives hwork hgiver, fun howned => ?noOwner⟩⟩
  case lapse => rw [exec_ownershipLapse howned hms hend, State.endHandover_none hgiver]
  case noOwner => exact ⟨_, exec_ownership_noOwner hwork hgiver howned, finished_complete _ _ _ _ _ _ _⟩

end Sys2Proof.Machine
end
